-- ==== Sys2Proof/Word.lean ====
section
/-! DEFINITION. The words and the small shapes the whole model is written in: bytes, 16-bit words, module
positions, and the three fixed-size families (per position, per output, per slot) that the spec indexes. -/

namespace Sys2Proof

/-- A byte of shared memory or of a link frame. -/
abbrev Byte := BitVec 8

/-- A word of the host bus (R182). -/
abbrev Word := BitVec 16

/-- A module position 0, 1 or 2 (00_scope.md, Terms). -/
abbrev Pos := Fin 3

/-- One value for each module position. -/
structure PerPos (α : Type) where
  p0 : α
  p1 : α
  p2 : α
  deriving DecidableEq, Repr

/-- The four outputs, in the bit order of R187: LAMP_CALL, LAMP_LINK, LAMP_FAULT, BEACON. -/
inductive Output where
  | lampCall | lampLink | lampFault | beacon
  deriving DecidableEq, Repr

/-- One value for each output. -/
structure PerOut (α : Type) where
  lampCall : α
  lampLink : α
  lampFault : α
  beacon : α
  deriving DecidableEq, Repr

/-- One value for each of the eight order slots (R188). -/
structure PerSlot (α : Type) where
  s0 : α
  s1 : α
  s2 : α
  s3 : α
  s4 : α
  s5 : α
  s6 : α
  s7 : α
  deriving DecidableEq, Repr

namespace PerPos

/-- The value at a position. -/
def get {α : Type} (v : PerPos α) (p : Pos) : α :=
  match p with
  | 0 => v.p0
  | 1 => v.p1
  | 2 => v.p2

/-- The family with one position's value replaced. -/
def set {α : Type} (v : PerPos α) (p : Pos) (x : α) : PerPos α :=
  match p with
  | 0 => { v with p0 := x }
  | 1 => { v with p1 := x }
  | 2 => { v with p2 := x }

/-- The same value at every position. -/
def all {α : Type} (x : α) : PerPos α := ⟨x, x, x⟩

end PerPos

namespace PerOut

/-- The value of an output. -/
def get {α : Type} (v : PerOut α) (o : Output) : α :=
  match o with
  | .lampCall => v.lampCall
  | .lampLink => v.lampLink
  | .lampFault => v.lampFault
  | .beacon => v.beacon

/-- The family with one output's value replaced. -/
def set {α : Type} (v : PerOut α) (o : Output) (x : α) : PerOut α :=
  match o with
  | .lampCall => { v with lampCall := x }
  | .lampLink => { v with lampLink := x }
  | .lampFault => { v with lampFault := x }
  | .beacon => { v with beacon := x }

end PerOut

namespace PerSlot

/-- The value of slot `k`. -/
def get {α : Type} (v : PerSlot α) (k : Fin 8) : α :=
  match k with
  | 0 => v.s0
  | 1 => v.s1
  | 2 => v.s2
  | 3 => v.s3
  | 4 => v.s4
  | 5 => v.s5
  | 6 => v.s6
  | 7 => v.s7

/-- The family with slot `k`'s value replaced. -/
def set {α : Type} (v : PerSlot α) (k : Fin 8) (x : α) : PerSlot α :=
  match k with
  | 0 => { v with s0 := x }
  | 1 => { v with s1 := x }
  | 2 => { v with s2 := x }
  | 3 => { v with s3 := x }
  | 4 => { v with s4 := x }
  | 5 => { v with s5 := x }
  | 6 => { v with s6 := x }
  | 7 => { v with s7 := x }

/-- The same value in every slot. -/
def all {α : Type} (x : α) : PerSlot α := ⟨x, x, x, x, x, x, x, x⟩

end PerSlot

/-- The positions in ascending order. -/
def positions : List Pos := [0, 1, 2]

/-- The slots in ascending order. -/
def slotNumbers : List (Fin 8) := [0, 1, 2, 3, 4, 5, 6, 7]

/-- The outputs in the bit order of R187. -/
def outputs : List Output := [.lampCall, .lampLink, .lampFault, .beacon]

end Sys2Proof
end

