-- ==== Sys2Proof/Syntax.lean ====
section
/-! DEFINITION. The commands of the CT-3 and their operands: `Instr` has one constructor for each row of
spec/opcode_table.json. -/

namespace Sys2Proof

/-- The straps latched at a reset release (R179): HOOK present (R120), link speed (R129, true is 460,800 baud)
and the positions-wired code 0 to 3 (R148). -/
structure Straps where
  hook : Bool
  fastLink : Bool
  wiredCode : BitVec 2
  deriving DecidableEq, Repr

/-- One sample of the four input pins; true is the active level, a low pin (R118). -/
structure Pins where
  call : Bool
  hook : Bool
  door : Bool
  quiet : Bool
  deriving DecidableEq, Repr

/-- One character of the return line (R129): its mark bit and its data bits. -/
structure LinkChar where
  mark : Bool
  data : Byte
  deriving DecidableEq, Repr

/-- The reasons of a REPLY_NAK (R130). -/
inductive NakReason where
  | busy | noService | badFrame | notAllowed
  deriving DecidableEq, Repr

/-- The errors a reply can show on the line (R133, codes 2 to 7; the timeout and BAD_FRAME have commands of
their own). -/
inductive ReplyErrorKind where
  | framing | mark | length | check | destination | kind
  deriving DecidableEq, Repr

/-- The causes of CALL_ENDED (R130). -/
inductive EndCause where
  | normal | refusedNetwork | numberRejected | noService | radioLost | other
  deriving DecidableEq, Repr

/-- The results of DATA_RESULT (R130). -/
inductive DataVerdict where
  | accepted | rejected | repeated
  deriving DecidableEq, Repr

/-- A module event as the blocks take it (R130, R146). -/
inductive ModuleEvent where
  | proceeding
  | alerting
  | answered
  | ended (cause : EndCause)
  | incoming (caller : List Byte)
  | scanReady (count : Byte)
  | dataResult (verdict : DataVerdict)
  | levelReport (level : BitVec 16) (quality : Option Byte)
  | serviceLost
  deriving DecidableEq, Repr

/-- The commands, in the order of spec/opcode_table.json. A docstring names the row and its rule. -/
inductive Instr where
  /-- POWER_ON_RESET (R179), with the straps and the first input samples after release (R121). -/
  | powerOnReset (straps : Straps) (pins : Pins)
  /-- PIN_RESET (R179). -/
  | pinReset (straps : Straps) (pins : Pins)
  /-- DOZE (R161). -/
  | doze
  /-- WAKE (R162). -/
  | wake
  /-- SOFT_RESET (R195). -/
  | softReset
  /-- RELEASE_FAULT (R198). -/
  | releaseFault
  /-- CLEAR_TALLY (R198). -/
  | clearTally
  /-- OFFER (R188), with the word written. -/
  | offerWrite (value : Word)
  /-- DONE (R191), with the word written. -/
  | doneWrite (value : Word)
  /-- CAUSE (R192), with the word written. -/
  | causeWrite (value : Word)
  /-- CAUSEEN (R193), with the word written. -/
  | causeenWrite (value : Word)
  /-- LAMPS (R125), with the word written. -/
  | lampsWrite (value : Word)
  /-- UNUSED_REGISTER_WRITE (R187), with the register address and the word written. -/
  | unusedRegisterWrite (addr : BitVec 11) (value : Word)
  /-- HOST_WRITE (R183), with the byte address of the word and the word written. -/
  | hostWrite (addr : BitVec 12) (value : Word)
  /-- PLACE (R68): ORD takes the lowest OFFERED slot, and it holds a PLACE. -/
  | placeOrder
  /-- CLEAR (R86), taken likewise. -/
  | clearOrder
  /-- SCAN (R169), taken likewise. -/
  | scanOrder
  /-- LOAD_PLAN (R173), taken likewise. -/
  | loadPlan
  /-- MODULE (R158), taken likewise. -/
  | moduleOrder
  /-- UNKNOWN_KIND (R189), taken likewise. -/
  | unknownKind
  /-- SECONDS_CLOCK_ADVANCE (R186). -/
  | secondsClockAdvance
  /-- BENCH_EXPIRY (R16): an advance of the seconds clock at which a bench ends. -/
  | benchExpiry
  /-- CALL_PRESS (R69). -/
  | callPress
  /-- HOOK_ON (R74). -/
  | hookOn
  /-- HOOK_OFF (R75). -/
  | hookOff
  /-- DOOR_OPEN (R119). -/
  | doorOpen
  /-- DOOR_CLOSED (R119). -/
  | doorClosed
  /-- QUIET_ON (R127). -/
  | quietOn
  /-- QUIET_OFF (R127). -/
  | quietOff
  /-- PATTERN_TIMER_EXPIRY (R124), with the output whose timer it is. -/
  | patternTimerExpiry (o : Output)
  /-- WAKE_WAIT_EXPIRY (R37). -/
  | wakeWaitExpiry
  /-- GATHER_TIMER_EXPIRY (R43). -/
  | gatherTimerExpiry
  /-- BACKOFF_TIMER_EXPIRY (R61). -/
  | backoffTimerExpiry
  /-- LAUNCH_STAGGER_EXPIRY (R32). -/
  | launchStaggerExpiry
  /-- ATTEMPT_TIMER_EXPIRY (R49), with the record's position. -/
  | attemptTimerExpiry (p : Pos)
  /-- HOOK_MASK_EXPIRY (R73). -/
  | hookMaskExpiry
  /-- CALLBACK_TIMER_EXPIRY (R85). -/
  | callbackTimerExpiry
  /-- ACKNOWLEDGEMENT_TIMER_EXPIRY (R99). -/
  | acknowledgementTimerExpiry
  /-- GAP_TIMER_EXPIRY (R110). -/
  | gapTimerExpiry
  /-- PHASE_TIMER_EXPIRY (R113). -/
  | phaseTimerExpiry
  /-- POLL_TIMER_EXPIRY (R143), with the module's position. -/
  | pollTimerExpiry (p : Pos)
  /-- BOOT_TIMER_EXPIRY (R149): the boot or the wake timer. -/
  | bootTimerExpiry (p : Pos)
  /-- PULSE_TIMER_EXPIRY (R149). -/
  | pulseTimerExpiry (p : Pos)
  /-- PROBE_RETRY_EXPIRY (R149). -/
  | probeRetryExpiry (p : Pos)
  /-- REPLY_DEADLINE_EXPIRY (R133). -/
  | replyDeadlineExpiry
  /-- IDLE_WAIT_END (R134). -/
  | idleWaitEnd
  /-- IDLE_WAIT_TIMEOUT (R134). -/
  | idleWaitTimeout
  /-- SCAN_STAGGER_EXPIRY (R33). -/
  | scanStaggerExpiry
  /-- SCAN_INTERVAL_EXPIRY (R164), with the position. -/
  | scanIntervalExpiry (p : Pos)
  /-- SCAN_LIMIT_EXPIRY (R165), with the position. -/
  | scanLimitExpiry (p : Pos)
  /-- GRACE_TIMER_EXPIRY (R180). -/
  | graceTimerExpiry
  /-- COPY_COMPLETION (R173). -/
  | copyCompletion
  /-- STORE_MARKER_DONE (R177). -/
  | storeMarkerDone
  /-- ERASE_PASS_DONE (R177): `blank` says that the verify found every word blank. -/
  | erasePassDone (blank : Bool)
  /-- PROGRAM_PASS_DONE (R177): `matched` says that the read-back found no mismatch. -/
  | programPassDone (matched : Bool)
  /-- STORE_COMPLETE_DONE (R177). -/
  | storeCompleteDone
  /-- STRAY_CHARACTER (R129), with the character received. -/
  | strayCharacter (c : LinkChar)
  /-- TAKE_QUEUE_HEAD (R141). -/
  | takeQueueHead
  /-- REPLY_OK (R132): a complete REPLY_OK frame. -/
  | replyOk
  /-- REPLY_NAK (R132): a complete REPLY_NAK frame, with its reason. -/
  | replyNak (reason : NakReason)
  /-- STATUS (R149): a complete STATUS frame, with its payload (R130). -/
  | status (payload : List Byte)
  /-- SCAN_LIST (R147): a complete SCAN_LIST frame, with its payload (R130). -/
  | scanList (payload : List Byte)
  /-- EVENTS (R145): a complete EVENTS frame, with its payload (R130). -/
  | events (payload : List Byte)
  /-- ATN_ASSERTED (R144). -/
  | atnAsserted (p : Pos)
  /-- CALL_PROCEEDING (R50): the dispatch of such an event of the module at `p` (R146). -/
  | callProceeding (p : Pos)
  /-- CALL_ALERTING (R50), dispatched likewise. -/
  | callAlerting (p : Pos)
  /-- CALL_ANSWERED (R55), dispatched likewise. -/
  | callAnswered (p : Pos)
  /-- CALL_ENDED (R76), dispatched likewise, with its cause. -/
  | callEnded (p : Pos) (cause : EndCause)
  /-- SERVICE_LOST (R76), dispatched likewise. -/
  | serviceLost (p : Pos)
  /-- INCOMING (R80), dispatched likewise, with the caller number. -/
  | incoming (p : Pos) (caller : List Byte)
  /-- SCAN_READY (R165), dispatched likewise, with its count. -/
  | scanReady (p : Pos) (count : Byte)
  /-- DATA_RESULT (R100), dispatched likewise, with the verdict. -/
  | dataResult (p : Pos) (verdict : DataVerdict)
  /-- LEVEL_REPORT (R8), dispatched likewise, with the level in dBm and the quality when present. -/
  | levelReport (p : Pos) (level : BitVec 16) (quality : Option Byte)
  /-- REPLY_ERROR (R133), with the error the reply shows. -/
  | replyError (error : ReplyErrorKind)
  /-- REQUEST_FRAME_SENT (R132). -/
  | requestFrameSent
  /-- ATN_INACTIVE (R144). -/
  | atnInactive (p : Pos)
  /-- CALL_REST (R119). -/
  | callRest
  /-- INPUT_SAMPLE (R118), with the sampled levels. -/
  | inputSample (pins : Pins)
  /-- PLAN_WORD_DAMAGED (R181), with the index of the plan field the word belongs to (R171). -/
  | planWordDamaged (index : Nat)
  /-- CALL_STATE_FLAGS_DAMAGED (R200), with the seven flags as they then stand. -/
  | callStateFlagsDamaged (flags : BitVec 7)
  deriving DecidableEq, Repr

end Sys2Proof
end

