-- ==== Sys2Proof/WellFormed.lean ====
section
/-! DEFINITION. Which commands can be given at all: the checks that the operand types leave over. -/

namespace Sys2Proof

/-- How many of the seven call state flags are set (R200). -/
def flagsSet (flags : BitVec 7) : Nat :=
  ((List.range 7).filter (fun i => flags.getLsbD i)).length

/-- A command is well formed when its operands can occur: a host word has an even address (R182), an unused
register is none of the six (R187), a frame's payload fits its length character (R130), a caller number has at
most 20 characters (R130), a plan field has an index of R171, and damaged call state flags set none or more
than one (R200). -/
def Instr.wellFormed : Instr → Bool
  | .hostWrite addr _ => addr.getLsbD 0 == false
  | .unusedRegisterWrite addr _ => decide (6 ≤ addr.toNat)
  | .status payload => decide (payload.length ≤ 250)
  | .scanList payload => decide (payload.length ≤ 250)
  | .events payload => decide (payload.length ≤ 250)
  | .incoming _ caller => decide (caller.length ≤ 20)
  | .planWordDamaged index => decide (1 ≤ index) && decide (index ≤ 44)
  | .callStateFlagsDamaged flags => flagsSet flags != 1
  | .powerOnReset _ _ => true
  | .pinReset _ _ => true
  | .doze => true
  | .wake => true
  | .softReset => true
  | .releaseFault => true
  | .clearTally => true
  | .offerWrite _ => true
  | .doneWrite _ => true
  | .causeWrite _ => true
  | .causeenWrite _ => true
  | .lampsWrite _ => true
  | .placeOrder => true
  | .clearOrder => true
  | .scanOrder => true
  | .loadPlan => true
  | .moduleOrder => true
  | .unknownKind => true
  | .secondsClockAdvance => true
  | .benchExpiry => true
  | .callPress => true
  | .hookOn => true
  | .hookOff => true
  | .doorOpen => true
  | .doorClosed => true
  | .quietOn => true
  | .quietOff => true
  | .patternTimerExpiry _ => true
  | .wakeWaitExpiry => true
  | .gatherTimerExpiry => true
  | .backoffTimerExpiry => true
  | .launchStaggerExpiry => true
  | .attemptTimerExpiry _ => true
  | .hookMaskExpiry => true
  | .callbackTimerExpiry => true
  | .acknowledgementTimerExpiry => true
  | .gapTimerExpiry => true
  | .phaseTimerExpiry => true
  | .pollTimerExpiry _ => true
  | .bootTimerExpiry _ => true
  | .pulseTimerExpiry _ => true
  | .probeRetryExpiry _ => true
  | .replyDeadlineExpiry => true
  | .idleWaitEnd => true
  | .idleWaitTimeout => true
  | .scanStaggerExpiry => true
  | .scanIntervalExpiry _ => true
  | .scanLimitExpiry _ => true
  | .graceTimerExpiry => true
  | .copyCompletion => true
  | .storeMarkerDone => true
  | .erasePassDone _ => true
  | .programPassDone _ => true
  | .storeCompleteDone => true
  | .strayCharacter _ => true
  | .takeQueueHead => true
  | .replyOk => true
  | .replyNak _ => true
  | .atnAsserted _ => true
  | .callProceeding _ => true
  | .callAlerting _ => true
  | .callAnswered _ => true
  | .callEnded _ _ => true
  | .serviceLost _ => true
  | .scanReady _ _ => true
  | .dataResult _ _ => true
  | .levelReport _ _ _ => true
  | .replyError _ => true
  | .requestFrameSent => true
  | .atnInactive _ => true
  | .callRest => true
  | .inputSample _ => true

end Sys2Proof
end

