-- ==== Sys2Proof/Decode.lean ====
section
/-! DEFINITION. The command a word spells. No row of spec/opcode_table.json gives bits, so a table word spells
none; the one encoding of commands that the spec does give, the register writes of R187, is decoded beside it. -/

namespace Sys2Proof

/-- The command that a word spells by the table's bits: the table gives no row bits, so none. -/
def decodeTableWord (_nbits _w : Nat) : Option Instr := none

/-- The command that a host register write is (R187): a CTRL code other than 1 to 5 is ignored, so it is none. -/
def registerWriteCommand (addr : BitVec 11) (value : Word) : Option Instr :=
  match addr.toNat with
  | 0 =>
    match (value.extractLsb' 0 8).toNat with
    | 1 => some .doze
    | 2 => some .wake
    | 3 => some .softReset
    | 4 => some .releaseFault
    | 5 => some .clearTally
    | _ => none
  | 1 => some (.offerWrite value)
  | 2 => some (.doneWrite value)
  | 3 => some (.causeWrite value)
  | 4 => some (.causeenWrite value)
  | 5 => some (.lampsWrite value)
  | _ => some (.unusedRegisterWrite addr value)

end Sys2Proof
end

