-- ==== Sys2Proof/Config.lean ====
section
/-! DEFINITION. What the part fixes once and for all, and the free values of the model. Times are in
milliseconds unless the name says seconds. -/

namespace Sys2Proof.Config

/-- The fixed filter counts of R118. -/
def filterCall : Nat := 20
def filterHook : Nat := 80
def filterDoor : Nat := 200
def filterQuiet : Nat := 4

/-- The capacity of the carrier table (R1). -/
def tableCapacity : Nat := 24
/-- The top of the insertion sequence counter (R6). -/
def topSequence : Nat := 4294967295
/-- The capacity of the link request queue (R136). -/
def queueCapacity : Nat := 12
/-- The capacity of the fault log (R197). -/
def logCapacity : Nat := 4

/-- Wake wait of a fresh hunt (R37). -/
def wakeWait : Nat := 5000
/-- Gather timer (R43). -/
def gatherTime : Nat := 20000
/-- Reply deadline of a try (R132). -/
def replyDeadline : Nat := 250
/-- Longest idle wait before a retry (R134). -/
def idleWaitLimit : Nat := 25
/-- Boot time, wake time and reset pulse of a module (R149). -/
def bootTime : Nat := 8000
def wakeTime : Nat := 3000
def pulseTime : Nat := 100
/-- Probe retry (R149). -/
def probeRetry : Nat := 1000
/-- The re-suspect window in seconds (R150). -/
def resuspectWindow : Nat := 300
/-- The poll intervals of R143. -/
def pollInCall : Nat := 500
def pollAwake : Nat := 5000
def pollDoze : Nat := 30000
/-- Scan limit (R165). -/
def scanLimit : Nat := 20000
/-- Start-up grace (R180). -/
def graceTime : Nat := 10000
/-- The most erase and program passes of a store (R177). -/
def erasePasses : Nat := 4
def programPasses : Nat := 3

/-- How many internal events one command may set off; no cascade comes near it. DESIGN CHOICE, log entry 6. -/
def cascadeFuel : Nat := 1000

/-- FREE VALUE: what the part takes an event record to be whose code is one of R130 but whose content is not the
content R130 gives that code; the spec does not say. DESIGN CHOICE, log entry 14. -/
opaque malformedEvent : Byte → List Byte → Option ModuleEvent

/-- FREE VALUE: the detail that MLC gives with the BUSY of a MODULE order (R158), which the spec does not state; the
argument is the order's take number. DESIGN CHOICE, log entry 37. -/
opaque moduleBusyDetail : BitVec 32 → Word

end Sys2Proof.Config
end

