-- ==== Sys2Proof/Machine/Types.lean ====
section
/-! DEFINITION. The data the twelve blocks hold, block by block: plain structures and enumerations. -/

namespace Sys2Proof.Machine

/-! ### Shared vocabulary -/

/-- A running timer whose time left is read: the milliseconds left, and whether no advance of the seconds clock
has yet been counted since it was set (log entry 2). -/
structure LongTimer where
  left : Nat
  fresh : Bool
  deriving DecidableEq, Repr

/-- The band classes (00_scope.md, Terms). -/
inductive Band where
  | low | mid | high
  deriving DecidableEq, Repr

/-- A set of band classes (R148). -/
structure Bands where
  low : Bool
  mid : Bool
  high : Bool
  deriving DecidableEq, Repr

/-- The key of a carrier: module position, network tag, channel (R1). -/
structure Key where
  pos : Pos
  tag : BitVec 24
  channel : BitVec 16
  deriving DecidableEq, Repr

/-- The kind of a call (R65). -/
inductive CallKind where
  | emergency | test
  deriving DecidableEq, Repr

/-- An order that its owner holds: the slot and the take number (R191). -/
structure Held where
  slot : Fin 8
  take : BitVec 32
  deriving DecidableEq, Repr

/-! ### PLN: the plan -/

/-- The role the plan gives a position (R148). -/
inductive Role where
  | active | spare | absent
  deriving DecidableEq, Repr

/-- A dial form (R171, field 3). -/
inductive DialForm where
  | category
  | digits (chars : List Byte)
  deriving DecidableEq, Repr

/-- The scan scope (R171, field 14). -/
inductive ScanScope where
  | awakeOnly | awakeAndDoze
  deriving DecidableEq, Repr

/-- The location record (R171, fields 37 to 44). -/
structure Location where
  direction : Byte
  boxId : List Byte
  latitude : BitVec 32
  longitude : BitVec 32
  route : BitVec 16
  along : BitVec 32
  text : List Byte
  deriving DecidableEq, Repr

/-- The plan's lists and dial strings (R171, fields 2 to 8). -/
structure PlanLists where
  dialForms : List DialForm
  testDial : Option (List Byte)
  preferred : List (BitVec 24)
  barred : List (BitVec 24)
  deriving DecidableEq, Repr

/-- The plan's numbers for carriers and hunts (R171, fields 9 to 25). -/
structure PlanHunt where
  weightLow : Nat
  weightMid : Nat
  weightHigh : Nat
  perRound : Nat
  concurrency : Nat
  scanScope : ScanScope
  scoreFloor : Nat
  minLevel : Int
  stagger : Nat
  setupTimeout : Nat
  answerTimeout : Nat
  backoffBase : Nat
  messageRetries : Nat
  backoffCap : Nat
  benchTime : Nat
  staleLimit : Nat
  scanInterval : Nat
  deriving DecidableEq, Repr

/-- The plan's numbers for calls and tones (R171, fields 26 to 32). -/
structure PlanCall where
  callbackWindow : Nat
  idleAnswer : Bool
  ackTimeout : Nat
  holdAfter : Nat
  gap : Nat
  reassureOn : Nat
  reassureOff : Nat
  deriving DecidableEq, Repr

/-- A plan: the fields of R171. Levels and safe levels are read as the numbers and flags they name. -/
structure Plan where
  lists : PlanLists
  hunt : PlanHunt
  call : PlanCall
  roles : PerPos Role
  allowed : PerPos Bands
  safeLevels : PerOut Bool
  location : Option Location
  deriving DecidableEq, Repr

/-- Plan source (R172). -/
inductive PlanSource where
  | store | host | default
  deriving DecidableEq, Repr

/-- Store state (R172). -/
inductive StoreState where
  | blank | valid | damaged | storing
  deriving DecidableEq, Repr

/-- The marker of the plan store (R177). -/
inductive Marker where
  | blank | begun | complete
  deriving DecidableEq, Repr

/-- The image area of the plan store (R177): blank, a whole plan image with its check word and whether that check
word matches the image, or contents that are neither (log entry 16). -/
inductive ImageArea where
  | blank
  | image (plan : Plan) (checkMatches : Bool)
  | partly
  deriving DecidableEq, Repr

/-- The nonvolatile plan store (R177). -/
structure PlanStore where
  marker : Marker
  area : ImageArea
  deriving DecidableEq, Repr

/-- The phase of a store under way, with the passes used in the phase, the pass under way included (R177). -/
inductive StorePhase where
  | marker
  | erase (pass : Nat)
  | program (pass : Nat)
  | complete
  deriving DecidableEq, Repr

/-- A LOAD PLAN copy under way (R173): its option, and TRESPASS_SEEN. -/
structure Copy where
  persist : Bool
  trespassSeen : Bool
  deriving DecidableEq, Repr

/-- The staged image: the bytes a copy read, or the clamped image a store writes (R172). -/
inductive Staged where
  | none
  | bytes (raw : List Byte)
  | plan (p : Plan)
  deriving DecidableEq, Repr

/-- Start-up phase (R172). -/
inductive StartPhase where
  | holding | released
  deriving DecidableEq, Repr

/-- PLN's state (R172). `damaged` lists the plan fields whose word has lost its parity (R181, log entry 17);
`detail` is the detail word that the store under way will report (R175). -/
structure Pln where
  plan : Plan
  damaged : List Nat
  source : PlanSource
  storeState : StoreState
  store : PlanStore
  phase : StartPhase
  grace : Option Nat
  copy : Option Copy
  staged : Staged
  held : Option Held
  storePhase : Option StorePhase
  detail : Word
  deriving DecidableEq, Repr

/-! ### CTU -/

/-- The last outcome of an entry (R1). -/
inductive LastOutcome where
  | none | refused | timeout | connected | dropped
  deriving DecidableEq, Repr

/-- An entry of the carrier table (R1). -/
structure Entry where
  key : Key
  band : Band
  level : Int
  quality : Option Nat
  networkBarred : Bool
  planBarred : Bool
  failures : Nat
  bench : Option Nat
  age : Nat
  score : Nat
  last : LastOutcome
  inAttempt : Bool
  serving : Bool
  seq : Nat
  deriving DecidableEq, Repr

/-- CTU's state (R1, R6, R19). -/
structure Ctu where
  table : List Entry
  seq : Nat
  mirrorGen : Word
  deriving DecidableEq, Repr

/-- A cell report as its bytes give it (R3, R130); the band is absent when its code names none. -/
structure CellReport where
  tag : BitVec 24
  channel : BitVec 16
  band : Option Band
  level : Int
  quality : Option Nat
  barred : Bool
  deriving DecidableEq, Repr

/-! ### HNT -/

/-- Hunt states (R34). -/
inductive HuntState where
  | idle | gather | round | backoff | won
  deriving DecidableEq, Repr

/-- Attempt record states (R48); ANSWERED and ENDED are passed through within an event. -/
inductive AttemptState where
  | queued | sent | proceeding | alerting | answered | releasing
  deriving DecidableEq, Repr

/-- Attempt outcomes (R48). -/
inductive Outcome where
  | none | refused | timeout | surplus | linkLost | connected
  deriving DecidableEq, Repr

/-- An attempt record (R48). `request` is the enqueue number of its outstanding link request; `strayOnEnd` marks
that a CALL_ANSWERED was taken while it was QUEUED (R50). -/
structure Attempt where
  number : Nat
  key : Key
  form : Nat
  state : AttemptState
  timer : Option Nat
  outcome : Outcome
  releaseOnReply : Bool
  strayOnEnd : Bool
  request : Option Nat
  deriving DecidableEq, Repr

/-- HNT's state (03_the_hunt.md). `stray` holds the enqueue number of a position's stray RELEASE: present exactly
while the stray release mark is set. -/
structure Hnt where
  state : HuntState
  kind : CallKind
  rounds : Nat
  form : Nat
  set : List Key
  lastKeys : List Key
  records : PerPos (Option Attempt)
  counter : Nat
  stray : PerPos (Option Nat)
  wakeWait : Option Nat
  gather : Option Nat
  backoff : Option LongTimer
  stagger : Option Nat
  deriving DecidableEq, Repr

/-! ### CAL -/

/-- Call states (R65). -/
inductive CallState where
  | idle | hunting | locating | talk | reestablishing | clearing | callbackWait
  deriving DecidableEq, Repr

/-- Message status (R65). -/
inductive MessageStatus where
  | pending | delivered | undelivered | notRequired
  deriving DecidableEq, Repr

/-- Last end cause (R91). -/
inductive LastEnd where
  | none | centreCleared | networkRefused | radioLost | networkOther | moduleLost | callerHungUp | hostCleared
  | noCarrier | converted | windowExpired | stateCheck
  deriving DecidableEq, Repr

/-- The connection a call holds: a hunted carrier, or an answered incoming call (R65). -/
inductive Serving where
  | hunted (key : Key)
  | incoming (pos : Pos)
  deriving DecidableEq, Repr

/-- Hunt link (04_call_context.md). -/
inductive HuntLink where
  | none | active | stopping
  deriving DecidableEq, Repr

/-- An attempt summary (R65, R91). -/
structure Summary where
  number : Nat
  state : AttemptState
  outcome : Outcome
  form : Nat
  deriving DecidableEq, Repr

/-- The flags of the call context (R65). -/
structure CallFlags where
  silent : Bool
  masked : Bool
  abandonPending : Bool
  reestablished : Bool
  pressHeld : Bool
  clearDeferred : Bool
  deriving DecidableEq, Repr

/-- Everything the call file shows (R65, R91). -/
structure Context where
  state : CallState
  kind : CallKind
  sequence : BitVec 16
  start : Option (BitVec 32)
  connect : Option (BitVec 32)
  serving : Option Serving
  message : MessageStatus
  flags : CallFlags
  reestablishes : Nat
  attempts : Nat
  rounds : Nat
  backoff : Nat
  callback : Nat
  presses : Nat
  lastEnd : LastEnd
  summaries : PerPos (Option Summary)
  huntLink : HuntLink
  answer : Option Pos
  releases : PerPos Bool
  deriving DecidableEq, Repr

/-- CAL's state (04_call_context.md). `held7` are the seven call state flags of R200, `destination` where a
clearing leads (R83; true is CALLBACK_WAIT). -/
structure Cal where
  ctx : Context
  held7 : BitVec 7
  counter : BitVec 16
  mask : Option Nat
  callbackTimer : Option LongTimer
  destination : Bool
  place : Option Held
  clear : Option Held
  fileGen : Word
  deriving DecidableEq, Repr

/-! ### LMU -/

/-- Delivery states (R92). -/
inductive Delivery where
  | idle | sending | awaiting
  deriving DecidableEq, Repr

/-- LMU's state (R92). -/
structure Lmu where
  state : Delivery
  pos : Option Pos
  record : Option (List Byte)
  segments : Nat
  segment : Nat
  tries : Nat
  current : Option Nat
  replySeen : Bool
  ackTimer : Option Nat
  deriving DecidableEq, Repr

/-! ### VSW -/

/-- Connection states (R106). -/
inductive Connection where
  | none
  | gap (target : Pos)
  | linked (pos : Pos)
  deriving DecidableEq, Repr

/-- The tones, from the highest priority down (06_voice_switch_and_tones.md). -/
inductive Tone where
  | chime | wait | callbackRing | reassure
  deriving DecidableEq, Repr

/-- The requested set of tones (R106). -/
structure ToneSet where
  chime : Bool
  wait : Bool
  callbackRing : Bool
  reassure : Bool
  deriving DecidableEq, Repr

/-- VSW's state (R106). `phaseOn` is the tone phase, `cadenceOn` and `cadenceOff` the cadence in force. -/
structure Vsw where
  conn : Connection
  gapTimer : Option Nat
  uplinkMute : Bool
  downlinkMute : Bool
  requested : ToneSet
  active : Option Tone
  phaseOn : Bool
  phaseTimer : Option Nat
  cadenceOn : Nat
  cadenceOff : Nat
  deriving DecidableEq, Repr

/-! ### BSU -/

/-- An input: its filtered level (true is active) and filter count (R118). -/
structure Input where
  level : Bool
  count : Nat
  deriving DecidableEq, Repr

/-- Output patterns (R123, R124). -/
inductive Pattern where
  | steadyOn
  | steadyOff
  | blink (a b : Nat)
  deriving DecidableEq, Repr

/-- An output: latch, mode (true is HOST), pattern, whether the blink is in its first half, pattern timer (R122,
R124). -/
structure OutputState where
  latch : Bool
  host : Bool
  pattern : Pattern
  firstHalf : Bool
  timer : Option Nat
  deriving DecidableEq, Repr

/-- BSU's state (07_box_signals.md). -/
structure Bsu where
  call : Input
  hook : Input
  door : Input
  quiet : Input
  outs : PerOut OutputState
  deriving DecidableEq, Repr

/-! ### MLC -/

/-- Boot phases (R148). -/
inductive BootPhase where
  | reset | boot | probe
  deriving DecidableEq, Repr

/-- Module states (R148). -/
inductive ModState where
  | absent | held
  | booting (phase : BootPhase)
  | inService | suspect | failed | outOfService | asleep
  deriving DecidableEq, Repr

/-- A role taken from the plan and not yet applied (R154); `untilIdle` says that it waits for the call state IDLE
because the module holds the call or an attempt. -/
structure PendingRole where
  role : Role
  bands : Bands
  untilIdle : Bool
  deriving DecidableEq, Repr

/-- A module record (R148), with the level of its ATN line (R144) and whether its SLEEP is to be queued again at
the next poll timer expiry (R149). -/
structure Module where
  wired : Bool
  state : ModState
  role : Role
  bands : Bands
  pendingRole : Option PendingRole
  replaced : Bool
  failures : Nat
  restart : Option (BitVec 32)
  lastBatch : Byte
  poll : Option LongTimer
  boot : Option Nat
  pulse : Option Nat
  probeRetry : Option Nat
  atn : Bool
  sleepAgain : Bool
  deriving DecidableEq, Repr

/-- Request kinds (R130). -/
inductive ReqKind where
  | probe | scan | scanFetch | originate | release | answer | reject | data | poll | sleep | wake
  deriving DecidableEq, Repr

/-- Who made a request (R136): a block, and for HNT and CAL which of its requests it is. -/
inductive Requester where
  | attempt | stray | calAnswer | calReject | calRelease | lmu | wch | mlc
  deriving DecidableEq, Repr

/-- A request (R136). `owners` lists the requesters that wait for its result (more than one after a merge, R137),
`number` is the enqueue number. -/
structure Request where
  owners : List Requester
  pos : Pos
  kind : ReqKind
  payload : List Byte
  number : Nat
  deriving DecidableEq, Repr

/-- The phase of the transaction in flight: its frame is being sent, a reply is awaited under the deadline, or an
idle wait runs before the next try (R132, R134). -/
inductive TxPhase where
  | sending
  | waiting (deadline : Nat)
  | idleWait (limit : Nat)
  deriving DecidableEq, Repr

/-- The transaction in flight; `tries` counts the tries made, the one under way included (R132). -/
structure Transaction where
  req : Request
  tries : Nat
  phase : TxPhase
  deriving DecidableEq, Repr

/-- A MODULE order that waits for a boot (R158). -/
structure ModuleWait where
  held : Held
  pos : Pos
  deriving DecidableEq, Repr

/-- MLC's state (08_module_link.md). -/
structure Mlc where
  queue : List Request
  nextNumber : Nat
  tx : Option Transaction
  modules : PerPos Module
  wait : Option ModuleWait
  deriving DecidableEq, Repr

/-- What a requester is told of a request that was queued (R140). -/
inductive LinkResult where
  | ok
  | nak (reason : NakReason)
  | linkFailed
  | notReady
  | displaced
  deriving DecidableEq, Repr

/-- The answer to a request for queueing (R137 to R140): queued or merged under an enqueue number, or refused. -/
inductive QueueAnswer where
  | queued (number : Nat)
  | placeTaken
  | queueFull
  deriving DecidableEq, Repr

/-- The answer to a withdrawal (R142). -/
inductive Withdrawal where
  | withdrawn | tooLate | notFound
  deriving DecidableEq, Repr

/-! ### WCH -/

/-- Scan phases (R160). -/
inductive ScanPhase where
  | none | waking | scanQueued | retrying | awaitReady | fetching
  deriving DecidableEq, Repr

/-- WCH's state for one position (R160). `scanRequest`, `sleeps` and `wakeRequest` are the enqueue numbers of its
outstanding SCAN or SCAN_FETCH, of its SLEEPs (any present is sleep outstanding, log entry 45) and of its WAKE (present
is wake outstanding); `waking` is the wake in progress of R37; `again` says that a SCAN_FETCH or WAKE is to be queued again at the next
advance of the seconds clock (R165, R166). -/
structure Watch where
  interval : Option Nat
  due : Bool
  phase : ScanPhase
  limit : Option Nat
  requested : Bool
  scanRequest : Option Nat
  sleeps : List Nat
  wakeRequest : Option Nat
  waking : Bool
  again : Bool
  deriving DecidableEq, Repr

/-- The SCAN order WCH holds, with its positions still to end (R160). -/
structure ScanOrder where
  held : Held
  left : PerPos Bool
  deriving DecidableEq, Repr

/-- WCH's state (R160). `doze` is the power state, `reported` the call state last reported by CAL (R161). -/
structure Wch where
  doze : Bool
  dozePending : Bool
  stagger : Option Nat
  gather : PerPos Bool
  gatherReport : Bool
  order : Option ScanOrder
  watch : PerPos Watch
  reported : CallState
  deriving DecidableEq, Repr

/-! ### ORD, FLT, SMP -/

/-- Slot states (R188); TAKEN carries the order's kind code and take number (R189, R191). -/
inductive SlotState where
  | free | offered
  | taken (kind : Nat) (take : BitVec 32)
  | done
  deriving DecidableEq, Repr

/-- ORD's state (R188, R191). -/
structure Ord where
  slots : PerSlot SlotState
  takeNumber : BitVec 32
  deriving DecidableEq, Repr

/-- The causes of the interrupt line, in bit order (R192). -/
inductive Cause where
  | internalFault | planReplaced | callStarted | callConnected | callFinished | moduleFailed | messageUndelivered
  | orderDone | callState | tableChanged | faultLogged | door | trespass
  deriving DecidableEq, Repr

/-- Order outcomes (the table after R191). -/
inductive OrderOutcome where
  | connected | cleared | noCarrier | superseded | nothingToClear | scanned | mergedWithHunt | loaded | invalidPlan
  | storeFailed | done | absent | busy | unknownKind | badParameter
  deriving DecidableEq, Repr

/-- Fault kinds (R197). -/
inductive FaultKind where
  | linkError | moduleRestarted | moduleFailed | trespass | badOffer | planCheck | stateCheck | storeFailed
  deriving DecidableEq, Repr

/-- A fault log entry (R197). -/
structure FaultEntry where
  time : BitVec 32
  kind : FaultKind
  pos : Option Pos
  detail : Nat
  address : Option (BitVec 12)
  deriving DecidableEq, Repr

/-- FLT's state (R197). -/
structure Flt where
  log : List FaultEntry
  tally : Nat
  deriving DecidableEq, Repr

/-- SMP's state (R182, R192, R186). `mem` lists the bytes that are not 0 of the regions that have no owner block:
the slots (state bytes apart), the plan area and the host free area (log entry 29). -/
structure Smp where
  mem : List Host.Cell
  planProtected : Bool
  causes : BitVec 13
  enables : BitVec 13
  clockGen : Word
  statusGen : Word
  deriving DecidableEq, Repr

/-! ### Internal events -/

/-- A report from one block to another, taken within the command that caused it (log entry 5). The first word of a
name is the block that takes it. -/
inductive Msg where
  /-- Newly eligible keys, from CTU (R9, R18). -/
  | hntNewKeys (keys : List Key)
  /-- The end of a gather, from WCH (R168). -/
  | hntGatherEnd
  /-- The result of an attempt's request, from MLC (R51). -/
  | hntResult (p : Pos) (number : Nat) (kind : ReqKind) (r : LinkResult)
  /-- The result of a stray RELEASE, from MLC (R59). -/
  | hntStrayResult (p : Pos) (number : Nat)
  /-- A module's change of state, from MLC (R153). -/
  | hntModule (p : Pos) (old new : ModState)
  /-- A module's change of role or bands, from MLC (R153). -/
  | hntRole (p : Pos)
  /-- The working plan was replaced, from PLN (R64). -/
  | hntPlan
  /-- A module event (R50). -/
  | hntEvent (p : Pos) (e : ModuleEvent)
  /-- The hunt has started (R36). -/
  | calHuntStarted
  /-- A new round, or a round ended: the rounds completed (R41, R44). -/
  | calRounds (n : Nat)
  /-- A record created or changed (R48). -/
  | calRecord (p : Pos) (x : Summary)
  /-- A record ended (R54). -/
  | calRecordEnd (p : Pos)
  /-- The pause, or the backoff remaining in seconds (R61). -/
  | calBackoff (n : Nat)
  /-- Attempts clear (R40). -/
  | calAttemptsClear
  /-- NO_CARRIER (R63). -/
  | calNoCarrier
  /-- The winner (R55). -/
  | calWinner (key : Key)
  /-- The result of the ANSWER in progress (R82). -/
  | calAnswerResult (p : Pos) (ok : Bool)
  /-- The result of a RELEASE that CAL queued (R79). -/
  | calReleaseResult (p : Pos)
  /-- A module has left IN_SERVICE (R76, R79). -/
  | calModuleLeft (p : Pos)
  /-- A module event (R76, R80). -/
  | calEvent (p : Pos) (e : ModuleEvent)
  /-- The conclusion of a delivery, from LMU (R72). -/
  | calConcluded (delivered : Bool)
  /-- The accepted changes of the box inputs, from BSU (R119). -/
  | calPress
  | calHookOn
  | calHookOff
  /-- The result of a DATA request, from MLC (R98). -/
  | lmuResult (number : Nat) (r : LinkResult)
  /-- A DATA_RESULT (R100). -/
  | lmuVerdict (p : Pos) (v : DataVerdict)
  /-- The result of a request of WCH's, from MLC (R161 to R166). -/
  | wchResult (p : Pos) (number : Nat) (kind : ReqKind) (r : LinkResult)
  /-- A module's change of state, from MLC (R153). -/
  | wchModule (p : Pos) (old new : ModState)
  /-- A module's change of role or bands, from MLC (R153). -/
  | wchRole (p : Pos)
  /-- CTU has taken the list of a SCAN_FETCH (R9, R165). -/
  | wchList (p : Pos) (number : Nat)
  /-- A SCAN_READY (R165). -/
  | wchReady (p : Pos) (count : Byte)
  /-- A LEVEL_REPORT (R8). -/
  | ctuLevel (p : Pos) (level : Int) (quality : Option Nat)
  /-- A CALL press, from BSU (R180). -/
  | plnPress
  deriving DecidableEq, Repr

end Sys2Proof.Machine
end

