-- ==== Sys2Proof/Machine/ResetValues.lean ====
section
/-! DEFINITION. The value each block's state takes at a reset, block by block, and the built-in plan. -/

namespace Sys2Proof.Machine

/-- The built-in plan (the built-in column of R171). -/
def builtInPlan : Plan where
  lists := { dialForms := [.category], testDial := none, preferred := [], barred := [] }
  hunt :=
    { weightLow := 12, weightMid := 8, weightHigh := 4, perRound := 6, concurrency := 2,
      scanScope := .awakeOnly, scoreFloor := 40, minLevel := -118, stagger := 250, setupTimeout := 25,
      answerTimeout := 90, backoffBase := 4, messageRetries := 3, backoffCap := 60, benchTime := 120,
      staleLimit := 1800, scanInterval := 300 }
  call :=
    { callbackWindow := 900, idleAnswer := false, ackTimeout := 8, holdAfter := 5, gap := 40,
      reassureOn := 200, reassureOff := 2800 }
  roles := PerPos.all .active
  allowed := PerPos.all ⟨true, true, true⟩
  safeLevels := ⟨false, false, false, false⟩
  location := none

/-- ORD after a reset (R196). -/
def resetOrd : Ord := { slots := PerSlot.all .free, takeNumber := 0 }

/-- FLT after a reset (R198). -/
def resetFlt : Flt := { log := [], tally := 0 }

/-- CTU after a reset (R21). -/
def resetCtu : Ctu := { table := [], seq := 0, mirrorGen := 0 }

/-- HNT after a reset (R35). -/
def resetHnt : Hnt where
  state := .idle
  kind := .emergency
  rounds := 0
  form := 0
  set := []
  lastKeys := []
  records := PerPos.all none
  counter := 0
  stray := PerPos.all none
  wakeWait := none
  gather := none
  backoff := none
  stagger := none

/-- The call context after a reset (R66). -/
def resetContext : Context where
  state := .idle
  kind := .emergency
  sequence := 0
  start := none
  connect := none
  serving := none
  message := .notRequired
  flags := ⟨false, false, false, false, false, false⟩
  reestablishes := 0
  attempts := 0
  rounds := 0
  backoff := 0
  callback := 0
  presses := 0
  lastEnd := .none
  summaries := PerPos.all none
  huntLink := .none
  answer := none
  releases := PerPos.all false

/-- CAL after a reset (R66, R200). The destination of a clearing has no value outside CLEARING; DESIGN CHOICE, log
entry 38. -/
def resetCal : Cal where
  ctx := resetContext
  held7 := 1
  counter := 0
  mask := none
  callbackTimer := none
  destination := false
  place := none
  clear := none
  fileGen := 0

/-- LMU after a reset (R92). -/
def resetLmu : Lmu where
  state := .idle
  pos := none
  record := none
  segments := 1
  segment := 1
  tries := 0
  current := none
  replySeen := false
  ackTimer := none

/-- VSW after a reset (R106). The phase and the cadence mean nothing while no tone is active; DESIGN CHOICE, log
entry 38. -/
def resetVsw : Vsw where
  conn := .none
  gapTimer := none
  uplinkMute := false
  downlinkMute := false
  requested := ⟨false, false, false, false⟩
  active := none
  phaseOn := false
  phaseTimer := none
  cadenceOn := 0
  cadenceOff := 0

/-- An output under a steady pattern that has just started (R124). -/
def steadyOutput (on : Bool) : OutputState where
  latch := on
  host := false
  pattern := if on then .steadyOn else .steadyOff
  firstHalf := true
  timer := none

/-- BSU after a reset: the first samples are the filtered levels (R121), without HOOK when its strap is absent
(R120), and the patterns of R128 have started while no module is IN_SERVICE. -/
def resetBsu (straps : Straps) (pins : Pins) : Bsu where
  call := ⟨pins.call, 0⟩
  hook := ⟨straps.hook && pins.hook, 0⟩
  door := ⟨pins.door, 0⟩
  quiet := ⟨pins.quiet, 0⟩
  outs := ⟨steadyOutput false, steadyOutput false, steadyOutput true, steadyOutput false⟩

/-- The positions-wired count of a strap code: 0 is taken as 1 (R148). -/
def wiredCount (straps : Straps) : Nat := if straps.wiredCode = 0 then 1 else straps.wiredCode.toNat

/-- Whether a position is wired: those below the count are (R148). -/
def isWired (straps : Straps) (p : Pos) : Bool := decide (p.val < wiredCount straps)

/-- A module record after a reset: HELD when wired, ABSENT otherwise, with role ACTIVE and all bands (R154, R159). A
position that is not wired has role ABSENT, and all bands too; DESIGN CHOICE, log entry 38. `atn` is the level of its
line. -/
def resetModule (wired atn : Bool) : Module where
  wired := wired
  state := if wired then .held else .absent
  role := if wired then .active else .absent
  bands := ⟨true, true, true⟩
  pendingRole := none
  replaced := false
  failures := 0
  restart := none
  lastBatch := 0
  poll := none
  boot := none
  pulse := none
  probeRetry := none
  atn := atn
  sleepAgain := false

/-- MLC after a reset (R159); the ATN lines keep their levels. -/
def resetMlc (straps : Straps) (atn : PerPos Bool) : Mlc where
  queue := []
  nextNumber := 0
  tx := none
  modules :=
    ⟨resetModule (isWired straps 0) atn.p0, resetModule (isWired straps 1) atn.p1,
      resetModule (isWired straps 2) atn.p2⟩
  wait := none

/-- One position of WCH after a reset (R160). -/
def resetWatch : Watch where
  interval := none
  due := false
  phase := .none
  limit := none
  requested := false
  scanRequest := none
  sleeps := []
  wakeRequest := none
  waking := false
  again := false

/-- WCH after a reset (R160). -/
def resetWch : Wch where
  doze := false
  dozePending := false
  stagger := none
  gather := PerPos.all false
  gatherReport := false
  order := none
  watch := PerPos.all resetWatch
  reported := .idle

/-- The store state a start-up reads from the plan store (the table of R179). -/
def readStoreState (store : PlanStore) : StoreState :=
  match store.marker, store.area with
  | .complete, .image _ true => .valid
  | .complete, _ => .damaged
  | .begun, _ => .damaged
  | .blank, .blank => .blank
  | .blank, _ => .damaged

/-- PLN when start-up enters HOLDING (R180). The detail word means nothing while no store runs; DESIGN CHOICE, log
entry 38. -/
def resetPln (store : PlanStore) : Pln where
  plan := builtInPlan
  damaged := []
  source := .default
  storeState := readStoreState store
  store := store
  phase := .holding
  grace := some Config.graceTime
  copy := none
  staged := .none
  held := none
  storePhase := none
  detail := 0

/-- SMP after a reset, over the memory that the reset keeps (R182, R186, R193, R196). -/
def resetSmp (mem : List Host.Cell) : Smp where
  mem := mem
  planProtected := false
  causes := 0
  enables := 0
  clockGen := 0
  statusGen := 0

/-- The straps of `State.reset`: handset fitted, 115,200 baud, three positions. DESIGN CHOICE, log entry 7. -/
def defaultStraps : Straps := { hook := true, fastLink := false, wiredCode := 3 }

/-- The pins of `State.reset`: every input at rest. DESIGN CHOICE, log entry 7. -/
def defaultPins : Pins := { call := false, hook := false, door := false, quiet := false }

/-- The plan store of `State.reset`: blank. DESIGN CHOICE, log entry 7. -/
def blankStore : PlanStore := { marker := .blank, area := .blank }

end Sys2Proof.Machine
end

