-- ==== Sys2Proof/Machine/State.lean ====
section
/-! DEFINITION. The state of the CT-3: one field for each block, the seconds clock, the straps, the queue of commands
and the internal events under way; the reasons a step can stop; the state after reset. -/

namespace Sys2Proof.Machine

/-- Why a command can stop the model. Every constructor is a command that nobody can give: raised by the meaning
named, safe (the part never sees such a command, log entry 39). -/
inductive Fault where
  /-- HOST_WRITE with an odd byte address: a bus access names a word at an even address (R182). Raised by
  `execHostWrite`. Safe. -/
  | oddAddress
  /-- UNUSED_REGISTER_WRITE that names one of the six registers (R187). Raised by `execUnusedRegisterWrite`. Safe. -/
  | registerInUse
  /-- PLAN_WORD_DAMAGED with an index that R171 does not give. Raised by `execPlanWordDamaged`. Safe. -/
  | noSuchPlanField
  /-- CALL_STATE_FLAGS_DAMAGED with exactly one flag set, which is no damage that R200 finds. Raised by
  `execCallStateFlagsDamaged`. Safe. -/
  | flagsNotDamaged
  deriving DecidableEq, Repr

/-- Why the model can refuse a command. -/
inductive Refusal where
  /-- No meaning has been written for the command; raised by `exec` alone. Safe. No arm of this model raises it. -/
  | notModelled (mnemonic : String)
  deriving DecidableEq, Repr

/-- The whole state. Plain data. -/
structure State where
  /-- The commands that wait, oldest first. -/
  pending : List Instr
  /-- The internal events not yet taken: empty between commands (log entry 6). -/
  inbox : List Msg
  /-- The seconds clock (R186). -/
  clock : BitVec 32
  /-- The straps latched at the last reset (R179). -/
  straps : Straps
  smp : Smp
  ord : Ord
  flt : Flt
  ctu : Ctu
  hnt : Hnt
  cal : Cal
  lmu : Lmu
  vsw : Vsw
  bsu : Bsu
  mlc : Mlc
  wch : Wch
  pln : Pln
  deriving DecidableEq, Repr

namespace State

/-- The state with `pending` replaced. -/
def withPending (s : State) (x : List Instr) : State := { s with pending := x }

/-- The state with `inbox` replaced. -/
def withInbox (s : State) (x : List Msg) : State := { s with inbox := x }

/-- The state with `clock` replaced. -/
def withClock (s : State) (x : BitVec 32) : State := { s with clock := x }

/-- The state with `straps` replaced. -/
def withStraps (s : State) (x : Straps) : State := { s with straps := x }

/-- The state with `smp` replaced. -/
def withSmp (s : State) (x : Smp) : State := { s with smp := x }

/-- The state with `ord` replaced. -/
def withOrd (s : State) (x : Ord) : State := { s with ord := x }

/-- The state with `flt` replaced. -/
def withFlt (s : State) (x : Flt) : State := { s with flt := x }

/-- The state with `ctu` replaced. -/
def withCtu (s : State) (x : Ctu) : State := { s with ctu := x }

/-- The state with `hnt` replaced. -/
def withHnt (s : State) (x : Hnt) : State := { s with hnt := x }

/-- The state with `cal` replaced. -/
def withCal (s : State) (x : Cal) : State := { s with cal := x }

/-- The state with `lmu` replaced. -/
def withLmu (s : State) (x : Lmu) : State := { s with lmu := x }

/-- The state with `vsw` replaced. -/
def withVsw (s : State) (x : Vsw) : State := { s with vsw := x }

/-- The state with `bsu` replaced. -/
def withBsu (s : State) (x : Bsu) : State := { s with bsu := x }

/-- The state with `mlc` replaced. -/
def withMlc (s : State) (x : Mlc) : State := { s with mlc := x }

/-- The state with `wch` replaced. -/
def withWch (s : State) (x : Wch) : State := { s with wch := x }

/-- The state with `pln` replaced. -/
def withPln (s : State) (x : Pln) : State := { s with pln := x }

/-- The machine right after a power-on reset, with the straps, pins and plan store of log entry 7: the store is BLANK,
so start-up is HOLDING with the built-in plan and the modules held (R179, R180). -/
def reset : State where
  pending := []
  inbox := []
  clock := 0
  straps := defaultStraps
  smp := resetSmp []
  ord := resetOrd
  flt := resetFlt
  ctu := resetCtu
  hnt := resetHnt
  cal := resetCal
  lmu := resetLmu
  vsw := resetVsw
  bsu := resetBsu defaultStraps defaultPins
  mlc := resetMlc defaultStraps (PerPos.all false)
  wch := resetWch
  pln := resetPln blankStore

end State

end Sys2Proof.Machine
end

