-- ==== Sys2Proof/Machine/Ops.lean ====
section
/-! DEFINITION. The operations every block shares: internal events, the shared memory, causes, fault reports and order
completions. -/

namespace Sys2Proof.Machine

/-- Send an internal event: it joins the end of the inbox. -/
def post (m : Msg) (s : State) : State := s.withInbox (s.inbox ++ [m])

/-- Send several internal events in order. -/
def postAll (ms : List Msg) (s : State) : State := s.withInbox (s.inbox ++ ms)

/-! ### Bytes -/

/-- The low and the high byte of a word: the low byte stands at the lower address (R182). -/
def lowByte (w : Word) : Byte := w.extractLsb' 0 8
def highByte (w : Word) : Byte := w.extractLsb' 8 8

/-- The word of two bytes, low byte first. -/
def wordOf (lo hi : Byte) : Word := hi ++ lo

/-- The little-endian bytes of 16-, 24- and 32-bit fields (00_scope.md, Numbers). -/
def bytes16 (w : BitVec 16) : List Byte := [w.extractLsb' 0 8, w.extractLsb' 8 8]
def bytes24 (w : BitVec 24) : List Byte := [w.extractLsb' 0 8, w.extractLsb' 8 8, w.extractLsb' 16 8]
def bytes32 (w : BitVec 32) : List Byte :=
  [w.extractLsb' 0 8, w.extractLsb' 8 8, w.extractLsb' 16 8, w.extractLsb' 24 8]

/-- A number as a byte. -/
def byteOf (n : Nat) : Byte := BitVec.ofNat 8 n

/-! ### Memory -/

/-- The byte a memory list holds at an address; an unlisted address reads 0, as the memory does at power-on (R182). -/
def memRead : List Host.Cell → Nat → Byte
  | [], _ => 0
  | (x, b) :: rest, a => if x = a then b else memRead rest a

/-- The memory list with one byte written; a byte 0 is not listed, so that the form stays canonical. -/
def memWrite : List Host.Cell → Nat → Byte → List Host.Cell
  | [], a, v => if v = 0 then [] else [(a, v)]
  | (x, b) :: rest, a, v =>
    if a < x then (if v = 0 then (x, b) :: rest else (a, v) :: (x, b) :: rest)
    else if a = x then (if v = 0 then rest else (a, v) :: rest)
    else (x, b) :: memWrite rest a v

/-- Write a run of bytes from an address up. -/
def memWriteAll (m : List Host.Cell) (a : Nat) : List Byte → List Host.Cell
  | [] => m
  | b :: rest => memWriteAll (memWrite m a b) (a + 1) rest

/-- Read `n` bytes from an address up. -/
def memReadAll (m : List Host.Cell) (a n : Nat) : List Byte :=
  (List.range n).map (fun i => memRead m (a + i))

/-- The canonical form from an address up: addresses strictly rising and inside the 4 KiB, no byte 0 listed. -/
def memoryWfFrom : Nat → List Host.Cell → Bool
  | _, [] => true
  | lo, (x, b) :: rest => decide (lo ≤ x) && decide (x < 4096) && b != 0 && memoryWfFrom (x + 1) rest

/-- The canonical form of the memory list. -/
def Memory.wf (m : List Host.Cell) : Bool := memoryWfFrom 0 m

/-- The base address of slot `k` (R190), of the plan area and of the host free area (R183). -/
def slotBase (k : Fin 8) : Nat := 0x180 + 64 * k.val
def planBase : Nat := 0x680
def freeBase : Nat := 0xA80

/-- The region code of a byte address (R183). -/
def regionOf (a : Nat) : Nat :=
  if a < 0x040 then 1 else if a < 0x100 then 2 else if a < 0x180 then 3 else if a < 0x380 then 4
  else if a < 0x680 then 5 else if a < 0xA80 then 6 else 7

/-- The slot that an address of region 4 falls in. -/
def slotOf (a : Nat) : Fin 8 := ⟨((a - 0x180) / 64) % 8, Nat.mod_lt _ (by decide)⟩

/-- Replace the memory list. -/
def State.withMem (s : State) (m : List Host.Cell) : State := s.withSmp { s.smp with mem := m }

/-! ### SMP: causes (R192, R193) -/

/-- The bit number of a cause (R192). -/
def causeBit : Cause → Nat
  | .internalFault => 0
  | .planReplaced => 1
  | .callStarted => 2
  | .callConnected => 3
  | .callFinished => 4
  | .moduleFailed => 5
  | .messageUndelivered => 6
  | .orderDone => 7
  | .callState => 8
  | .tableChanged => 9
  | .faultLogged => 10
  | .door => 11
  | .trespass => 12

/-- A set of causes with one of them set. -/
def causeSet (x : BitVec 13) (c : Cause) : BitVec 13 := x ||| (1#13 <<< causeBit c)

/-- Raise a cause: its pending flag is set whether or not it is enabled, and stays pending, once (R192). -/
def raise (c : Cause) (s : State) : State := s.withSmp { s.smp with causes := causeSet s.smp.causes c }

/-- SMP rewrites the status block under its generation word: odd, then even again (R185, R186). -/
def publishStatus (s : State) : State := s.withSmp { s.smp with statusGen := s.smp.statusGen + 2 }

/-! ### FLT: fault reports (R197) -/

/-- FLT takes a fault report: the tally rises and saturates at 255; with room in the log the entry is appended with
the present seconds clock and FAULT_LOGGED is raised (R197). -/
def reportFault (kind : FaultKind) (pos : Option Pos) (detail : Nat) (address : Option (BitVec 12))
    (s : State) : State :=
  let tally := min (s.flt.tally + 1) 255
  if s.flt.log.length < Config.logCapacity then
    let entry : FaultEntry :=
      { time := s.clock, kind := kind, pos := pos, detail := detail, address := address }
    raise .faultLogged (s.withFlt { log := s.flt.log ++ [entry], tally := tally })
  else s.withFlt { s.flt with tally := tally }

/-! ### ORD: slots and completions (R188 to R191) -/

/-- The outcome codes of the table after R191. -/
def outcomeCode : OrderOutcome → Nat
  | .connected => 1
  | .cleared => 2
  | .noCarrier => 3
  | .superseded => 4
  | .nothingToClear => 5
  | .scanned => 6
  | .mergedWithHunt => 7
  | .loaded => 8
  | .invalidPlan => 9
  | .storeFailed => 10
  | .done => 11
  | .absent => 12
  | .busy => 13
  | .unknownKind => 14
  | .badParameter => 15

/-- Set a slot's state. -/
def setSlot (k : Fin 8) (x : SlotState) (s : State) : State :=
  s.withOrd { s.ord with slots := s.ord.slots.set k x }

/-- The result fields of a slot: outcome and a zero byte at 44, detail at 46, completion time at 48 (R190). -/
def resultBytes (outcome : Nat) (detail : Word) (time : BitVec 32) : List Byte :=
  [byteOf outcome, 0] ++ bytes16 detail ++ bytes32 time

/-- Write the result fields of slot `k`. -/
def writeResult (k : Fin 8) (outcome : Nat) (detail : Word) (time : BitVec 32) (s : State) : State :=
  s.withMem (memWriteAll s.smp.mem (slotBase k + 44) (resultBytes outcome detail time))

/-- Whether slot `h.slot` is TAKEN by the very order `h` (R191). -/
def isTakenBy (h : Held) : SlotState → Bool
  | .taken _ take => take == h.take
  | _ => false

/-- An owner reports completion: ORD writes outcome, detail and completion time, makes the slot DONE and raises
ORDER_DONE; a completion for a slot that the order no longer holds is discarded (R191). -/
def complete (h : Held) (outcome : OrderOutcome) (detail : Word) (s : State) : State :=
  if isTakenBy h (s.ord.slots.get h.slot) then
    raise .orderDone (setSlot h.slot .done (writeResult h.slot (outcomeCode outcome) detail s.clock s))
  else s

/-- Complete an order that may have been lost. -/
def completeIfHeld (h : Option Held) (outcome : OrderOutcome) (detail : Word) (s : State) : State :=
  match h with
  | some x => complete x outcome detail s
  | none => s

/-! ### Timers whose time left is read (log entry 2) -/

/-- A long timer just set to `ms`. -/
def longTimer (ms : Nat) : LongTimer := { left := ms, fresh := true }

/-- A long timer at an advance of the seconds clock. -/
def tickTimer (t : LongTimer) : LongTimer :=
  if t.fresh then { t with fresh := false } else { t with left := t.left - 1000 }

/-- The time left in whole seconds, rounded up (R61, R85). -/
def secondsLeft (t : LongTimer) : Nat := (t.left + 999) / 1000

/-- A timer set to `ms`; a duration of 0 sets no timer (R32, R73, R108). -/
def timerOf (ms : Nat) : Option Nat := if ms = 0 then none else some ms

end Sys2Proof.Machine
end

