-- ==== Sys2Proof/Machine/Score.lean ====
section
/-! DEFINITION. Ranking arithmetic (02_ranking_arithmetic.md): the score and its terms, eligibility, the rank order,
the backoff pause. -/

namespace Sys2Proof.Machine

/-- The band weight of the plan for a band class (R24). -/
def bandWeight (plan : Plan) : Band → Nat
  | .low => plan.hunt.weightLow
  | .mid => plan.hunt.weightMid
  | .high => plan.hunt.weightHigh

/-- The plan field that holds a band's weight (R171, indexes 9 to 11). -/
def weightField : Band → Nat
  | .low => 9
  | .mid => 10
  | .high => 11

/-- The bias of a list position (R24). -/
def biasAt : Nat → Nat
  | 0 => 12
  | 1 => 10
  | 2 => 8
  | 3 => 6
  | 4 => 4
  | 5 => 3
  | 6 => 2
  | 7 => 1
  | _ => 0

/-- The bias of a network tag from its position in the preferred list; 0 when it is not there (R24). -/
def biasFrom (tag : BitVec 24) : Nat → List (BitVec 24) → Nat
  | _, [] => 0
  | i, t :: rest => if t = tag then biasAt i else biasFrom tag (i + 1) rest

/-- The terms of R23, R24 and R25. -/
def levelTerm (level : Int) : Int := (level + 130) * 4
def qualityTerm : Option Nat → Int
  | some q => q * 8
  | none => 56
def bandTerm (plan : Plan) (b : Band) : Int := bandWeight plan b * 4
def preferenceTerm (plan : Plan) (tag : BitVec 24) : Int := biasFrom tag 0 plan.lists.preferred * 5
def failureTerm (failures : Nat) : Int := failures * 40
def ageTerm (age : Nat) : Int := (min (age / 16) 100 : Nat)

/-- The raw sum of R22. -/
def rawScore (plan : Plan) (e : Entry) : Int :=
  levelTerm e.level + qualityTerm e.quality + bandTerm plan e.band + preferenceTerm plan e.key.tag
    - failureTerm e.failures - ageTerm e.age

/-- The score of R22: the raw sum, floored at 0. -/
def scoreOf (plan : Plan) (e : Entry) : Nat := (rawScore plan e).toNat

/-- The entry with its score computed afresh (R29). -/
def rescored (plan : Plan) (e : Entry) : Entry := { e with score := scoreOf plan e }

/-- Whether a network tag is in the plan's barred list (R2). -/
def barredBy (plan : Plan) (tag : BitVec 24) : Bool := plan.lists.barred.contains tag

/-- Whether a set of band classes holds a band (R26). -/
def Bands.allows (x : Bands) : Band → Bool
  | .low => x.low
  | .mid => x.mid
  | .high => x.high

/-- Whether a module is ACTIVE and IN_SERVICE (R26, R45). -/
def usable (m : Module) : Bool := m.state == .inService && m.role == .active

/-- The eligibility test of R26, on an entry, the module records and a plan. -/
def eligible (modules : PerPos Module) (plan : Plan) (e : Entry) : Bool :=
  let m := modules.get e.key.pos
  !e.planBarred && !e.networkBarred && e.bench.isNone && usable m && m.bands.allows e.band
    && decide (plan.hunt.scoreFloor ≤ e.score) && decide (plan.hunt.minLevel ≤ e.level)

/-- Whether entry `a` stands strictly above entry `b` in the rank order of R28: higher score, then lower position,
then lower channel, then lower insertion sequence. -/
def ranksAbove (a b : Entry) : Bool :=
  if a.score = b.score then
    if a.key.pos = b.key.pos then
      if a.key.channel = b.key.channel then decide (a.seq < b.seq)
      else decide (a.key.channel.toNat < b.key.channel.toNat)
    else decide (a.key.pos.val < b.key.pos.val)
  else decide (b.score < a.score)

/-- The backoff pause of R30 in seconds, after `r` completed rounds. -/
def backoffPause (plan : Plan) (r : Nat) : Nat :=
  min (plan.hunt.backoffBase * 2 ^ (min r 9 - 1)) plan.hunt.backoffCap

end Sys2Proof.Machine
end

