-- ==== Sys2Proof/Machine/Carrier.lean ====
section
/-! DEFINITION. The carrier table unit's own operations (01_carrier_table.md): lookup, placing, intake of one report,
the age tick, outcome effects, removals, and publication. They read the plan from an argument; the operations that
read the working plan, and may find it damaged, stand in PlanRead.lean and Carriers.lean. -/

namespace Sys2Proof.Machine

/-- Lookup by key (R1). -/
def findEntry (table : List Entry) (k : Key) : Option Entry := table.find? (fun e => e.key == k)

/-- Put an entry at the place the rank order gives it, below every entry it ties with (R6, R28). -/
def placeEntry (e : Entry) : List Entry → List Entry
  | [] => [e]
  | x :: rest => if ranksAbove e x then e :: x :: rest else x :: placeEntry e rest

/-- Take an entry out by key. -/
def dropKey (k : Key) (table : List Entry) : List Entry := table.filter (fun e => !(e.key == k))

/-- Re-place an entry: out of its place and back at the place the rank order gives it (R5, R29). -/
def replaceEntry (e : Entry) (table : List Entry) : List Entry := placeEntry e (dropKey e.key table)

/-- Change an entry in its place, without re-placing it. -/
def updateInPlace (k : Key) (f : Entry → Entry) (table : List Entry) : List Entry :=
  table.map (fun e => if e.key == k then f e else e)

/-- Rescore and re-place the entry of a key after changing it (R29). -/
def rescoreKey (plan : Plan) (k : Key) (f : Entry → Entry) (table : List Entry) : List Entry :=
  match findEntry table k with
  | some e => replaceEntry (rescored plan (f e)) table
  | none => table

/-- Protection: in attempt or serving (R12). -/
def protectedEntry (e : Entry) : Bool := e.inAttempt || e.serving

/-- The clamp of R4. -/
def clampLevel (l : Int) : Int := max (-130) (min (-40) l)

/-- The quality as taken at intake (R4). -/
def clampQuality (q : Option Nat) : Option Nat := q.map (fun x => min x 15)

/-- The key of a report from a position (R3). -/
def reportKey (p : Pos) (r : CellReport) : Key := { pos := p, tag := r.tag, channel := r.channel }

/-- A new entry as R6 gives it, with its score. -/
def newEntry (plan : Plan) (k : Key) (b : Band) (r : CellReport) (seq : Nat) : Entry :=
  rescored plan
    { key := k, band := b, level := clampLevel r.level, quality := clampQuality r.quality,
      networkBarred := r.barred, planBarred := barredBy plan r.tag, failures := 0, bench := none, age := 0,
      score := 0, last := .none, inAttempt := false, serving := false, seq := seq }

/-- The insertion sequence counter after an increment (R6). -/
def nextSeq (n : Nat) : Nat := min (n + 1) Config.topSequence

/-- The lowest-ranked entry that is not protected (R7). -/
def lowestUnprotected (table : List Entry) : Option Entry :=
  table.reverse.find? (fun e => !protectedEntry e)

/-- Create an entry: the counter rises and the new entry takes its new value (R6). -/
def createEntry (plan : Plan) (k : Key) (b : Band) (r : CellReport) (c : Ctu) : Ctu :=
  let seq := nextSeq c.seq
  { c with table := placeEntry (newEntry plan k b r seq) c.table, seq := seq }

/-- Intake of one cell report (R4 to R7): the table after it. -/
def takeReport (plan : Plan) (p : Pos) (r : CellReport) (c : Ctu) : Ctu :=
  match r.band with
  | none => c
  | some b =>
    if r.tag = 0 then c
    else
      let k := reportKey p r
      match findEntry c.table k with
      | some _ =>
        let fresh := fun x : Entry =>
          { x with level := clampLevel r.level, quality := clampQuality r.quality, networkBarred := r.barred,
                   age := 0 }
        { c with table := rescoreKey plan k fresh c.table }
      | none =>
        if c.table.length < Config.tableCapacity then createEntry plan k b r c
        else
          match lowestUnprotected c.table with
          | none => c
          | some low =>
            if low.score < (newEntry plan k b r 0).score then
              createEntry plan k b r { c with table := dropKey low.key c.table }
            else c

/-- Intake of a LEVEL_REPORT at the serving entry of a position (R8). -/
def takeLevel (plan : Plan) (p : Pos) (level : Int) (quality : Option Nat) (c : Ctu) : Ctu :=
  match c.table.find? (fun e => e.serving && e.key.pos == p) with
  | none => c
  | some e =>
    let fresh := fun x : Entry =>
      { x with level := clampLevel level, age := 0,
               quality := match quality with
                 | some q => some (min q 15)
                 | none => x.quality }
    { c with table := rescoreKey plan e.key fresh c.table }

/-- A failure recorded on an entry: the count rises to 7 at most, and a failure that finds or brings it there gives
the plan's bench time (R15, R16). -/
def recordFailure (plan : Plan) (last : LastOutcome) (e : Entry) : Entry :=
  { e with failures := min (e.failures + 1) 7, last := last,
           bench := if 6 ≤ e.failures then some plan.hunt.benchTime else e.bench }

/-- The effect of an outcome report on an entry (the table of R15); DROPPED stands in `dropServing`. The in-attempt
flag is cleared with it (R10). -/
def outcomeEffect (plan : Plan) (o : Outcome) (e : Entry) : Entry :=
  match o with
  | .refused => recordFailure plan .refused { e with inAttempt := false }
  | .timeout => recordFailure plan .timeout { e with inAttempt := false }
  | .connected =>
    { e with inAttempt := false, failures := 0, last := .connected, bench := none, serving := true }
  | .surplus => { e with inAttempt := false }
  | .linkLost => { e with inAttempt := false }
  | .none => { e with inAttempt := false }

/-- Whether an outcome is followed by a rescoring (R15, R29). -/
def rescoresOn : Outcome → Bool
  | .refused => true
  | .timeout => true
  | .connected => true
  | .surplus => false
  | .linkLost => false
  | .none => false

/-- DROPPED: a failure on the serving entry, whose serving flag is cleared (R15). -/
def dropServing (plan : Plan) (e : Entry) : Entry :=
  recordFailure plan .dropped { e with serving := false }

/-! ### The age tick (R13) -/

/-- Step 1 of R13. -/
def ageEntry (e : Entry) : Entry := { e with age := min (e.age + 1) 65535 }

/-- Step 3 of R13 on one entry: the bench time falls by 1; at 0 the bench ends with failure count 4. -/
def benchTick (e : Entry) : Entry :=
  match e.bench with
  | none => e
  | some n => if n ≤ 1 then { e with bench := none, failures := 4 } else { e with bench := some (n - 1) }

/-- Whether the bench of an entry ends at this tick. -/
def benchEnds (e : Entry) : Bool :=
  match e.bench with
  | none => false
  | some n => decide (n ≤ 1)

/-- Rescore and re-place the entries of a list of keys, one after another (R13, R29). No rule gives the order among
several entries of one event; the callers give the keys in rank order, the model's choice (log entry 41), which decides
only between entries that tie in all four fields. -/
def rescoreKeys (plan : Plan) (f : Entry → Entry) : List Key → List Entry → List Entry
  | [], table => table
  | k :: rest, table => rescoreKeys plan f rest (rescoreKey plan k f table)

/-- The keys of the entries that a test picks, in rank order. -/
def keysWhere (q : Entry → Bool) (table : List Entry) : List Key := (table.filter q).map (·.key)

/-- Step 2 of R13: entries whose age has just reached a multiple of 16 are rescored and re-placed. `old` is the table
before step 1: an entry already at 65,535 is not rescored. -/
def ageStep2 (plan : Plan) (old aged : List Entry) : List Entry :=
  rescoreKeys plan id (keysWhere (fun e => e.age < 65535 && (e.age + 1) % 16 == 0) old) aged

/-- Step 3 of R13: bench times fall, and entries whose bench ends are rescored and re-placed. -/
def ageStep3 (plan : Plan) (table : List Entry) : List Entry :=
  let ending := keysWhere benchEnds table
  rescoreKeys plan id ending (table.map benchTick)

/-- Step 4 of R13: stale unprotected entries are removed (R14). -/
def ageStep4 (plan : Plan) (table : List Entry) : List Entry :=
  table.filter (fun e => protectedEntry e || decide (e.age < plan.hunt.staleLimit))

/-- The four steps of R13. -/
def ageTick (plan : Plan) (table : List Entry) : List Entry :=
  ageStep4 plan (ageStep3 plan (ageStep2 plan table (table.map ageEntry)))

/-- What of a table an age tick must change for its publication to raise TABLE_CHANGED (R19): the entries and their
order, their failure counts, and which are benched. -/
def tickVisible (table : List Entry) : List (Key × Nat × Bool) :=
  table.map (fun e => (e.key, e.failures, e.bench.isSome))

/-! ### Removals (R12, R17) -/

/-- The table after a purge. -/
def purged (table : List Entry) : List Entry := table.filter protectedEntry

/-- The table after a module's departure to FAILED or OUT_OF_SERVICE. -/
def withoutLost (p : Pos) (table : List Entry) : List Entry :=
  table.filter (fun e => protectedEntry e || !(e.key.pos == p))

/-- Whether a module state is FAILED or OUT_OF_SERVICE (R17). -/
def lostState : ModState → Bool
  | .failed => true
  | .outOfService => true
  | _ => false

/-- Remove an entry whose protection has just ended if its module is FAILED or OUT_OF_SERVICE (R12, R17). -/
def removeIfLost (modules : PerPos Module) (k : Key) (table : List Entry) : List Entry :=
  if lostState (modules.get k.pos).state then
    table.filter (fun e => protectedEntry e || !(e.key == k))
  else table

/-! ### Rescoring under a new plan (R18) -/

/-- An entry under a new plan: the plan-barred flag and the score afresh. -/
def replanned (plan : Plan) (e : Entry) : Entry :=
  rescored plan { e with planBarred := barredBy plan e.key.tag }

/-- Place a list of entries, one after another, into a table (R29); their order is log entry 41's. -/
def placeAll : List Entry → List Entry → List Entry
  | [], table => table
  | e :: rest, table => placeAll rest (placeEntry e table)

/-- The table under a new plan: every entry afresh, the whole in rank order (R18). The entries are re-placed in their old
rank order, the model's choice (log entry 41), which decides only between entries that tie in all four fields. -/
def replanTable (plan : Plan) (table : List Entry) : List Entry := placeAll (table.map (replanned plan)) []

/-! ### Publication and newly eligible keys (R9, R19) -/

/-- CTU ends an event: when the table changed, the mirror is rewritten under its generation word, and TABLE_CHANGED
is raised where `cause` says so (R19). The table at the end is compared with the table before: an event whose reports
change an entry and change it back publishes nothing, the model's choice (log entry 64). -/
def publishTable (before : List Entry) (cause : Bool) (s : State) : State :=
  if s.ctu.table = before then s
  else
    let s := s.withCtu { s.ctu with mirrorGen := s.ctu.mirrorGen + 2 }
    if cause then raise .tableChanged s else s

/-- Whether the entry of a key is in a table and eligible. -/
def eligibleKey (modules : PerPos Module) (plan : Plan) (table : List Entry) (k : Key) : Bool :=
  match findEntry table k with
  | some e => eligible modules plan e
  | none => false

/-- CTU tells HNT the keys that became eligible, when there are any (R9, R18). -/
def reportNewKeys (keys : List Key) (s : State) : State :=
  if keys = [] then s else post (.hntNewKeys keys) s

/-- CTU takes a module's departure to FAILED or OUT_OF_SERVICE (R17). -/
def ctuModuleLost (p : Pos) (s : State) : State :=
  publishTable s.ctu.table true (s.withCtu { s.ctu with table := withoutLost p s.ctu.table })

/-- CTU takes a purge (R17). -/
def ctuPurge (s : State) : State :=
  publishTable s.ctu.table true (s.withCtu { s.ctu with table := purged s.ctu.table })

/-- CTU takes a launch mark: MARKED when an entry holds the key (R10). -/
def ctuMark (k : Key) (s : State) : Bool × State :=
  match findEntry s.ctu.table k with
  | none => (false, s)
  | some _ =>
    let table := updateInPlace k (fun e => { e with inAttempt := true }) s.ctu.table
    (true, publishTable s.ctu.table true (s.withCtu { s.ctu with table := table }))

/-- CTU takes a connection release: the serving flag is cleared and nothing else (R11). -/
def ctuConnectionRelease (k : Key) (s : State) : State :=
  let table := updateInPlace k (fun e => { e with serving := false }) s.ctu.table
  publishTable s.ctu.table true (s.withCtu { s.ctu with table := removeIfLost s.mlc.modules k table })

/-- CTU takes the replacement of the working plan: the rescoring event of R18, with the old plan `old` for the
eligibility before it. -/
def ctuReplan (old new : Plan) (s : State) : State :=
  let before := s.ctu.table
  let table := replanTable new before
  let keys := keysWhere
    (fun e => eligible s.mlc.modules new e && !eligibleKey s.mlc.modules old before e.key) table
  reportNewKeys keys (publishTable before true (s.withCtu { s.ctu with table := table }))

end Sys2Proof.Machine
end

