-- ==== Sys2Proof/Machine/Box.lean ====
section
/-! DEFINITION. The box signal unit (07_box_signals.md): input filters, patterns, latches and modes. -/

namespace Sys2Proof.Machine

/-! ### Outputs (R122 to R125) -/

/-- Whether some ACTIVE module is IN_SERVICE (R123). -/
def anyUsable (modules : PerPos Module) : Bool :=
  usable modules.p0 || usable modules.p1 || usable modules.p2

/-- The pattern R123 selects for an output. -/
def selectPattern (call : CallState) (usableModule : Bool) (source : PlanSource) : Output → Pattern
  | .lampCall =>
    match call with
    | .hunting => .blink 500 500
    | .reestablishing => .blink 500 500
    | .locating => .steadyOn
    | .talk => .steadyOn
    | .idle => .steadyOff
    | .clearing => .steadyOff
    | .callbackWait => .steadyOff
  | .lampLink =>
    match call with
    | .talk => .steadyOn
    | .locating => .blink 125 125
    | .idle => .steadyOff
    | .hunting => .steadyOff
    | .reestablishing => .steadyOff
    | .clearing => .steadyOff
    | .callbackWait => .steadyOff
  | .lampFault =>
    if usableModule then (if source = .default then .blink 1000 1000 else .steadyOff) else .steadyOn
  | .beacon => if call = .idle then .steadyOff else .blink 100 900

/-- The pattern selected for an output by the state in force. -/
def selectedPattern (s : State) (o : Output) : Pattern :=
  selectPattern s.cal.ctx.state (anyUsable s.mlc.modules) s.pln.source o

/-- A pattern start (R124). -/
def startPattern (p : Pattern) (x : OutputState) : OutputState :=
  match p with
  | .steadyOn => { x with latch := true, pattern := p, firstHalf := true, timer := none }
  | .steadyOff => { x with latch := false, pattern := p, firstHalf := true, timer := none }
  | .blink a _ => { x with latch := true, pattern := p, firstHalf := true, timer := some a }

/-- A pattern selection at an output: in AUTO a different pattern starts, the same one goes on; in HOST nothing
(R123, R125). -/
def reselect (p : Pattern) (x : OutputState) : OutputState :=
  if x.host then x else if x.pattern = p then x else startPattern p x

/-- Select an output's pattern again. -/
def refreshOutput (o : Output) (s : State) : State :=
  s.withBsu { s.bsu with outs := s.bsu.outs.set o (reselect (selectedPattern s o) (s.bsu.outs.get o)) }

/-- A report of a call state concerns LAMP_CALL, LAMP_LINK and BEACON (R123). -/
def bsuCallState (s : State) : State := refreshOutput .beacon (refreshOutput .lampLink (refreshOutput .lampCall s))

/-- A report of a module or of the plan source concerns LAMP_FAULT (R123). -/
def bsuFaultLamp (s : State) : State := refreshOutput .lampFault s

/-- An edge of a blink: the latch is inverted and the other half starts (R124). -/
def patternEdge (x : OutputState) : OutputState :=
  match x.pattern with
  | .blink a b =>
    { x with latch := !x.latch, firstHalf := !x.firstHalf, timer := some (if x.firstHalf then b else a) }
  | .steadyOn => x
  | .steadyOff => x

/-- An output given back to AUTO: its pattern is selected and started (R125, R128). -/
def giveBack (p : Pattern) (x : OutputState) : OutputState := startPattern p { x with host := false }

/-- A LAMPS write at one selected output (R125). -/
def lampWrite (p : Pattern) (host latch : Bool) (x : OutputState) : OutputState :=
  if host then { x with host := true, latch := latch, timer := none }
  else if x.host then giveBack p x
  else { x with latch := latch }

/-- The bit of an output in the four-bit groups of LAMPS (R187). -/
def outputBit : Output → Nat
  | .lampCall => 0
  | .lampLink => 1
  | .lampFault => 2
  | .beacon => 3

/-- One output of a LAMPS write (R125, R187). -/
def writeLamp (v : Word) (o : Output) (s : State) : State :=
  if v.getLsbD (outputBit o) then
    s.withBsu
      { s.bsu with
        outs := s.bsu.outs.set o
          (lampWrite (selectedPattern s o) (v.getLsbD (4 + outputBit o)) (v.getLsbD (8 + outputBit o))
            (s.bsu.outs.get o)) }
  else s

/-- A LAMPS write (R125). -/
def writeLamps (v : Word) (s : State) : State :=
  writeLamp v .beacon (writeLamp v .lampFault (writeLamp v .lampLink (writeLamp v .lampCall s)))

/-- One output at a soft reset: HOST goes back to AUTO, AUTO runs on (R128). -/
def softResetOutput (o : Output) (s : State) : State :=
  let x := s.bsu.outs.get o
  if x.host then s.withBsu { s.bsu with outs := s.bsu.outs.set o (giveBack (selectedPattern s o) x) } else s

/-- BSU at a soft reset (R128). -/
def bsuSoftReset (s : State) : State :=
  softResetOutput .beacon (softResetOutput .lampFault (softResetOutput .lampLink (softResetOutput .lampCall s)))

/-! ### Inputs (R118 to R120) -/

/-- One sample of an input: the filter of R118. The flag says that the sampled level was accepted. -/
def filterSample (threshold : Nat) (sample : Bool) (x : Input) : Bool × Input :=
  if sample = x.level then (false, { x with count := 0 })
  else if threshold ≤ x.count + 1 then (true, { level := sample, count := 0 })
  else (false, { x with count := x.count + 1 })

/-- An accepted change (R118): the new filtered level, with filter count 0. -/
def acceptLevel (level : Bool) : Input := { level := level, count := 0 }

/-- The events of an accepted CALL change (R119): a press goes to CAL and to PLN, a release gives none. CAL takes it first,
with all that it sets off, and PLN after that (R180): the model's choice (log entry 55). -/
def callEvents (active : Bool) : List Msg := if active then [.calPress, .plnPress] else []

/-- The event of an accepted HOOK change (R119). -/
def hookEvents (active : Bool) : List Msg := if active then [.calHookOn] else [.calHookOff]

end Sys2Proof.Machine
end

