-- ==== Sys2Proof/Machine/Link.lean ====
section
/-! DEFINITION. The module link controller (08_module_link.md): the request queue, withdrawal, module states, roles and
substitution. -/

namespace Sys2Proof.Machine

/-! ### Requests (R136) -/

/-- The class of a request kind (R136). -/
def reqClass : ReqKind → Nat
  | .originate => 1
  | .release => 1
  | .answer => 1
  | .reject => 1
  | .data => 1
  | .poll => 2
  | .scan => 3
  | .scanFetch => 3
  | .probe => 3
  | .sleep => 3
  | .wake => 3

/-- The frame kind codes of requests (R130). -/
def reqCode : ReqKind → Nat
  | .probe => 1
  | .scan => 2
  | .scanFetch => 3
  | .originate => 4
  | .release => 5
  | .answer => 6
  | .reject => 7
  | .data => 8
  | .poll => 9
  | .sleep => 10
  | .wake => 11

/-- Whether a kind takes a position's call place (R137). -/
def callOperation : ReqKind → Bool
  | .originate => true
  | .release => true
  | .answer => true
  | .reject => true
  | _ => false

/-- The queue with a record removed. -/
def dropNumber (n : Nat) (queue : List Request) : List Request := queue.filter (fun r => !(r.number == n))

/-- The request in a position's call place (R137). -/
def callPlace (queue : List Request) (p : Pos) : Option Request :=
  queue.find? (fun r => r.pos == p && callOperation r.kind)

/-- The request in a position's message place (R137). -/
def messagePlace (queue : List Request) (p : Pos) : Option Request :=
  queue.find? (fun r => r.pos == p && r.kind == .data)

/-- Replace the queue. -/
def State.withQueue (s : State) (q : List Request) : State := s.withMlc { s.mlc with queue := q }

/-- Replace one module record. -/
def State.withModule (s : State) (p : Pos) (m : Module) : State :=
  s.withMlc { s.mlc with modules := s.mlc.modules.set p m }

/-- A module record. -/
def State.module (s : State) (p : Pos) : Module := s.mlc.modules.get p

/-- MLC takes the result of a request of its own that is no reply: a displaced or refused PROBE sets the probe-retry
timer (R138, R149), a SLEEP that did not have REPLY_OK is queued again at the next poll timer expiry (R149), a POLL or
WAKE is left. -/
def mlcOwnResult (p : Pos) (kind : ReqKind) (r : LinkResult) (s : State) : State :=
  let m := s.module p
  match kind with
  | .probe =>
    if r = .displaced ∧ m.state = .booting .probe then
      s.withModule p { m with probeRetry := some Config.probeRetry }
    else s
  | .sleep => if r = .ok then s else s.withModule p { m with sleepAgain := true }
  | _ => s

/-- Hand one requester its result (R140). -/
def deliverTo (req : Request) (r : LinkResult) (o : Requester) (s : State) : State :=
  match o with
  | .attempt => post (.hntResult req.pos req.number req.kind r) s
  | .stray => post (.hntStrayResult req.pos req.number) s
  | .calAnswer => post (.calAnswerResult req.pos (r == .ok)) s
  | .calReject => s
  | .calRelease => post (.calReleaseResult req.pos) s
  | .lmu => post (.lmuResult req.number r) s
  | .wch => post (.wchResult req.pos req.number req.kind r) s
  | .mlc => mlcOwnResult req.pos req.kind r s

/-- Hand a list of requesters their result, one after another: those of a merged RELEASE in the order in which they joined
it, the model's choice (log entry 58). -/
def deliverAll (req : Request) (r : LinkResult) : List Requester → State → State
  | [], s => s
  | o :: rest, s => deliverAll req r rest (deliverTo req r o s)

/-- Hand every requester of a request its result (R137, R140). -/
def deliver (req : Request) (r : LinkResult) (s : State) : State := deliverAll req r req.owners s

/-- The newest record that a test picks: the one with the highest enqueue number (R138). -/
def newestWhere (q : Request → Bool) : List Request → Option Request
  | [] => none
  | r :: rest =>
    match newestWhere q rest with
    | none => if q r then some r else none
    | some best => if q r && decide (best.number < r.number) then some r else some best

/-- Displace a record: it leaves the queue and its requesters are told DISPLACED (R137, R138). -/
def displace (r : Request) (s : State) : State := deliver r .displaced (s.withQueue (dropNumber r.number s.mlc.queue))

/-- Add a record to the queue with the next enqueue number (R136). -/
def append (o : Requester) (p : Pos) (kind : ReqKind) (payload : List Byte) (s : State) : QueueAnswer × State :=
  let n := s.mlc.nextNumber + 1
  let req : Request := { owners := [o], pos := p, kind := kind, payload := payload, number := n }
  (.queued n, s.withMlc { s.mlc with queue := s.mlc.queue ++ [req], nextNumber := n })

/-- Queue a request whose place, if it has one, is free: a full queue is decided by R138. -/
def queueWithRoom (o : Requester) (p : Pos) (kind : ReqKind) (payload : List Byte) (s : State) : QueueAnswer × State :=
  if s.mlc.queue.length < Config.queueCapacity then append o p kind payload s
  else if reqClass kind = 3 then (.queueFull, s)
  else
    match newestWhere (fun r => reqClass r.kind == 3) s.mlc.queue with
    | some r => append o p kind payload (displace r s)
    | none =>
      if reqClass kind = 2 then (.queueFull, s)
      else
        match newestWhere (fun r => r.kind == .poll) s.mlc.queue with
        | some r => append o p kind payload (displace r s)
        | none => (.queueFull, s)

/-- Join a queued RELEASE (R137). -/
def joinRelease (o : Requester) (n : Nat) (queue : List Request) : List Request :=
  queue.map (fun r => if r.number = n then { r with owners := r.owners ++ [o] } else r)

/-- MLC takes a request (R137 to R140): the answer the requester gets at once, and the state after it. -/
def enqueue (o : Requester) (p : Pos) (kind : ReqKind) (payload : List Byte) (s : State) : QueueAnswer × State :=
  if callOperation kind then
    match callPlace s.mlc.queue p with
    | none => queueWithRoom o p kind payload s
    | some r =>
      if kind = .release ∧ r.kind = .release then
        (.queued r.number, s.withQueue (joinRelease o r.number s.mlc.queue))
      else if kind = .release ∧ r.kind = .reject then queueWithRoom o p kind payload (displace r s)
      else (.placeTaken, s)
  else if kind = .data then
    match messagePlace s.mlc.queue p with
    | none => queueWithRoom o p kind payload s
    | some _ => (.placeTaken, s)
  else queueWithRoom o p kind payload s

/-- MLC queues a POLL for a module, merged with one already in the queue (R139). It carries the last batch taken as
the queueing finds it (R130, R136). -/
def queuePoll (p : Pos) (s : State) : State :=
  if s.mlc.queue.any (fun r => r.pos == p && r.kind == .poll) then s
  else (enqueue .mlc p .poll [(s.module p).lastBatch] s).2

/-- MLC queues a PROBE; a refusal sets the probe-retry timer (R149). -/
def queueProbe (p : Pos) (s : State) : State :=
  match enqueue .mlc p .probe [] s with
  | (.queued _, s) => s
  | (_, s) => s.withModule p { s.module p with probeRetry := some Config.probeRetry }

/-- MLC queues its own SLEEP for a SPARE; a refusal leaves it to the next poll timer expiry (R149). -/
def queueSpareSleep (p : Pos) (s : State) : State :=
  match enqueue .mlc p .sleep [] s with
  | (.queued _, s) => s.withModule p { s.module p with sleepAgain := false }
  | (_, s) => s.withModule p { s.module p with sleepAgain := true }

/-- A requester withdraws its request (R142): it leaves a merged record to the others, and the last one removes the
record. -/
def withdraw (o : Requester) (n : Nat) (s : State) : Withdrawal × State :=
  match s.mlc.queue.find? (fun r => r.number == n) with
  | some r =>
    let left := r.owners.erase o
    if left = [] then (.withdrawn, s.withQueue (dropNumber n s.mlc.queue))
    else
      (.withdrawn,
        s.withQueue (s.mlc.queue.map (fun x => if x.number = n then { x with owners := left } else x)))
  | none =>
    match s.mlc.tx with
    | some t => if t.req.number = n then (.tooLate, s) else (.notFound, s)
    | none => (.notFound, s)

/-- Withdraw a request if there is one, whatever the answer. -/
def withdrawIf (o : Requester) (n : Option Nat) (s : State) : State :=
  match n with
  | some k => (withdraw o k s).2
  | none => s

/-! ### Module states (R148 to R153) -/

/-- The state codes of R148. -/
def stateCode : ModState → Nat
  | .absent => 0
  | .held => 1
  | .booting _ => 2
  | .inService => 3
  | .suspect => 4
  | .failed => 5
  | .outOfService => 6
  | .asleep => 7

/-- Whether a state is BOOTING. -/
def isBooting : ModState → Bool
  | .booting _ => true
  | _ => false

/-- The poll interval of R143. -/
def pollInterval (call : CallState) (doze : Bool) : Nat :=
  if call ≠ .idle then Config.pollInCall else if doze then Config.pollDoze else Config.pollAwake

/-- The poll interval by the state in force. -/
def currentPollInterval (s : State) : Nat := pollInterval s.cal.ctx.state s.wch.doze

/-- A module record with every timer stopped. -/
def stopTimers (m : Module) : Module := { m with poll := none, boot := none, pulse := none, probeRetry := none }

/-- The pending role applied at a change of state, unless it waits for IDLE (R154). -/
def applyPendingRole (m : Module) : Module :=
  match m.pendingRole with
  | some x => if x.untilIdle then m else { m with role := x.role, bands := x.bands, pendingRole := none }
  | none => m

/-- The record of a module that enters a state: the timers that the state does not run are stopped, and BOOTING clears
the last batch taken (R143, R145, R148). -/
def enterRecord (new : ModState) (m : Module) : Module :=
  let m := { stopTimers (applyPendingRole m) with state := new }
  match new with
  | .booting _ => { m with lastBatch := 0, sleepAgain := false }
  | .inService => m
  | _ => { m with sleepAgain := false }

/-- The MODULE order that waits for a boot completes when its module leaves BOOTING (R158). -/
def settleWait (p : Pos) (old new : ModState) (s : State) : State :=
  match s.mlc.wait with
  | some w =>
    if w.pos = p ∧ isBooting old ∧ !isBooting new then
      complete w.held .done (BitVec.ofNat 16 (stateCode new)) (s.withMlc { s.mlc with wait := none })
    else s
  | none => s

/-- The reports of a change of state to HNT, CAL and WCH (R153). Every change of state is reported to WCH, which examines
its scans at it (R164), also one that is neither an entry to IN_SERVICE nor a departure from it: the model's choice (log
entry 60). -/
def stateReports (p : Pos) (old new : ModState) : List Msg :=
  [.hntModule p old new] ++ (if old = .inService ∧ new ≠ .inService then [.calModuleLeft p] else [])
    ++ [.wchModule p old new]

/-- The reports of a change of role or bands to HNT and WCH (R153). -/
def roleReports (p : Pos) : List Msg := [.hntRole p, .wchRole p]

/-- MLC changes a module's state and reports it (R153): SMP rewrites the module map, BSU looks at LAMP_FAULT, CTU
drops the entries of a lost module, a waiting MODULE order completes, and HNT, CAL and WCH are told. A pending role that
is applied with the state shares its one rewrite of the status block: the model's choice (log entry 53). -/
def changeState (p : Pos) (new : ModState) (s : State) : State :=
  let old := s.module p
  let m := enterRecord new old
  let s := bsuFaultLamp (publishStatus (s.withModule p m))
  let s := if lostState new then ctuModuleLost p s else s
  let s := settleWait p old.state new s
  let s := postAll (stateReports p old.state new) s
  if m.role = old.role ∧ m.bands = old.bands then s else postAll (roleReports p) s

/-- MLC changes a module's role and bands and reports it (R153). -/
def changeRole (p : Pos) (role : Role) (bands : Bands) (s : State) : State :=
  let m := s.module p
  if m.role = role ∧ m.bands = bands then s
  else postAll (roleReports p) (bsuFaultLamp (publishStatus (s.withModule p { m with role := role, bands := bands })))

/-- BOOTING in phase BOOT with a time to wait, and MRST released (R149). -/
def enterBoot (p : Pos) (time : Nat) (s : State) : State :=
  let s := changeState p (.booting .boot) s
  s.withModule p { s.module p with boot := some time }

/-- BOOTING in phase RESET under the reset pulse (R149). Where the module was BOOTING already, this counts as a change of
state: it is reported, the status block is rewritten and a pending role is applied, the model's choice (log entry
53). -/
def enterReset (p : Pos) (s : State) : State :=
  let s := changeState p (.booting .reset) s
  s.withModule p { s.module p with pulse := some Config.pulseTime }

/-- The boot timer's expiry: phase PROBE, and a PROBE is queued (R149). -/
def enterProbe (p : Pos) (s : State) : State :=
  queueProbe p (s.withModule p { s.module p with state := .booting .probe, boot := none })

/-- IN_SERVICE: a POLL is queued at once and the poll timer set (R143); a SPARE is sent its SLEEP (R149). -/
def enterService (p : Pos) (s : State) : State :=
  let s := changeState p .inService s
  let s := queuePoll p s
  let s := s.withModule p { s.module p with poll := some (longTimer (currentPollInterval s)) }
  if (s.module p).role = .spare then queueSpareSleep p s else s

/-- ASLEEP, after the REPLY_OK of a SLEEP (R152). -/
def enterAsleep (p : Pos) (s : State) : State := changeState p .asleep s

/-- SUSPECT (R150): count 0, restart time, MRST pulsed, MODULE_RESTARTED logged. -/
def enterSuspect (p : Pos) (s : State) : State :=
  let s := changeState p .suspect s
  let s := s.withModule p
    { s.module p with failures := 0, restart := some s.clock, pulse := some Config.pulseTime }
  reportFault .moduleRestarted (some p) 0 none s

/-! ### Roles and substitution (R154, R156) -/

/-- The union of two sets of band classes (R156). -/
def Bands.union (a b : Bands) : Bands := ⟨a.low || b.low, a.mid || b.mid, a.high || b.high⟩

/-- Whether a position can stand in for a lost one (R156): it is by its role, not by a pending one (R148). -/
def canSubstitute (m : Module) : Bool := m.role == .spare && !lostState m.state && m.state != .absent

/-- The lowest-numbered substitute for a lost position (R156). -/
def findSubstitute (modules : PerPos Module) : Option Pos := positions.find? (fun q => canSubstitute (modules.get q))

/-- Whether a request is a SLEEP of MLC's own for a position (R149). -/
def isSpareSleep (q : Pos) (r : Request) : Bool := r.pos == q && r.kind == .sleep && r.owners.contains .mlc

/-- Every SLEEP of MLC's own for a position that is still in the queue is withdrawn (R156). One of WCH's, left from when
the position was ACTIVE, stays: the model's choice (log entry 52). -/
def withdrawSpareSleep (q : Pos) (s : State) : State :=
  (s.mlc.queue.filter (isSpareSleep q)).foldl (fun s r => (withdraw .mlc r.number s).2) s

/-- A substitute is brought to service (R156, step 3). -/
def rouse (q : Pos) (s : State) : State :=
  match (s.module q).state with
  | .asleep => (enqueue .mlc q .wake [] s).2
  | .inService => withdrawSpareSleep q (s.withModule q { s.module q with sleepAgain := false })
  | _ => s

/-- Substitution for a lost ACTIVE position (R156). The substitute keeps its role until the next taking of a plan (R157),
so a pending role of its own is dropped (log entry 19). -/
def substitute (p : Pos) (s : State) : State :=
  match findSubstitute s.mlc.modules with
  | none => s
  | some q =>
    let bands := (s.module q).bands.union (s.module p).bands
    let s := s.withModule q { s.module q with pendingRole := none }
    let s := changeRole q .active bands s
    let s := s.withModule p { s.module p with replaced := true }
    rouse q s

/-- FAILED (R151): MRST held, MODULE_FAILED raised and logged with its detail, and substitution if ACTIVE. -/
def enterFailed (p : Pos) (detail : Nat) (s : State) : State :=
  let s := changeState p .failed s
  let s := reportFault .moduleFailed (some p) detail none (raise .moduleFailed s)
  if (s.module p).role = .active then substitute p s else s

/-- Whether a module holds the serving call or an attempt record (R154, R158). -/
def servingPos (x : Option Serving) : Option Pos :=
  match x with
  | some (.hunted k) => some k.pos
  | some (.incoming p) => some p
  | none => none

def holdsCall (s : State) (p : Pos) : Bool :=
  servingPos s.cal.ctx.serving == some p || (s.hnt.records.get p).isSome

/-- Apply a role taken from the plan (the table of R154). Where the state changes with it, the two are two changes, each
with its report and its rewrite of the status block: the model's choice (log entry 53). -/
def applyRole (p : Pos) (role : Role) (bands : Bands) (s : State) : State :=
  let m := s.module p
  if holdsCall s p then
    s.withModule p { m with pendingRole := some { role := role, bands := bands, untilIdle := true } }
  else
    match role with
    | .absent =>
      let s := changeRole p role bands (s.withModule p { m with pendingRole := none })
      if m.state = .absent then s else changeState p .absent s
    | _ =>
      if role = .spare ∧ m.state = .inService then
        queueSpareSleep p (changeRole p role bands (s.withModule p { m with pendingRole := none }))
      else if m.state = .absent then
        enterBoot p Config.bootTime (changeRole p role bands (s.withModule p { m with pendingRole := none }))
      else if m.state = .asleep then changeRole p role bands (s.withModule p { m with pendingRole := none })
      else s.withModule p { m with pendingRole := some { role := role, bands := bands, untilIdle := false } }

/-- MLC takes one wired position's role and bands from a plan; what earlier plans left is forgotten (R154). -/
def takeRole (plan : Plan) (p : Pos) (s : State) : State :=
  let m := s.module p
  if m.wired then
    applyRole p (plan.roles.get p) (plan.allowed.get p) (s.withModule p { m with replaced := false, pendingRole := none })
  else s

/-- Substitution for a position that is ACTIVE and lost, at the end of a taking (R154). -/
def substituteIfLost (p : Pos) (s : State) : State :=
  let m := s.module p
  if m.wired ∧ lostState m.state ∧ m.role = .active then substitute p s else s

/-- MLC takes the roles of a plan, and then substitutes for the lost ACTIVE positions (R154). Both go by ascending position,
which decides whose loss a single SPARE replaces: the model's choice (log entry 56). -/
def takeRoles (plan : Plan) (s : State) : State :=
  let s := takeRole plan 2 (takeRole plan 1 (takeRole plan 0 s))
  substituteIfLost 2 (substituteIfLost 1 (substituteIfLost 0 s))

/-- A position released from HELD boots; one whose role is ABSENT stays ABSENT (R159). One that a MODULE order has taken
from HELD to another state before the release is left in it, the model's choice (log entry 68). -/
def releaseHeld (p : Pos) (s : State) : State :=
  if (s.module p).state = .held then enterBoot p Config.bootTime s else s

/-- MLC releases the modules from HELD (R159, R180), by ascending position (log entry 56). -/
def releaseModules (s : State) : State := releaseHeld 2 (releaseHeld 1 (releaseHeld 0 s))

/-- A role that waited for the call state IDLE is applied (R154). -/
def applyAtIdle (p : Pos) (s : State) : State :=
  let m := s.module p
  match m.pendingRole with
  | some x =>
    if x.untilIdle then applyRole p x.role x.bands (s.withModule p { m with pendingRole := none }) else s
  | none => s

/-- A running poll timer under a new interval: left as it is when no more time is left than the interval, set to it
otherwise (R143). -/
def capPoll (interval : Nat) (m : Module) : Module :=
  match m.poll with
  | some t => if t.left ≤ interval then m else { m with poll := some (longTimer interval) }
  | none => m

/-- MLC takes a report of call state or power state: the poll timers follow the new interval (R143). -/
def mlcInterval (s : State) : State :=
  let i := currentPollInterval s
  let v := s.mlc.modules
  s.withMlc { s.mlc with modules := ⟨capPoll i v.p0, capPoll i v.p1, capPoll i v.p2⟩ }

/-- MLC takes a report of call state (R143, R154). Roles that waited for IDLE are applied by ascending position (log entry
56). -/
def mlcCallState (s : State) : State :=
  let s := mlcInterval s
  if s.cal.ctx.state = .idle then applyAtIdle 2 (applyAtIdle 1 (applyAtIdle 0 s)) else s

/-! ### The link (R132 to R135, R141) -/

/-- Whether a module's state can take a request kind (the table of R141). -/
def canTake (kind : ReqKind) (state : ModState) : Bool :=
  match kind with
  | .probe => state == .booting .probe
  | .wake => state == .asleep
  | _ => state == .inService

/-- Whether request `a` goes before request `b`: class first, then enqueue number (R136). -/
def goesBefore (a b : Request) : Bool :=
  if reqClass a.kind = reqClass b.kind then decide (a.number < b.number)
  else decide (reqClass a.kind < reqClass b.kind)

/-- The head of the queue: the oldest request of the highest class present (R141). -/
def queueHead : List Request → Option Request
  | [] => none
  | r :: rest =>
    match queueHead rest with
    | none => some r
    | some best => if goesBefore best r then some best else some r

/-- Take heads until one can be sent; the others are answered NOT_READY in the same event (R141). -/
def takeHeads : Nat → State → State
  | 0, s => s
  | fuel + 1, s =>
    match queueHead s.mlc.queue with
    | none => s
    | some r =>
      let s := s.withQueue (dropNumber r.number s.mlc.queue)
      if canTake r.kind (s.module r.pos).state then
        s.withMlc { s.mlc with tx := some { req := r, tries := 1, phase := .sending } }
      else takeHeads fuel (deliver r .notReady s)

/-- A transaction ends in success: the link is free and the module's consecutive failure count is 0 (R134). -/
def endSuccess (t : Transaction) (s : State) : State :=
  let s := s.withMlc { s.mlc with tx := none }
  s.withModule t.req.pos { s.module t.req.pos with failures := 0 }

/-- What a third LINK_FAILED in a row does to a module (R150). -/
def thirdFailure (p : Pos) (s : State) : State :=
  let m := s.module p
  match m.restart with
  | some t =>
    if (s.clock - t).toNat < Config.resuspectWindow then
      enterFailed p 2 (s.withModule p { m with failures := 0 })
    else enterSuspect p s
  | none => enterSuspect p s

/-- A transaction ends in LINK_FAILED (R134), with the error kind of its third try. A PROBE makes the module FAILED at
once (R149), unless it has left phase PROBE meanwhile: then it keeps its state, the model's choice (log entry 51).
Another request that is the third in a row acts as R150 gives. -/
def linkFailed (t : Transaction) (error : Nat) (s : State) : State :=
  let p := t.req.pos
  let s := s.withMlc { s.mlc with tx := none }
  let n := min ((s.module p).failures + 1) 3
  let s := s.withModule p { s.module p with failures := n }
  let s := reportFault .linkError (some p) error none s
  let s := deliver t.req .linkFailed s
  if t.req.kind = .probe then
    if (s.module p).state = .booting .probe then enterFailed p 1 s else s
  else if n = 3 ∧ ((s.module p).state = .inService ∨ (s.module p).state = .asleep) then thirdFailure p s
  else s

/-- A try fails with an error kind: an idle wait before the next try, or LINK_FAILED after the third (R133, R134). -/
def failTry (t : Transaction) (error : Nat) (s : State) : State :=
  if 3 ≤ t.tries then linkFailed t error s
  else s.withMlc { s.mlc with tx := some { t with phase := .idleWait Config.idleWaitLimit } }

/-- A MODULE order cuts the transaction in flight to its module: the requester is answered NOT_READY (R135). -/
def cutTransaction (p : Pos) (s : State) : State :=
  match s.mlc.tx with
  | some t => if t.req.pos = p then deliver t.req .notReady (s.withMlc { s.mlc with tx := none }) else s
  | none => s

end Sys2Proof.Machine
end

