-- ==== Sys2Proof/Machine/PlanRead.lean ====
section
/-! DEFINITION. Installing a working plan (R176), the parity recovery (R181), and the read of a plan field that may set
it off: every block reads the plan through `touch`. -/

namespace Sys2Proof.Machine

/-- The roles check of R174 and R179: at least one wired position has role ACTIVE. -/
def rolesTest (straps : Straps) (plan : Plan) : Bool :=
  positions.any (fun p => isWired straps p && plan.roles.get p == .active)

/-- PLN installs a plan in one event (R176): fresh parity, the source, and every neighbour told. HNT takes the
replacement as a report (R64). -/
def install (plan : Plan) (source : PlanSource) (s : State) : State :=
  let old := s.pln
  let s := s.withPln { s.pln with plan := plan, damaged := [], source := source }
  let s := ctuReplan old.plan plan s
  let s := takeRoles plan s
  let s := bsuFaultLamp s
  let s := if old.source = source then s else publishStatus s
  post .hntPlan s

/-- PLN changes the store state and publishes it (R172). -/
def setStoreState (x : StoreState) (s : State) : State :=
  if s.pln.storeState = x then s else publishStatus (s.withPln { s.pln with storeState := x })

/-- Steps 2 and 3 of R181: the plan that a recovery installs. -/
def reestablish (s : State) : State :=
  if s.pln.storeState = .valid then
    match s.pln.store.area with
    | .image plan true =>
      if rolesTest s.straps plan then install plan .store s else install builtInPlan .default s
    | .image _ false => install builtInPlan .default (setStoreState .damaged s)
    | .blank => install builtInPlan .default (setStoreState .damaged s)
    | .partly => install builtInPlan .default (setStoreState .damaged s)
  else install builtInPlan .default s

/-- The parity recovery of R181, set off by a read of plan field `index`. -/
def recoverPlan (index : Nat) (s : State) : State :=
  reestablish
    (raise .planReplaced (raise .internalFault (reportFault .planCheck none index none s)))

/-- A read of plan field `index` by any block: a mismatch makes PLN re-establish the plan in the same event, and the
read is given the value from the plan just installed (R181). -/
def touch (index : Nat) (s : State) : State :=
  if s.pln.damaged.contains index then recoverPlan index s else s

/-- Reads of several plan fields, in order. -/
def touchAll : List Nat → State → State
  | [], s => s
  | i :: rest, s => touchAll rest (touch i s)

/-- The plan fields that a score reads (R24): the preferred count and tags, and the weight of the entry's band. -/
def scoreFields (b : Band) : List Nat := [5, 7, weightField b]

/-- The plan fields that the plan-barred flag reads (R2). -/
def barredFields : List Nat := [6, 8]

/-- The plan fields that the eligibility test reads (R26). -/
def eligibleFields : List Nat := [15, 16]

/-- The plan fields of the location record: its presence, and the record when it is present (R171). -/
def locationFields (plan : Plan) : List Nat :=
  match plan.location with
  | some _ => [36, 37, 38, 39, 40, 41, 42, 43, 44]
  | none => [36]

end Sys2Proof.Machine
end

