-- ==== Sys2Proof/Machine/Carriers.lean ====
section
/-! DEFINITION. The events of the carrier table unit that read the working plan (01_carrier_table.md): intake, the age
tick, outcome reports. -/

namespace Sys2Proof.Machine

/-- The band whose weight the intake of a report reads: that of the entry when there is one (R5), the reported one for a
new entry (R6). -/
def intakeBand (p : Pos) (r : CellReport) (table : List Entry) : Option Band :=
  match findEntry table (reportKey p r) with
  | some e => some e.band
  | none => r.band

/-- The plan fields that the intake of one report reads. -/
def intakeFields (p : Pos) (r : CellReport) (table : List Entry) : List Nat :=
  match r.band with
  | none => []
  | some _ =>
    if r.tag = 0 then []
    else
      match findEntry table (reportKey p r) with
      | some e => scoreFields e.band
      | none =>
        match r.band with
        | some b => barredFields ++ scoreFields b
        | none => []

/-- Intake of one report under the working plan. -/
def intakeOne (p : Pos) (r : CellReport) (s : State) : State :=
  let s := touchAll (intakeFields p r s.ctu.table) s
  s.withCtu (takeReport s.pln.plan p r s.ctu)

/-- Intake of the reports of one event, in order (R3). -/
def intakeEach (p : Pos) : List CellReport → State → State
  | [], s => s
  | r :: rest, s => intakeEach p rest (intakeOne p r s)

/-- The keys of a list of reports, each once. -/
def reportKeys (p : Pos) : List CellReport → List Key
  | [] => []
  | r :: rest =>
    let ks := reportKeys p rest
    if ks.contains (reportKey p r) then ks else reportKey p r :: ks

/-- CTU takes the reports of one SCAN_LIST or STATUS as one intake event (R9): intake, one publication, and the keys
that became eligible told to HNT. The publication looks at the table from before a recovery that a read of the intake
may have brought (R181), and so comes again after the recovery's own: the model's choice (log entry 46). Both the
publication and the newly eligible keys compare the event's end with its beginning: a table that changed and changed
back is not published (log entry 64), and a key whose eligible entry was replaced and created again within the list is
not newly eligible (log entry 65); both are the model's choice. -/
def ctuIntake (p : Pos) (reports : List CellReport) (s : State) : State :=
  let before := s.ctu.table
  let planBefore := s.pln.plan
  let s := publishTable before true (intakeEach p reports s)
  let s := if s.ctu.table = before then s else touchAll eligibleFields s
  let keys := (reportKeys p reports).filter (fun k =>
    eligibleKey s.mlc.modules s.pln.plan s.ctu.table k && !eligibleKey s.mlc.modules planBefore before k)
  reportNewKeys keys s

/-- CTU takes a LEVEL_REPORT (R8, R9), with one publication as of an intake (log entry 46). -/
def ctuLevelReport (p : Pos) (level : Int) (quality : Option Nat) (s : State) : State :=
  match s.ctu.table.find? (fun e => e.serving && e.key.pos == p) with
  | none => s
  | some e =>
    let before := s.ctu.table
    let planBefore := s.pln.plan
    let s := touchAll (scoreFields e.band) s
    let s := publishTable before true (s.withCtu (takeLevel s.pln.plan p level quality s.ctu))
    let s := touchAll eligibleFields s
    if eligibleKey s.mlc.modules s.pln.plan s.ctu.table e.key
        && !eligibleKey s.mlc.modules planBefore before e.key then
      reportNewKeys [e.key] s
    else s

/-- The plan fields that an age tick reads: the stale limit, and the scores of what it rescores. -/
def tickFields (table : List Entry) : List Nat :=
  (table.filter (fun e => (e.age < 65535 && (e.age + 1) % 16 == 0) || benchEnds e)).flatMap
      (fun e => scoreFields e.band)
    ++ (if table = [] then [] else [24])

/-- CTU takes the age tick (R13), with the publication of R19. -/
def ctuAgeTick (s : State) : State :=
  let s := touchAll (tickFields s.ctu.table) s
  let before := s.ctu.table
  let table := ageTick s.pln.plan before
  publishTable before (tickVisible before != tickVisible table) (s.withCtu { s.ctu with table := table })

/-- The plan fields that an outcome reads: the bench time when it benches, and the score's. -/
def outcomeFields (o : Outcome) (e : Entry) : List Nat :=
  if rescoresOn o then
    (if (o == .refused || o == .timeout) && decide (6 ≤ e.failures) then [23] else []) ++ scoreFields e.band
  else []

/-- The table after an outcome report on a key (R15). -/
def outcomeTable (plan : Plan) (o : Outcome) (k : Key) (table : List Entry) : List Entry :=
  if rescoresOn o then rescoreKey plan k (outcomeEffect plan o) table
  else updateInPlace k (outcomeEffect plan o) table

/-- CTU takes the end of an attempt with its outcome (R10, R15). -/
def ctuOutcome (o : Outcome) (k : Key) (s : State) : State :=
  match findEntry s.ctu.table k with
  | none => s
  | some e =>
    let s := touchAll (outcomeFields o e) s
    let table := removeIfLost s.mlc.modules k (outcomeTable s.pln.plan o k s.ctu.table)
    publishTable s.ctu.table true (s.withCtu { s.ctu with table := table })

/-- CTU takes DROPPED from CAL (R15). -/
def ctuDropped (k : Key) (s : State) : State :=
  match findEntry s.ctu.table k with
  | none => s
  | some e =>
    let s := touchAll ((if 6 ≤ e.failures then [23] else []) ++ scoreFields e.band) s
    let table := removeIfLost s.mlc.modules k
      (rescoreKey s.pln.plan k (dropServing s.pln.plan) s.ctu.table)
    publishTable s.ctu.table true (s.withCtu { s.ctu with table := table })

end Sys2Proof.Machine
end

