-- ==== Sys2Proof/Machine/Voice.lean ====
section
/-! DEFINITION. The voice switch (06_voice_switch_and_tones.md): connection, mutes, tones, and what the ports carry. -/

namespace Sys2Proof.Machine

/-! ### Connection (R108 to R110) -/

/-- VSW takes a link request for a position (the table of R108). -/
def vswLink (p : Pos) (s : State) : State :=
  if s.vsw.conn = .linked p then s
  else
    let s := touch 30 s
    let gap := s.pln.plan.call.gap
    if gap = 0 then s.withVsw { s.vsw with conn := .linked p, gapTimer := none }
    else s.withVsw { s.vsw with conn := .gap p, gapTimer := some gap }

/-- VSW takes a NONE request (R109). -/
def vswUnlink (s : State) : State := s.withVsw { s.vsw with conn := .none, gapTimer := none }

/-- The gap timer expires (R110). -/
def vswGapExpiry (s : State) : State :=
  match s.vsw.gapTimer, s.vsw.conn with
  | some _, .gap p => s.withVsw { s.vsw with conn := .linked p, gapTimer := none }
  | _, _ => s

/-- VSW sets or clears both mutes (R111). -/
def vswMutes (x : Bool) (s : State) : State := s.withVsw { s.vsw with uplinkMute := x, downlinkMute := x }

/-! ### Tones (R112 to R115) -/

/-- The highest-priority tone of a requested set (R112). -/
def topTone (x : ToneSet) : Option Tone :=
  if x.chime then some .chime
  else if x.wait then some .wait
  else if x.callbackRing then some .callbackRing
  else if x.reassure then some .reassure
  else none

/-- A requested set with one tone present or absent. -/
def ToneSet.put (x : ToneSet) (t : Tone) (present : Bool) : ToneSet :=
  match t with
  | .chime => { x with chime := present }
  | .wait => { x with wait := present }
  | .callbackRing => { x with callbackRing := present }
  | .reassure => { x with reassure := present }

/-- The on and off times of a tone in milliseconds (the table of section 6.4); CHIME has no off time. -/
def cadenceOf (plan : Plan) : Tone → Nat × Nat
  | .chime => (300, 0)
  | .wait => (100, 900)
  | .callbackRing => (1000, 2000)
  | .reassure => (plan.call.reassureOn, plan.call.reassureOff)

/-- The plan fields that a cadence start reads (R113). -/
def cadenceFields : Tone → List Nat
  | .reassure => [31, 32]
  | .chime => []
  | .wait => []
  | .callbackRing => []

/-- A cadence start of a tone: the cadence in force is fixed and the gate of a burst opens (R113). Both times are those of
one plan, the one that stands after a recovery that reading either of them brought: the model's choice (log entry
49). -/
def cadenceStart (t : Tone) (s : State) : State :=
  let s := touchAll (cadenceFields t) s
  let c := cadenceOf s.pln.plan t
  s.withVsw
    { s.vsw with active := some t, phaseOn := true, phaseTimer := some c.1, cadenceOn := c.1, cadenceOff := c.2 }

/-- The active tone is cut: the gate is closed and the phase timer stopped (R114). The cadence in force is left as the
tone had it; R106 gives none for no active tone (log entry 38). -/
def silence (s : State) : State := s.withVsw { s.vsw with active := none, phaseOn := false, phaseTimer := none }

/-- VSW works out the tone that should be active, and changes to it when it differs (R112, R114). -/
def retune (s : State) : State :=
  let want := topTone s.vsw.requested
  if want = s.vsw.active then s
  else
    match want with
    | none => silence s
    | some t => cadenceStart t (silence s)

/-- VSW takes a tone request (`present`) or a withdrawal (R112). -/
def vswTone (t : Tone) (present : Bool) (s : State) : State :=
  retune (s.withVsw { s.vsw with requested := s.vsw.requested.put t present })

/-- The phase timer expires (R113, R115). -/
def vswPhaseExpiry (s : State) : State :=
  match s.vsw.phaseTimer, s.vsw.active with
  | some _, some t =>
    if s.vsw.phaseOn then
      if t = .chime then vswTone .chime false s
      else s.withVsw { s.vsw with phaseOn := false, phaseTimer := some s.vsw.cadenceOff }
    else cadenceStart t s
  | _, _ => s

/-! ### What the ports carry (R107, R111, R116) -/

/-- What a downlink or an uplink carries. -/
inductive Source where
  /-- A stream of zero samples. -/
  | silence
  /-- The output of a module's audio port. -/
  | modulePort (p : Pos)
  /-- The caller's microphone. -/
  | microphone
  /-- A tone of the part's own. -/
  | tone (t : Tone)
  deriving DecidableEq, Repr

/-- What the handset port's downlink carries: an open burst in place of everything else (R107, R111, R116). -/
def handsetDownlink (v : Vsw) : Source :=
  match v.active, v.phaseOn with
  | some t, true => .tone t
  | _, _ =>
    match v.conn with
    | .linked p => if v.downlinkMute then .silence else .modulePort p
    | .gap _ => .silence
    | .none => .silence

/-- What a module audio port's input carries (R107, R111). -/
def moduleInput (v : Vsw) (p : Pos) : Source :=
  match v.conn with
  | .linked q => if q = p ∧ v.uplinkMute = false then .microphone else .silence
  | .gap _ => .silence
  | .none => .silence

end Sys2Proof.Machine
end

