-- ==== Sys2Proof/Machine/Frames.lean ====
section
/-! DEFINITION. Link frames (R130 to R133): the request frames the part forms, and how it reads the replies. -/

namespace Sys2Proof.Machine

/-! ### Request frames (R129, R130) -/

/-- A data character (R129). -/
def dataChar (b : Byte) : LinkChar := { mark := false, data := b }

/-- The sum of some bytes modulo 256. -/
def byteSum (bs : List Byte) : Byte := bs.foldl (· + ·) 0

/-- The check byte that makes a sum 0 modulo 256 (R95, R130). -/
def checkByte (bs : List Byte) : Byte := -(byteSum bs)

/-- An address character's data: destination in bits 7 to 5, frame kind in bits 4 to 0 (R130). -/
def addressByte (destination kind : Nat) : Byte := byteOf (32 * destination + kind)

/-- The frame of a request (R130): what the part sends at each of its tries (R134). -/
def requestFrame (r : Request) : List LinkChar :=
  let address := addressByte r.pos.val (reqCode r.kind)
  let length := byteOf r.payload.length
  { mark := true, data := address } :: dataChar length :: r.payload.map dataChar
    ++ [dataChar (checkByte (address :: length :: r.payload))]

/-- The payload of an ORIGINATE (R47, R130). -/
def originatePayload (emergency : Bool) (k : Key) (dial : List Byte) : List Byte :=
  [if emergency then 1 else 0] ++ bytes24 k.tag ++ bytes16 k.channel ++ [byteOf dial.length] ++ dial

/-- The payload of a DATA (R97, R130). -/
def dataPayload (segment count : Nat) (bytes : List Byte) : List Byte := [byteOf segment, byteOf count] ++ bytes

/-! ### Reply payloads (R130) -/

/-- The band class of a code (R130); an unknown code names none. -/
def bandOfCode (b : Byte) : Option Band :=
  match b.toNat with
  | 0 => some .low
  | 1 => some .mid
  | 2 => some .high
  | _ => none

/-- The band codes of R130. -/
def bandCode : Band → Nat
  | .low => 0
  | .mid => 1
  | .high => 2

/-- A signed two-byte level in dBm (R130). -/
def levelOf (lo hi : Byte) : Int := (wordOf lo hi).toInt

/-- A quality byte, when it is present. -/
def qualityOf (present : Bool) (q : Byte) : Option Nat := if present then some q.toNat else none

/-- A cell report of ten bytes (R130). -/
def parseReport : List Byte → Option CellReport
  | [t0, t1, t2, c0, c1, band, l0, l1, flags, q] =>
    some
      { tag := t2 ++ t1 ++ t0, channel := wordOf c0 c1, band := bandOfCode band, level := levelOf l0 l1,
        quality := qualityOf (flags.getLsbD 0) q, barred := flags.getLsbD 1 }
  | _ => none

/-- The cell reports that fill a list of bytes; `n` of them are wanted. -/
def parseReports : Nat → List Byte → Option (List CellReport)
  | 0, bs => if bs = [] then some [] else none
  | n + 1, bs =>
    match parseReport (bs.take 10), parseReports n (bs.drop 10) with
    | some r, some rest => some (r :: rest)
    | _, _ => none

/-- A STATUS payload: one cell report of 10 bytes (R130). -/
def parseStatus (payload : List Byte) : Option CellReport := parseReport payload

/-- A SCAN_LIST payload: a count of 0 to 8 and that many reports (R130). -/
def parseScanList : List Byte → Option (List CellReport)
  | [] => none
  | n :: rest => if n.toNat ≤ 8 then parseReports n.toNat rest else none

/-- An event record: its code and its content (R130). -/
abbrev EventRecord := Byte × List Byte

/-- The event records that fill a list of bytes; `n` of them are wanted. -/
def parseRecords : Nat → List Byte → Option (List EventRecord)
  | 0, bs => if bs = [] then some [] else none
  | n + 1, code :: length :: bs =>
    if bs.length < length.toNat then none
    else
      match parseRecords n (bs.drop length.toNat) with
      | some rest => some ((code, bs.take length.toNat) :: rest)
      | none => none
  | _ + 1, _ => none

/-- An EVENTS payload: the batch number, an event count of 0 to 6, and that many records (R130). A batch number 0, which
R130 does not give and R133 does not call an error, is read like any other: the model's choice (log entry 50). -/
def parseEvents : List Byte → Option (Byte × List EventRecord)
  | batch :: n :: rest =>
    if n.toNat ≤ 6 then
      match parseRecords n.toNat rest with
      | some records => some (batch, records)
      | none => none
    else none
  | _ => none

/-- The causes of CALL_ENDED by their codes (R130). -/
def endCauseOf (b : Byte) : Option EndCause :=
  match b.toNat with
  | 0 => some .normal
  | 1 => some .refusedNetwork
  | 2 => some .numberRejected
  | 3 => some .noService
  | 4 => some .radioLost
  | 5 => some .other
  | _ => none

/-- The verdicts of DATA_RESULT by their codes (R130). -/
def verdictOf (b : Byte) : Option DataVerdict :=
  match b.toNat with
  | 0 => some .accepted
  | 1 => some .rejected
  | 2 => some .repeated
  | _ => none

/-- The event of a record of a known code whose content is the one R130 gives it. -/
def knownEvent (code : Nat) (content : List Byte) : Option ModuleEvent :=
  match code, content with
  | 1, [] => some .proceeding
  | 2, [] => some .alerting
  | 3, [] => some .answered
  | 4, [cause] => (endCauseOf cause).map .ended
  | 5, n :: caller => if n.toNat = caller.length ∧ caller.length ≤ 20 then some (.incoming caller) else none
  | 6, [count] => some (.scanReady count)
  | 7, [v] => (verdictOf v).map .dataResult
  | 8, [l0, l1, flags, q] =>
    some (.levelReport (wordOf l0 l1) (if flags.getLsbD 0 then some q else none))
  | 9, [] => some .serviceLost
  | _, _ => none

/-- The event of a record (R130, R133): an unknown code is skipped; a known code with another content is the free value
of log entry 14. -/
def eventOf (r : EventRecord) : Option ModuleEvent :=
  let code := r.1.toNat
  if code = 0 ∨ 9 < code then none
  else
    match knownEvent code r.2 with
    | some e => some e
    | none => Config.malformedEvent r.1 r.2

/-! ### Replies (R132, R133) -/

/-- The error kind codes of R133. -/
def errorCode : ReplyErrorKind → Nat
  | .framing => 2
  | .mark => 3
  | .length => 4
  | .check => 5
  | .destination => 6
  | .kind => 7

/-- The error kind of a reply timeout and of a BAD_FRAME (R133). -/
def timeoutError : Nat := 1
def badFrameError : Nat := 8

/-- The reasons of REPLY_NAK by their codes (R130). -/
def nakReasonOf (b : Byte) : Option NakReason :=
  match b.toNat with
  | 1 => some .busy
  | 2 => some .noService
  | 3 => some .badFrame
  | 4 => some .notAllowed
  | _ => none

/-- The codes of the reply kinds that R132 allows for a request kind. -/
def allowedReplies : ReqKind → List Nat
  | .probe => [20]
  | .scanFetch => [18]
  | .poll => [19]
  | .originate => [16, 17]
  | .release => [16, 17]
  | .answer => [16, 17]
  | .reject => [16, 17]
  | .data => [16, 17]
  | .scan => [16, 17]
  | .sleep => [16, 17]
  | .wake => [16, 17]

/-- What a reply's kind and payload make for a request kind: a command, or the error they show. A REPLY_NAK with reason
BAD_FRAME answers any request; another reason answers those that R132 names (log entry 30). -/
def replyOfPayload (req : ReqKind) (kind : Nat) (payload : List Byte) : Except ReplyErrorKind Instr :=
  match kind, payload with
  | 16, [] => .ok .replyOk
  | 17, [b] =>
    match nakReasonOf b with
    | none => .error .length
    | some r => if r = .badFrame ∨ (allowedReplies req).contains 17 then .ok (.replyNak r) else .error .kind
  | 18, bs => if (parseScanList bs).isSome then .ok (.scanList bs) else .error .length
  | 19, bs => if (parseEvents bs).isSome then .ok (.events bs) else .error .length
  | 20, bs => if (parseStatus bs).isSome then .ok (.status bs) else .error .length
  | _, _ => .error .length

/-- Read some data characters of a reply: an absent one arrived without its stop bit. -/
def readData : Nat → List (Option LinkChar) → Option (Except ReplyErrorKind (List Byte × List (Option LinkChar)))
  | 0, cs => some (.ok ([], cs))
  | _ + 1, [] => none
  | _ + 1, none :: _ => some (.error .framing)
  | n + 1, some c :: rest =>
    if c.mark then some (.error .mark)
    else
      match readData n rest with
      | none => none
      | some (.error e) => some (.error e)
      | some (.ok (bs, left)) => some (.ok (c.data :: bs, left))

/-- The reply command that the characters of a reply make, for a request kind (R132, R133): the errors are met in the
order in which the characters arrive; none while the reply is not complete. -/
def readReply (kind : ReqKind) : List (Option LinkChar) → Option Instr
  | [] => none
  | none :: _ => some (.replyError .framing)
  | some a :: rest =>
    if a.mark = false then some (.replyError .mark)
    else if a.data.toNat / 32 ≠ 7 then some (.replyError .destination)
    else if a.data.toNat % 32 ≠ 17 ∧ !(allowedReplies kind).contains (a.data.toNat % 32) then some (.replyError .kind)
    else
      match readData 1 rest with
      | some (.ok ([n], rest)) =>
        if 250 < n.toNat then some (.replyError .length)
        else
          match readData n.toNat rest with
          | none => none
          | some (.error e) => some (.replyError e)
          | some (.ok (payload, rest)) =>
            match replyOfPayload kind (a.data.toNat % 32) payload with
            | .error e => some (.replyError e)
            | .ok c =>
              match readData 1 rest with
              | none => none
              | some (.error e) => some (.replyError e)
              | some (.ok (check, _)) =>
                if byteSum ([a.data, n] ++ payload ++ check) = 0 then some c else some (.replyError .check)
      | some (.error e) => some (.replyError e)
      | some (.ok _) => none
      | none => none

end Sys2Proof.Machine
end

