-- ==== Sys2Proof/Machine/Message.lean ====
section
/-! DEFINITION. The location message unit (05_location_message.md): the message record, tries, verdicts, conclusion and
stop. -/

namespace Sys2Proof.Machine

/-! ### The message record (R93 to R95) -/

/-- The bits of a byte, bit 0 first. -/
def byteOfFlags (fs : List Bool) : Byte := byteOf (fs.foldr (fun f n => (if f then 1 else 0) + 2 * n) 0)

/-- The kind and flags byte (R94). -/
def recordFlags (ctx : Context) (location : Option Location) : Byte :=
  byteOfFlags
    [ctx.kind == .test, ctx.flags.reestablished, ctx.flags.silent, location.isNone, decide (1 ≤ ctx.presses)]

/-- Bytes 4 to 34: the location record's fields, or zeros when there is none (R94, R95). -/
def locationBytes : Option Location → List Byte
  | some l =>
    l.boxId ++ bytes32 l.latitude ++ bytes32 l.longitude ++ bytes16 l.route ++ bytes32 l.along ++ [l.direction]
  | none => List.replicate 31 0

/-- The text of the location record. -/
def locationText : Option Location → List Byte
  | some l => l.text
  | none => []

/-- The seconds since the call started, saturating (R93). -/
def secondsSince (clock : BitVec 32) (start : Option (BitVec 32)) : Nat :=
  match start with
  | some t => min (clock - t).toNat 65535
  | none => 0

/-- Bytes 38 to 41: the serving band class and network tag (R93, R95). -/
def servingBytes (table : List Entry) : Option Serving → List Byte
  | some (.hunted k) =>
    match findEntry table k with
    | some e => byteOf (bandCode e.band) :: bytes24 k.tag
    | none => [255, 0, 0, 0]
  | some (.incoming _) => [255, 0, 0, 0]
  | none => [255, 0, 0, 0]

/-- The record without its check byte (R94). -/
def recordBody (location : Option Location) (ctx : Context) (clock : BitVec 32) (table : List Entry) : List Byte :=
  let text := locationText location
  [1, recordFlags ctx location] ++ bytes16 ctx.sequence ++ locationBytes location
    ++ [byteOf (min ctx.attempts 255)] ++ bytes16 (BitVec.ofNat 16 (secondsSince clock ctx.start))
    ++ servingBytes table ctx.serving ++ [byteOf text.length] ++ text

/-- The message record (R94, R95). -/
def messageRecord (location : Option Location) (ctx : Context) (clock : BitVec 32) (table : List Entry) : List Byte :=
  let body := recordBody location ctx clock table
  body ++ [checkByte body]

/-- The segment count of a record (R96). -/
def segmentCount (record : List Byte) : Nat := if record.length ≤ 48 then 1 else 2

/-- The bytes of a segment (R97). -/
def segmentBytes (record : List Byte) (segment : Nat) : List Byte :=
  if segment = 1 then record.take 48 else record.drop 48

/-! ### Conclusion and stop (R102, R103) -/

/-- The delivery is over: IDLE, with nothing of it held. -/
def lmuIdle (s : State) : State :=
  s.withLmu { s.lmu with state := .idle, pos := none, record := none, current := none, ackTimer := none }

/-- LMU concludes a delivery (R102). -/
def lmuConclude (delivered : Bool) (s : State) : State :=
  let s := s.withLmu { s.lmu with ackTimer := none }
  let s := withdrawIf .lmu s.lmu.current s
  let s := vswTone .wait false (vswMutes false s)
  let s := if delivered then s else raise .messageUndelivered s
  lmuIdle (post (.calConcluded delivered) s)

/-- LMU takes a stop from CAL (R103). -/
def lmuStop (s : State) : State :=
  if s.lmu.state = .idle then s
  else lmuIdle (vswTone .wait false (withdrawIf .lmu s.lmu.current (s.withLmu { s.lmu with ackTimer := none })))

/-! ### Tries (R97, R101) -/

/-- LMU queues the DATA of a segment (R97). The flag says that it was queued. -/
def lmuSend (segment : Nat) (s : State) : Bool × State :=
  let s := s.withLmu { s.lmu with state := .sending, segment := segment, current := none }
  match s.lmu.pos, s.lmu.record with
  | some p, some record =>
    match enqueue .lmu p .data (dataPayload segment s.lmu.segments (segmentBytes record segment)) s with
    | (.queued n, s) => (true, s.withLmu { s.lmu with current := some n })
    | (_, s) => (false, s)
  | _, _ => (true, s)

/-- LMU starts a try (R97). -/
def lmuStartTry (s : State) : Bool × State := lmuSend 1 (s.withLmu { s.lmu with tries := s.lmu.tries + 1 })

/-- A try has failed (R101): a new try while the retries allow one, the conclusion UNDELIVERED otherwise. A try whose
DATA is refused at queueing fails in the same event (R98); the fuel bounds the tries. A LINK_FAILED of the last allowed
try concludes UNDELIVERED also where it brings the module to SUSPECT: the result is taken before the loss, the model's
choice (log entry 48). -/
def lmuTryFailed : Nat → State → State
  | 0, s => s
  | fuel + 1, s =>
    let s := touch 21 (s.withLmu { s.lmu with ackTimer := none })
    if s.lmu.tries < s.pln.plan.hunt.messageRetries + 1 then
      match lmuStartTry s with
      | (true, s) => s
      | (false, s) => lmuTryFailed fuel s
    else lmuConclude false s

/-- More tries than any plan allows (R101: at most 8). -/
def triesFuel : Nat := 10

/-- LMU takes a delivery start from CAL (R96). -/
def lmuStart (p : Pos) (s : State) : State :=
  let s := lmuStop s
  let s := touchAll (locationFields s.pln.plan) s
  let record := messageRecord s.pln.plan.location s.cal.ctx s.clock s.ctu.table
  let s := s.withLmu
    { s.lmu with
      pos := some p, record := some record, segments := segmentCount record, tries := 0, replySeen := false }
  match lmuStartTry (vswTone .wait true s) with
  | (true, s) => s
  | (false, s) => lmuTryFailed triesFuel s

/-- LMU takes a REPLY_OK to its current DATA (R98, R99). -/
def lmuReplyOk (s : State) : State :=
  let s := s.withLmu { s.lmu with current := none, replySeen := true }
  if s.lmu.segment < s.lmu.segments then
    match lmuSend (s.lmu.segment + 1) s with
    | (true, s) => s
    | (false, s) => lmuTryFailed triesFuel s
  else
    let s := touch 28 s
    s.withLmu { s.lmu with state := .awaiting, ackTimer := some (1000 * s.pln.plan.call.ackTimeout) }

/-- LMU takes the result of a DATA request; one that is not the current request is ignored (R98). -/
def lmuTakeResult (number : Nat) (r : LinkResult) (s : State) : State :=
  if s.lmu.current = some number then
    if r = .ok then lmuReplyOk s else lmuTryFailed triesFuel (s.withLmu { s.lmu with current := none })
  else s

/-- LMU takes a DATA_RESULT (R100). -/
def lmuTakeVerdict (p : Pos) (v : DataVerdict) (s : State) : State :=
  if s.lmu.state = .idle ∨ s.lmu.pos ≠ some p ∨ s.lmu.replySeen = false then s
  else
    match v with
    | .accepted => lmuConclude true s
    | .rejected => lmuConclude false s
    | .repeated => if s.lmu.state = .awaiting then lmuTryFailed triesFuel s else s

/-- The acknowledgement timer expires (R99). -/
def lmuAckExpiry (s : State) : State :=
  if s.lmu.ackTimer.isSome ∧ s.lmu.state = .awaiting then lmuTryFailed triesFuel s else s

end Sys2Proof.Machine
end

