-- ==== Sys2Proof/Machine/Watch.lean ====
section
/-! DEFINITION. The watch unit (09_background_watch_and_doze.md): power state, upkeep, the scan schedule and sequence,
gathers and the SCAN order. -/

namespace Sys2Proof.Machine

/-- WCH's record of one position. -/
def State.watch (s : State) (p : Pos) : Watch := s.wch.watch.get p

/-- Replace WCH's record of one position. -/
def State.withWatch (s : State) (p : Pos) (w : Watch) : State :=
  s.withWch { s.wch with watch := s.wch.watch.set p w }

/-- Whether a module holds an attempt record or the serving call: its turn to scan passes it over (R164, R168, R169). -/
def busyWithCall (s : State) (p : Pos) : Bool := holdsCall s p

/-- The plan lets due positions scan in DOZE (R164). -/
def scansInDoze (s : State) : Bool := s.pln.plan.hunt.scanScope == .awakeAndDoze

/-- A module is free to sleep (R161). -/
def freeToSleep (s : State) (p : Pos) : Bool :=
  let w := s.watch p
  w.phase == .none && !w.requested && !(w.due && scansInDoze s) && (s.hnt.records.get p).isNone
    && servingPos s.cal.ctx.serving != some p && !s.cal.ctx.releases.get p && s.cal.ctx.answer != some p

/-- WCH queues a SLEEP; a refused one is left to the upkeep (R161, R163). -/
def queueSleep (p : Pos) (s : State) : State :=
  match enqueue .wch p .sleep [] s with
  | (.queued n, s) => s.withWatch p { s.watch p with sleeps := (s.watch p).sleeps ++ [n] }
  | (_, s) => s

/-- WCH queues a WAKE: the flag says that it was queued, and a wake is then in progress (R37, R162). -/
def queueWake (p : Pos) (s : State) : Bool × State :=
  match enqueue .wch p .wake [] s with
  | (.queued n, s) => (true, s.withWatch p { s.watch p with wakeRequest := some n, waking := true })
  | (_, s) => (false, s)

/-- Phase WAKING: a WAKE is queued before the scan; a refused one is queued again at the next advance (R166). -/
def startWaking (p : Pos) (s : State) : State :=
  let s := s.withWatch p { s.watch p with phase := .waking }
  match queueWake p s with
  | (true, s) => s
  | (false, s) => s.withWatch p { s.watch p with again := true }

/-- WCH queues a SCAN_FETCH; a refused one is queued again at the next advance (R165). -/
def queueFetch (p : Pos) (s : State) : State :=
  match enqueue .wch p .scanFetch [] s with
  | (.queued n, s) => s.withWatch p { s.watch p with scanRequest := some n, again := false }
  | (_, s) => s.withWatch p { s.watch p with scanRequest := none, again := true }

/-! ### Examination (R164) -/

/-- Whether examination starts phase WAKING at a position (R164, R166). -/
def wakesForScan (s : State) (p : Pos) : Bool :=
  let w := s.watch p
  (s.module p).state == .asleep && w.wakeRequest.isNone && w.phase == .none
    && (w.requested || (w.due && s.wch.doze && scansInDoze s))

/-- Start phase WAKING where examination finds it wanted. -/
def wakeIfWanted (p : Pos) (s : State) : State := if wakesForScan s p then startWaking p s else s

/-- Whether a position waits for a scan (R164). A position in RETRYING waits whatever its module holds, and in DOZE
whatever the scan scope, though it counts as due: the model's reading (log entry 28). -/
def waits (s : State) (p : Pos) : Bool :=
  let w := s.watch p
  if w.phase = .retrying then true
  else
    w.phase == .none && usable (s.module p)
      && (w.requested || (w.due && !busyWithCall s p && (!s.wch.doze || scansInDoze s)))

/-- The order in which waiting positions start: requested before due, RETRYING first in each kind (R164). -/
def waitRank (s : State) (p : Pos) : Nat :=
  let w := s.watch p
  (if w.requested then 0 else 2) + (if w.phase = .retrying then 0 else 1)

/-- The waiting position that comes first among those not yet looked at; ties go to the lower position. -/
def nextWaiting (s : State) (looked : List Pos) : Option Pos :=
  let ws := positions.filter (fun p => waits s p && !looked.contains p)
  [0, 1, 2, 3].findSome? (fun r => ws.find? (fun p => waitRank s p == r))

/-- A SCAN order whose members have all ended completes SCANNED with the number of entries (R169). -/
def settleScanOrder (s : State) : State :=
  match s.wch.order with
  | none => s
  | some o =>
    if o.left = PerPos.all false then
      complete o.held .scanned (BitVec.ofNat 16 s.ctu.table.length) (s.withWch { s.wch with order := none })
    else s

/-- A gather whose list has become empty is reported to HNT (R168). -/
def settleGather (s : State) : State :=
  if s.wch.gatherReport ∧ s.wch.gather = PerPos.all false then
    post .hntGatherEnd (s.withWch { s.wch with gatherReport := false })
  else s

/-- A position has ended for the gather and the SCAN order that want it (R165, R168, R169). -/
def endMember (p : Pos) (s : State) : State :=
  let s := s.withWatch p { s.watch p with requested := false }
  let order := s.wch.order.map (fun o => { o with left := o.left.set p false })
  settleScanOrder (settleGather (s.withWch { s.wch with gather := s.wch.gather.set p false, order := order }))

/-- A scan starts, or is restarted in RETRYING (R165, R33). -/
def startScan (p : Pos) (s : State) : State :=
  let s := touch 17 s
  let w := s.watch p
  let w := if w.phase = .retrying then w else { w with limit := some Config.scanLimit, due := false }
  let s := s.withWatch p { w with phase := .scanQueued }
  let s := s.withWch { s.wch with stagger := timerOf s.pln.plan.hunt.stagger }
  match enqueue .wch p .scan [] s with
  | (.queued n, s) => s.withWatch p { s.watch p with scanRequest := some n }
  | (_, s) => s.withWatch p { s.watch p with phase := .retrying, scanRequest := none }

/-- The starts of an examination: one after another while the scan stagger timer is not running (R164). A requested
position whose module holds an attempt record or the serving call ends without a scan when its turn comes (R168,
R169). -/
def startScans : Nat → List Pos → State → State
  | 0, _, s => s
  | fuel + 1, looked, s =>
    if s.wch.stagger.isSome then s
    else
      match nextWaiting s looked with
      | none => s
      | some p =>
        let w := s.watch p
        if w.requested ∧ w.phase ≠ .retrying ∧ busyWithCall s p then
          startScans fuel (p :: looked) (endMember p s)
        else startScans fuel (p :: looked) (startScan p s)

/-- WCH examines its scans (R164). -/
def examine (s : State) : State :=
  let s := touch 14 s
  startScans 4 [] (wakeIfWanted 2 (wakeIfWanted 1 (wakeIfWanted 0 s)))

/-! ### Scan ends (R165, R167) -/

/-- In DOZE, a module that is free to sleep is sent its SLEEP at its scan end (R165). At a scan end of a module that is not
ACTIVE and IN_SERVICE (an abandoned WAKING, a departure) no SLEEP is queued: the model's choice (log entry 62). -/
def sleepAfterScan (p : Pos) (s : State) : State :=
  if s.wch.doze ∧ usable (s.module p) ∧ freeToSleep s p then queueSleep p s else s

/-- A scan ends, delivered or abandoned (R165): limit timer, queued request, phase, interval timer, report, SLEEP. -/
def scanEndNoExamine (p : Pos) (s : State) : State :=
  let s := withdrawIf .wch (s.watch p).scanRequest s
  let s := touch 25 s
  let interval :=
    if (s.module p).role = .active then some (1000 * s.pln.plan.hunt.scanInterval) else (s.watch p).interval
  let s := s.withWatch p
    { s.watch p with
      limit := none, scanRequest := none, phase := .none, again := false, interval := interval, due := false }
  sleepAfterScan p (endMember p s)

/-- A scan ends, and WCH examines its scans (R164, R165). -/
def scanEnd (p : Pos) (s : State) : State := examine (scanEndNoExamine p s)

/-! ### Doze (R161 to R163) -/

/-- Queue a SLEEP for a position at entry to DOZE (R161). -/
def sleepAtDoze (p : Pos) (s : State) : State :=
  if usable (s.module p) ∧ freeToSleep s p then queueSleep p s else s

/-- WCH enters DOZE (R161). The SLEEPs are queued by ascending position, and before the examination (R164), the model's
choices (log entries 44 and 59). -/
def enterDoze (s : State) : State :=
  let s := mlcInterval (s.withWch { s.wch with doze := true, dozePending := false })
  let s := touch 14 s
  examine (sleepAtDoze 2 (sleepAtDoze 1 (sleepAtDoze 0 s)))

/-- A SLEEP of WCH's is no longer outstanding: it has been withdrawn, or has its result (R161, R162). -/
def forgetSleep (p : Pos) (n : Nat) (s : State) : State :=
  s.withWatch p { s.watch p with sleeps := (s.watch p).sleeps.filter (fun k => k != n) }

/-- One SLEEP is withdrawn; an answer other than WITHDRAWN leaves it outstanding until its result (R162, step 2). -/
def withdrawOneSleep (p : Pos) (s : State) (n : Nat) : State :=
  match withdraw .wch n s with
  | (.withdrawn, s) => forgetSleep p n s
  | (_, s) => s

/-- Every SLEEP of WCH's still outstanding for a position is withdrawn (R162, step 2). -/
def withdrawSleep (p : Pos) (s : State) : State := (s.watch p).sleeps.foldl (withdrawOneSleep p) s

/-- Whether a module with the role ACTIVE is ASLEEP with no WAKE of WCH's outstanding (R162, R163). -/
def wantsWake (s : State) (p : Pos) : Bool :=
  (s.module p).role == .active && (s.module p).state == .asleep && (s.watch p).wakeRequest.isNone

/-- A WAKE for an ACTIVE module that is ASLEEP (R162, step 3). -/
def wakeAsleep (p : Pos) (s : State) : State := if wantsWake s p then (queueWake p s).2 else s

/-- WCH leaves DOZE (R162); in AWAKE nothing happens. SLEEPs are withdrawn and WAKEs queued by ascending position, and
both before the examination (R164), the model's choices (log entries 44 and 59). -/
def leaveDoze (s : State) : State :=
  if s.wch.doze then
    let s := mlcInterval (s.withWch { s.wch with doze := false })
    let s := withdrawSleep 2 (withdrawSleep 1 (withdrawSleep 0 s))
    examine (wakeAsleep 2 (wakeAsleep 1 (wakeAsleep 0 s)))
  else s

/-- CTRL DOZE (the table of R161). -/
def wchDoze (s : State) : State :=
  if s.wch.reported = .idle then (if s.wch.doze then s else enterDoze s)
  else if s.wch.doze then s
  else s.withWch { s.wch with dozePending := true }

/-- CTRL WAKE (R162). -/
def wchWake (s : State) : State := leaveDoze (s.withWch { s.wch with dozePending := false })

/-- CAL tells WCH that a call is starting (R162). -/
def wchCallStart (s : State) : State := leaveDoze s

/-- CAL reports its state to WCH (R161, R162). -/
def wchCallState (s : State) : State :=
  let s := s.withWch { s.wch with reported := s.cal.ctx.state }
  if s.cal.ctx.state = .idle then (if s.wch.dozePending then enterDoze s else s) else leaveDoze s

/-- What was left for the next advance of the seconds clock: a SCAN_FETCH or a WAKE is queued again (R165, R166). A WAKE
is dropped while another WAKE is outstanding (R162, step 3), and queued where that one had its reply: the model's choice
(log entry 69). -/
def queueAgain (p : Pos) (s : State) : State :=
  let w := s.watch p
  if w.again then
    match w.phase with
    | .fetching => queueFetch p s
    | .waking =>
      if w.wakeRequest.isSome then s.withWatch p { w with again := false }
      else
        match queueWake p s with
        | (true, s) => s.withWatch p { s.watch p with again := false }
        | (false, s) => s
    | _ => s.withWatch p { w with again := false }
  else s

/-- One position of the upkeep (R163). -/
def upkeepPos (p : Pos) (s : State) : State :=
  if s.wch.doze then
    if usable (s.module p) ∧ freeToSleep s p ∧ (s.watch p).sleeps.isEmpty then queueSleep p s else s
  else if wantsWake s p ∧ (s.watch p).sleeps.isEmpty then (queueWake p s).2
  else s

/-- WCH's upkeep event (R163), with the requests left for it. Those are queued again first, and each kind goes by
ascending position: the model's choice (log entry 44). The scans are examined last, so that a requested position whose
module is ASLEEP is woken by the upkeep itself, with no phase WAKING: the model's choice (log entry 59). -/
def upkeep (s : State) : State :=
  let s := queueAgain 2 (queueAgain 1 (queueAgain 0 s))
  let s := if s.wch.doze then touch 14 s else s
  examine (upkeepPos 2 (upkeepPos 1 (upkeepPos 0 s)))

/-! ### Timers -/

/-- A scan interval timer expires (R164). -/
def wchIntervalExpiry (p : Pos) (s : State) : State :=
  if (s.watch p).interval.isSome then examine (s.withWatch p { s.watch p with interval := none, due := true })
  else s

/-- A scan limit timer expires (R165). -/
def wchLimitExpiry (p : Pos) (s : State) : State := if (s.watch p).limit.isSome then scanEnd p s else s

/-- The scan stagger timer expires (R33). -/
def wchStaggerExpiry (s : State) : State :=
  if s.wch.stagger.isSome then examine (s.withWch { s.wch with stagger := none }) else s

/-! ### Results and reports -/

/-- WCH takes the result of its SCAN (the table of R165). -/
def wchScanResult (p : Pos) (r : LinkResult) (s : State) : State :=
  let s := s.withWatch p { s.watch p with scanRequest := none }
  match r with
  | .ok => s.withWatch p { s.watch p with phase := .awaitReady }
  | .displaced => s.withWatch p { s.watch p with phase := .retrying }
  | _ => scanEnd p s

/-- WCH takes a result of its SCAN_FETCH that is not the list (the table of R165). -/
def wchFetchResult (p : Pos) (r : LinkResult) (s : State) : State :=
  let s := s.withWatch p { s.watch p with scanRequest := none }
  match r with
  | .displaced => s.withWatch p { s.watch p with again := true }
  | _ => scanEnd p s

/-- WCH takes the result of its WAKE (R162, the table of R166). -/
def wchWakeResult (p : Pos) (r : LinkResult) (s : State) : State :=
  let s := s.withWatch p { s.watch p with wakeRequest := none }
  if (s.watch p).phase = .waking then
    match r with
    | .ok => s
    | .displaced => s.withWatch p { s.watch p with again := true }
    | _ => scanEnd p s
  else s

/-- WCH takes the result of a request of its own. A SCAN or SCAN_FETCH that is no longer the position's own is ignored
(R165). A SLEEP's result ends that SLEEP; where a position has two, sleep outstanding stands until the other has its own
result or is withdrawn (R160, R161, log entry 45). -/
def wchTakeResult (p : Pos) (number : Nat) (kind : ReqKind) (r : LinkResult) (s : State) : State :=
  match kind with
  | .scan => if (s.watch p).scanRequest = some number then wchScanResult p r s else s
  | .scanFetch => if (s.watch p).scanRequest = some number then wchFetchResult p r s else s
  | .sleep => forgetSleep p number s
  | .wake => if (s.watch p).wakeRequest = some number then wchWakeResult p r s else s
  | _ => s

/-- WCH takes CTU's report that the list of a SCAN_FETCH has been taken (R165). -/
def wchTakeList (p : Pos) (number : Nat) (s : State) : State :=
  if (s.watch p).phase = .fetching ∧ (s.watch p).scanRequest = some number then
    scanEnd p (s.withWatch p { s.watch p with scanRequest := none })
  else s

/-- WCH takes a SCAN_READY (the table of R165). -/
def wchTakeReady (p : Pos) (count : Byte) (s : State) : State :=
  if (s.watch p).phase = .awaitReady then
    if count = 0 then scanEnd p s
    else queueFetch p (s.withWatch p { s.watch p with phase := .fetching })
  else s

/-- The states that stop a position's interval timer (R164) and end its WAKING (R166). -/
def lostToWatch : ModState → Bool
  | .suspect => true
  | .failed => true
  | .outOfService => true
  | .absent => true
  | _ => false

/-- A position's scan in progress ends with its module's departure; a requested position that was still waiting ends
without a scan (R167 to R169, log entry 27). -/
def endAtDeparture (p : Pos) (s : State) : State :=
  if (s.watch p).phase ≠ .none then scanEndNoExamine p s
  else if (s.watch p).requested then endMember p s
  else s

/-- WCH takes a module's change of state from MLC (R164, R166, R167). A MODULE RESTART that takes a module from IN_SERVICE to
BOOTING leaves its interval timer running, since R164's list of the states that stop it leaves BOOTING out: the model's
choice (log entry 61). -/
def wchTakeModule (p : Pos) (old new : ModState) (s : State) : State :=
  let s := if (old == .inService && new != .inService) || lostToWatch new then endAtDeparture p s else s
  let s :=
    if lostToWatch new then s.withWatch p { s.watch p with interval := none, due := false, waking := false } else s
  let s :=
    if new = .inService then
      let w := s.watch p
      s.withWatch p
        { w with
          phase := if w.phase = .waking then .none else w.phase,
          again := if w.phase = .waking then false else w.again,
          waking := false,
          due := w.due || ((s.module p).role == .active && w.interval.isNone) }
    else s
  examine s

/-- WCH takes a module's change of role from MLC (R164, R167; a role ACTIVE taken in IN_SERVICE: log entry 33). -/
def wchTakeRole (p : Pos) (s : State) : State :=
  let s :=
    if (s.module p).role = .active then
      let w := s.watch p
      if (s.module p).state = .inService ∧ w.interval.isNone ∧ w.phase = .none then
        s.withWatch p { w with due := true }
      else s
    else
      let s := if (s.watch p).phase ≠ .none ∧ (s.watch p).requested = false then scanEndNoExamine p s else s
      s.withWatch p { s.watch p with interval := none, due := false }
  examine s

/-! ### Gathers and the SCAN order (R168, R169) -/

/-- Whether a position is still wanted by the SCAN order. -/
def inScanOrder (s : State) (p : Pos) : Bool :=
  match s.wch.order with
  | some o => o.left.get p
  | none => false

/-- A position under a new gather list: a listed one becomes requested; one that only the earlier list wanted and that
has not started is no longer requested (log entry 26). -/
def regather (list : PerPos Bool) (p : Pos) (s : State) : State :=
  let w := s.watch p
  if list.get p then s.withWatch p { w with requested := true }
  else if s.wch.gather.get p ∧ w.phase = .none ∧ !inScanOrder s p then s.withWatch p { w with requested := false }
  else s

/-- HNT asks WCH for gather scans (R168). -/
def wchGather (list : PerPos Bool) (s : State) : State :=
  let s := regather list 2 (regather list 1 (regather list 0 s))
  s.withWch { s.wch with gather := list, gatherReport := true }

/-- Whether a position belongs to a SCAN order's set (R169, step 2). -/
def scanMember (s : State) (p : Pos) : Bool :=
  let m := s.module p
  m.role == .active && (m.state == .inService || m.state == .asleep) && !busyWithCall s p

/-- A member of a SCAN order becomes requested, and is woken if it is ASLEEP (R169, step 3). -/
def requestMember (member : PerPos Bool) (p : Pos) (s : State) : State :=
  if member.get p then wakeIfWanted p (s.withWatch p { s.watch p with requested := true }) else s

/-- WCH takes a SCAN order (R169). -/
def wchScanOrder (held : Held) (fresh : Bool) (s : State) : State :=
  if s.wch.reported = .hunting ∨ s.wch.reported = .reestablishing then complete held .mergedWithHunt 0 s
  else
    let s := if fresh then ctuPurge s else s
    let set : PerPos Bool := ⟨scanMember s 0, scanMember s 1, scanMember s 2⟩
    let s := s.withWch { s.wch with order := some { held := held, left := set } }
    settleScanOrder (requestMember set 2 (requestMember set 1 (requestMember set 0 s)))

end Sys2Proof.Machine
end

