-- ==== Sys2Proof/Machine/Hunt.lean ====
section
/-! DEFINITION. The hunt controller (03_the_hunt.md): rounds, launches, attempt records, the winner, surplus and stray
releases, backoff. CAL's requests to it are calls; what it reports to CAL is posted. -/

namespace Sys2Proof.Machine

/-! ### Records (R48) -/

/-- The attempt record of a position. -/
def State.record (s : State) (p : Pos) : Option Attempt := s.hnt.records.get p

/-- Replace the attempt record of a position. -/
def State.withRecord (s : State) (p : Pos) (r : Option Attempt) : State :=
  s.withHnt { s.hnt with records := s.hnt.records.set p r }

/-- What CAL is told of a record (R48). -/
def summaryOf (a : Attempt) : Summary := { number := a.number, state := a.state, outcome := a.outcome, form := a.form }

/-- Put a record in place and report it to CAL (R48). -/
def putRecord (p : Pos) (a : Attempt) (s : State) : State :=
  post (.calRecord p (summaryOf a)) (s.withRecord p (some a))

/-- Whether there is no attempt record. -/
def noRecord (s : State) : Bool := positions.all (fun p => (s.record p).isNone)

/-- Whether an attempt is in flight (R34). -/
def inFlight (a : Attempt) : Bool := a.state != .releasing

/-- The attempts in flight. -/
def inFlightCount (s : State) : Nat :=
  (positions.filter (fun p => ((s.record p).map inFlight).getD false)).length

/-- Whether a position has no attempt record and no stray release mark (R45). -/
def freeForLaunch (s : State) (p : Pos) : Bool := (s.record p).isNone && (s.hnt.stray.get p).isNone

/-- HNT sends attempts clear (R40). -/
def attemptsClear (s : State) : State := post .calAttemptsClear s

/-! ### Stray releases (R59) -/

/-- HNT queues a stray RELEASE and marks the position; a refusal clears the mark at once. -/
def strayRelease (p : Pos) (s : State) : State :=
  match enqueue .stray p .release [] s with
  | (.queued n, s) => s.withHnt { s.hnt with stray := s.hnt.stray.set p (some n) }
  | (_, s) => s.withHnt { s.hnt with stray := s.hnt.stray.set p none }

/-! ### The end of a record (R54) -/

/-- Steps 1 to 3 of R54: the outcome to CTU, the record out of the collection, its end to CAL. -/
def dropRecord (p : Pos) (a : Attempt) (o : Outcome) (s : State) : State :=
  post (.calRecordEnd p) ((ctuOutcome o a.key s).withRecord p none)

/-- A record ends. An answer that it took while QUEUED, with no RELEASE sent since, makes a stray release before the
checks of R54 (R50). -/
def endRecord (p : Pos) (a : Attempt) (o : Outcome) (s : State) : State :=
  let s := dropRecord p a o s
  if a.strayOnEnd then strayRelease p s else s

/-- A record in RELEASING with an outcome, its timer stopped (R49, R51, R56). -/
def releasing (a : Attempt) (o : Outcome) : Attempt := { a with state := .releasing, timer := none, outcome := o }

/-- A record begins to release with an outcome: its timer stops and a RELEASE is queued. A refused RELEASE is taken in
RELEASING: the record, which CAL has been shown so, ends with that outcome (R48, R49, R51, R56). -/
def beginRelease (p : Pos) (a : Attempt) (o : Outcome) (s : State) : State :=
  match enqueue .attempt p .release [] s with
  | (.queued n, s) =>
    putRecord p { releasing a o with request := some n, strayOnEnd := false, releaseOnReply := false } s
  | (_, s) => endRecord p (releasing a o) o (putRecord p (releasing a o) s)

/-- A record that can end by an event of its module: it is past QUEUED and not RELEASING (R50). -/
def connecting (x : AttemptState) : Bool := x != .queued && x != .releasing

/-- A record in QUEUED is withdrawn from the link queue (R39, step 1; R56): it ends SURPLUS, or waits for its
ORIGINATE's result when the withdrawal comes too late. -/
def withdrawQueued (p : Pos) (s : State) : State :=
  match s.record p with
  | none => s
  | some a =>
    if a.state = .queued then
      match a.request with
      | none => endRecord p a .surplus s
      | some n =>
        match withdraw .attempt n s with
        | (.withdrawn, s) => endRecord p a .surplus s
        | (_, s) => s.withRecord p (some { a with releaseOnReply := true })
    else s

/-- A record in SENT, PROCEEDING or ALERTING begins to release as surplus (R39, step 2; R56). -/
def releaseSent (p : Pos) (s : State) : State :=
  match s.record p with
  | none => s
  | some a => if connecting a.state then beginRelease p a .surplus s else s

/-- A record is released as surplus, according to its state (R56). -/
def releaseSurplus (p : Pos) (s : State) : State := releaseSent p (withdrawQueued p s)

/-- The records of some positions are released as surplus: first those in QUEUED are withdrawn, then the others begin to
release (R39, steps 1 and 2). R55 and R56 give the records no order: taking them in the order of a stop, and in
ascending position within each step, is the model's choice (log entry 40). -/
def releaseThose (ps : List Pos) (s : State) : State :=
  ps.foldl (fun s p => releaseSent p s) (ps.foldl (fun s p => withdrawQueued p s) s)

/-- Every record is released as surplus (R39, R55, R56). -/
def releaseAll (s : State) : State := releaseThose positions s

/-! ### Stop (R39) -/

/-- The hunt leaves BACKOFF if it is there: the timer stops and CAL is told 0 (R61). -/
def leaveBackoff (s : State) : State :=
  if s.hnt.backoff.isSome then post (.calBackoff 0) (s.withHnt { s.hnt with backoff := none }) else s

/-- The wake wait, gather and backoff timers are stopped. -/
def stopHuntTimers (s : State) : State :=
  let s := leaveBackoff s
  s.withHnt { s.hnt with wakeWait := none, gather := none }

/-- HNT takes a stop (R39, R40). -/
def hntStop (s : State) : State :=
  if s.hnt.state = .idle then s
  else
    let s := stopHuntTimers (releaseAll s)
    let s := s.withHnt { s.hnt with set := [], state := .idle }
    if noRecord s then attemptsClear s else s

/-! ### The round's end (R44, R61, R63) -/

/-- A round has ended: it is counted, and an EMERGENCY hunt enters BACKOFF, a TEST hunt reports NO_CARRIER and stops. -/
def endRound (s : State) : State :=
  let s := s.withHnt { s.hnt with rounds := min (s.hnt.rounds + 1) 255 }
  let s := post (.calRounds s.hnt.rounds) s
  match s.hnt.kind with
  | .test => hntStop (post .calNoCarrier s)
  | .emergency =>
    let s := touchAll [20, 22] s
    let pause := backoffPause s.pln.plan s.hnt.rounds
    post (.calBackoff pause)
      (s.withHnt { s.hnt with state := .backoff, backoff := some (longTimer (1000 * pause)) })

/-- The round-end check of R44. -/
def roundEndCheck (s : State) : State :=
  if s.hnt.state = .round ∧ s.hnt.wakeWait = none ∧ s.hnt.set = [] ∧ inFlightCount s = 0 then endRound s else s

/-! ### Launches (R45 to R47) -/

/-- How many modules are ACTIVE and IN_SERVICE. -/
def usableCount (s : State) : Nat := (positions.filter (fun p => usable (s.module p))).length

/-- The effective concurrency (R45). -/
def effectiveConcurrency (s : State) : Nat := min s.pln.plan.hunt.concurrency (usableCount s)

/-- The first key in set order whose position is free (R46). -/
def firstFree (s : State) : Option Key := s.hnt.set.find? (fun k => freeForLaunch s k.pos)

/-- Whether a launch waits for nothing but the concurrency (R45). -/
def launchOpen (s : State) : Bool :=
  s.hnt.state == .round && s.hnt.wakeWait.isNone && s.hnt.stagger.isNone && (firstFree s).isSome

/-- The dial characters of a form; CATEGORY has none (R47). -/
def dialOf : DialForm → List Byte
  | .category => []
  | .digits chars => chars

/-- The form index a launch uses and the dial characters it carries (R42, R47, R63). -/
def launchDial (plan : Plan) (kind : CallKind) (round : Nat) : Nat × List Byte :=
  match kind with
  | .test => (0, plan.lists.testDial.getD [])
  | .emergency =>
    let i := round % max plan.lists.dialForms.length 1
    (i, dialOf (plan.lists.dialForms.getD i .category))

/-- The plan fields that a launch reads for its dial string (R171). -/
def dialFields : CallKind → List Nat
  | .test => [4]
  | .emergency => [2, 3]

/-- A launch sets the launch stagger timer, and reads the stagger then (R32, R46); the read may replace the plan (R181). -/
def setLaunchStagger (s : State) : State :=
  let s := touch 17 s
  s.withHnt { s.hnt with stagger := timerOf s.pln.plan.hunt.stagger }

/-- A launch of a marked key, in the order of R46: the record, its ORIGINATE (R47) and then the stagger. A refused
ORIGINATE ends the record LINK_LOST (R51). -/
def createAttempt (k : Key) (s : State) : State :=
  let dial := launchDial s.pln.plan s.hnt.kind s.hnt.form
  let counter := min (s.hnt.counter + 1) 65535
  let a : Attempt :=
    { number := counter, key := k, form := dial.1, state := .queued, timer := none, outcome := .none,
      releaseOnReply := false, strayOnEnd := false, request := none }
  let s := putRecord k.pos a (s.withHnt { s.hnt with counter := counter })
  match enqueue .attempt k.pos .originate (originatePayload (s.hnt.kind == .emergency) k dial.2) s with
  | (.queued n, s) => setLaunchStagger (s.withRecord k.pos (some { a with request := some n }))
  | (_, s) => endRecord k.pos a .linkLost (setLaunchStagger s)

/-- Whether a TEST hunt finds no test dial string in the working plan (R63). -/
def noTestDial (s : State) : Bool := s.hnt.kind == .test && s.pln.plan.lists.testDial.isNone

/-- The set is emptied in place of a launch (R63). -/
def emptySet (s : State) : State := s.withHnt { s.hnt with set := [] }

/-- An eligible key is launched: the dial string is read, which may replace the plan (R181); a TEST hunt that then finds
no test dial string empties its set; otherwise CTU marks the entry. The flag says that the launch is over, false that
CTU held no entry to mark (R46, R63). That the dial string is read before the launch mark is the model's choice (log
entry 17); the stagger is read after the ORIGINATE is queued (`createAttempt`). -/
def launchKey (k : Key) (s : State) : Bool × State :=
  let s := touchAll (dialFields s.hnt.kind) s
  if noTestDial s then (true, emptySet s)
  else
    match ctuMark k s with
    | (true, s) => (true, createAttempt k s)
    | (false, s) => (false, s)

/-- Take keys until one is launched or none is free (R46). -/
def launchNext : Nat → State → State
  | 0, s => s
  | fuel + 1, s =>
    match firstFree s with
    | none => s
    | some k =>
      let s := touchAll eligibleFields (s.withHnt { s.hnt with set := s.hnt.set.erase k })
      if eligibleKey s.mlc.modules s.pln.plan s.ctu.table k then
        match launchKey k s with
        | (true, s) => s
        | (false, s) => launchNext fuel s
      else launchNext fuel s

/-- One launch; a TEST hunt that finds no test dial string empties its set instead (R63). -/
def launchOne (s : State) : State :=
  let s := if s.hnt.kind = .test then touch 4 s else s
  if noTestDial s then emptySet s
  else launchNext (s.hnt.set.length + 1) s

/-- HNT launches while the conditions of R45 hold. -/
def launchLoop : Nat → State → State
  | 0, s => s
  | fuel + 1, s =>
    if launchOpen s then
      let s := touch 13 s
      if inFlightCount s < effectiveConcurrency s then launchLoop fuel (launchOne s) else s
    else s

/-- The launch check of R45. -/
def launchCheck (s : State) : State := launchLoop (s.hnt.set.length + 1) s

/-- The checks of R45 and R44, in the order of R54, step 4. -/
def huntChecks (s : State) : State := roundEndCheck (launchCheck s)

/-- The checks after events that may have ended records: `idle` says that the hunt was IDLE before them (R54, steps 4
and 5). -/
def recordChecks (before : State) (s : State) : State :=
  if s.hnt.state = .idle then
    if noRecord s && !noRecord before then attemptsClear s else s
  else huntChecks s

/-! ### Rounds (R41 to R43) -/

/-- The fill of a round: the eligible keys in rank order, up to the per-round limit (R41, steps 3 to 5). -/
def fillSet (s : State) : State :=
  let s := touchAll (12 :: eligibleFields) s
  let keys := (keysWhere (eligible s.mlc.modules s.pln.plan) s.ctu.table).take s.pln.plan.hunt.perRound
  s.withHnt { s.hnt with set := keys, lastKeys := keys }

/-- Whether a position is a gather module (R43). -/
def gatherModule (s : State) (p : Pos) : Bool := usable (s.module p) && freeForLaunch s p

/-- A round whose fill is empty gathers, or ends when there is nothing to gather with (R43). -/
def gatherOrEnd (s : State) : State :=
  let list : PerPos Bool := ⟨gatherModule s 0, gatherModule s 1, gatherModule s 2⟩
  if list = PerPos.all false then roundEndCheck s
  else (wchGather list s).withHnt { s.hnt with state := .gather, gather := some Config.gatherTime }

/-- A round starts (R41). -/
def startRound (s : State) : State :=
  let s := touch 2 s
  let s := s.withHnt
    { s.hnt with state := .round, form := s.hnt.rounds % max s.pln.plan.lists.dialForms.length 1 }
  let s := fillSet s
  let s := post (.calRounds s.hnt.rounds) s
  if s.hnt.set = [] then gatherOrEnd s else huntChecks s

/-- A gather ends: the set is filled again, with no second gather (R43). -/
def gatherEnded (s : State) : State :=
  huntChecks (fillSet (s.withHnt { s.hnt with state := .round, gather := none }))

/-! ### Starts (R36 to R38) -/

/-- Whether an ACTIVE module has a wake in progress (R37). -/
def wakeInProgress (s : State) : Bool :=
  positions.any (fun p => (s.module p).role == .active && (s.watch p).waking)

/-- CAL starts a fresh hunt (R36, R37). -/
def hntFresh (kind : CallKind) (s : State) : State :=
  let s := hntStop s
  let s := s.withHnt
    { s.hnt with kind := kind, rounds := 0, counter := 0, form := 0, set := [], lastKeys := [], state := .round }
  let s := post .calHuntStarted s
  if usableCount s = 0 ∧ wakeInProgress s then s.withHnt { s.hnt with wakeWait := some Config.wakeWait }
  else startRound s

/-- CAL starts a re-establishment hunt (R38). -/
def hntReestablish (s : State) : State :=
  let s := if s.hnt.state = .won ∨ s.hnt.state = .idle then s else releaseAll s
  let s := stopHuntTimers s
  startRound (s.withHnt { s.hnt with rounds := 0, set := [], lastKeys := [] })

/-- Round 1 starts at the end of a wake wait (R37). -/
def endWakeWait (s : State) : State :=
  if s.hnt.wakeWait.isSome then startRound (s.withHnt { s.hnt with wakeWait := none }) else s

/-! ### The winner (R55) and an incoming winner (R60) -/

/-- The hunt becomes WON: the set is emptied and the hunt's timers stopped. -/
def becomeWon (s : State) : State :=
  let s := stopHuntTimers s
  s.withHnt { s.hnt with state := .won, set := [] }

/-- A record goes through ANSWERED: its timer stops, and CAL is shown the change (R48, R55, R58). -/
def passAnswered (p : Pos) (a : Attempt) (o : Outcome) (s : State) : State :=
  putRecord p { a with state := .answered, timer := none, outcome := o } s

/-- An attempt is answered first (R55): the record goes through ANSWERED with outcome CONNECTED. -/
def winAttempt (p : Pos) (a : Attempt) (s : State) : State :=
  let s := ctuOutcome .connected a.key (passAnswered p a .connected s)
  releaseAll (becomeWon ((post (.calWinner a.key) s).withRecord p none))

/-- The record of a position that an incoming call has taken ends SURPLUS, with no RELEASE sent (R60, step 5). -/
def endForIncoming (p : Pos) (s : State) : State :=
  match s.record p with
  | none => s
  | some a => dropRecord p a .surplus (withdrawIf .attempt a.request s)

/-- CAL reports that an incoming call on `p` has won (R60): the records of the other positions are released before that
of `p` ends. -/
def hntIncomingWon (p : Pos) (s : State) : State :=
  match s.hnt.state with
  | .idle => s
  | .won => endForIncoming p s
  | _ => endForIncoming p (releaseThose (positions.filter (fun q => q != p)) (becomeWon s))

/-! ### Module events (R50) -/

/-- An answer taken in WON makes the attempt surplus (R58). -/
def answerSurplus (p : Pos) (a : Attempt) (s : State) : State :=
  beginRelease p { a with state := .answered, timer := none } .surplus (passAnswered p a a.outcome s)

/-- A CALL_ANSWERED at a record (R50, R55, R58). -/
def takeAnswer (p : Pos) (a : Attempt) (s : State) : State :=
  match a.state with
  | .queued => recordChecks s (releaseSurplus p (s.withRecord p (some { a with strayOnEnd := true })))
  | .releasing => s
  | _ => if s.hnt.state = .won then recordChecks s (answerSurplus p a s) else winAttempt p a s

/-- The outcome that the cause of a CALL_ENDED gives (R50). -/
def endedOutcome : EndCause → Outcome
  | .refusedNetwork => .refused
  | .numberRejected => .refused
  | .normal => .timeout
  | .noService => .timeout
  | .radioLost => .timeout
  | .other => .timeout

/-- A record ends by its module's report (R50, R54). -/
def endByEvent (p : Pos) (a : Attempt) (o : Outcome) (s : State) : State :=
  if connecting a.state then recordChecks s (endRecord p a o s) else s

/-- HNT applies a module event to the record of its position (the table of R50). -/
def applyEvent (p : Pos) (a : Attempt) (e : ModuleEvent) (s : State) : State :=
  match e with
  | .proceeding => if a.state = .sent then putRecord p { a with state := .proceeding } s else s
  | .alerting =>
    if a.state = .sent ∨ a.state = .proceeding then
      let s := touch 19 s
      putRecord p { a with state := .alerting, timer := some (1000 * s.pln.plan.hunt.answerTimeout) } s
    else s
  | .answered => takeAnswer p a s
  | .ended cause => endByEvent p a (endedOutcome cause) s
  | .serviceLost => endByEvent p a .timeout s
  | _ => s

/-- A stray answer (R59): a RELEASE is queued and the position marked; where it is refused, the mark is cleared again and
the launches are checked. -/
def takeStrayAnswer (p : Pos) (s : State) : State :=
  let s := strayRelease p s
  if (s.hnt.stray.get p).isNone then huntChecks s else s

/-- HNT takes a module event (R50, R59). -/
def hntTakeEvent (p : Pos) (e : ModuleEvent) (s : State) : State :=
  match s.record p with
  | some a => applyEvent p a e s
  | none =>
    if e = .answered ∧ servingPos s.cal.ctx.serving ≠ some p ∧ (s.hnt.stray.get p).isNone then takeStrayAnswer p s
    else s

/-! ### Link results (R51, R59) -/

/-- The result of an ORIGINATE (R51). -/
def originateResult (p : Pos) (a : Attempt) (r : LinkResult) (s : State) : State :=
  match r with
  | .ok =>
    if a.releaseOnReply then beginRelease p { a with request := none } .surplus s
    else
      let s := touch 18 s
      putRecord p
        { a with state := .sent, request := none, timer := some (1000 * s.pln.plan.hunt.setupTimeout) } s
  | .nak _ => endRecord p a (if a.releaseOnReply then .surplus else .refused) s
  | _ => endRecord p a .linkLost s

/-- HNT takes the result of an attempt's request; one that finds no record waiting for it is ignored (R51, R52). -/
def hntTakeResult (p : Pos) (number : Nat) (kind : ReqKind) (r : LinkResult) (s : State) : State :=
  match s.record p with
  | none => s
  | some a =>
    if a.request = some number then
      recordChecks s
        (if kind = .originate then originateResult p a r s else endRecord p a a.outcome s)
    else s

/-- HNT takes any result of a stray RELEASE (R59). -/
def hntTakeStray (p : Pos) (number : Nat) (s : State) : State :=
  if s.hnt.stray.get p = some number then
    huntChecks (s.withHnt { s.hnt with stray := s.hnt.stray.set p none })
  else s

/-! ### Reports -/

/-- The record and the stray mark of a position whose module has left IN_SERVICE (R52). A record in QUEUED that took an
answer makes no stray release when it ends so: the mark is cleared in the same event, the model's choice (log entry
47). -/
def departed (p : Pos) (s : State) : State :=
  let s :=
    match s.record p with
    | none => s
    | some a =>
      dropRecord p a (if a.state = .releasing then a.outcome else .linkLost) (withdrawIf .attempt a.request s)
  let s := withdrawIf .stray (s.hnt.stray.get p) s
  s.withHnt { s.hnt with stray := s.hnt.stray.set p none }

/-- HNT takes a module's change of state (R37, R45, R52). -/
def hntTakeModule (p : Pos) (old new : ModState) (s : State) : State :=
  let t := if old = .inService ∧ new ≠ .inService then departed p s else s
  let t := if new = .inService ∧ (s.module p).role = .active then endWakeWait t else t
  recordChecks s t

/-- HNT takes a module's change of role (R45). -/
def hntTakeRole (s : State) : State := huntChecks s

/-- The in-flight record with the highest attempt number among some positions (R64). Of two with the same number, as can
stand once the attempt counter has saturated, the lower position is taken: the model's choice (log entry 31). -/
def newestInFlight (s : State) (ps : List Pos) : Option Pos :=
  ps.foldl
    (fun best p =>
      match s.record p with
      | none => best
      | some a =>
        if inFlight a then
          match best with
          | none => some p
          | some q => if ((s.record q).map (·.number)).getD 0 < a.number then some p else best
        else best)
    none

/-- Whether more attempts are in flight than the working plan's concurrency (R64). -/
def tooManyInFlight (s : State) : Bool := decide (s.pln.plan.hunt.concurrency < inFlightCount s)

/-- Release in-flight records as surplus, the highest attempt number first, until no more are in flight than the
concurrency (R64). A record whose withdrawal comes too late stays in flight, and the next one is taken. The fuel is the
number of positions. -/
def releaseExcess : Nat → List Pos → State → State
  | 0, _, s => s
  | n + 1, ps, s =>
    if tooManyInFlight s then
      match newestInFlight s ps with
      | none => s
      | some p => releaseExcess n (ps.erase p) (releaseSurplus p s)
    else s

/-- HNT takes a replacement of the working plan (R64). -/
def hntTakePlan (s : State) : State :=
  if tooManyInFlight s then recordChecks s (releaseExcess positions.length positions s) else s

/-- HNT takes newly eligible keys (R43, R62). -/
def hntTakeKeys (keys : List Key) (s : State) : State :=
  match s.hnt.state with
  | .gather => gatherEnded s
  | .backoff =>
    if keys.any (fun k => !s.hnt.lastKeys.contains k) then startRound (leaveBackoff s) else s
  | _ => s

/-- HNT takes the gather's end from WCH (R43). -/
def hntTakeGatherEnd (s : State) : State := if s.hnt.state = .gather then gatherEnded s else s

/-! ### Timers -/

/-- The gather timer expires (R43). -/
def hntGatherExpiry (s : State) : State := if s.hnt.gather.isSome ∧ s.hnt.state = .gather then gatherEnded s else s

/-- The backoff timer expires (R61). -/
def hntBackoffExpiry (s : State) : State :=
  if s.hnt.backoff.isSome ∧ s.hnt.state = .backoff then startRound (leaveBackoff s) else s

/-- The launch stagger timer expires (R32). -/
def hntStaggerExpiry (s : State) : State :=
  if s.hnt.stagger.isSome then huntChecks (s.withHnt { s.hnt with stagger := none }) else s

/-- The timer of an attempt record expires (R49). -/
def hntAttemptExpiry (p : Pos) (s : State) : State :=
  match s.record p with
  | none => s
  | some a => if a.timer.isSome ∧ connecting a.state then recordChecks s (beginRelease p a .timeout s) else s

/-- HNT's report of the backoff remaining at an advance of the seconds clock (R61). -/
def hntSecond (s : State) : State :=
  match s.hnt.backoff with
  | none => s
  | some t =>
    let t := tickTimer t
    post (.calBackoff (secondsLeft t)) (s.withHnt { s.hnt with backoff := some t })

end Sys2Proof.Machine
end

