-- ==== Sys2Proof/Machine/Call.lean ====
section
/-! DEFINITION. The call controller (04_call_context.md) and the state check of the call context (R200, R201). -/

namespace Sys2Proof.Machine

/-! ### The context -/

/-- Replace the call context. -/
def State.withCtx (s : State) (x : Context) : State := s.withCal { s.cal with ctx := x }

/-- Change the call context's flags. -/
def setFlags (f : CallFlags → CallFlags) (s : State) : State :=
  s.withCtx { s.cal.ctx with flags := f s.cal.ctx.flags }

/-- The state codes of the call file (R91). -/
def callCode : CallState → Nat
  | .idle => 0
  | .hunting => 1
  | .locating => 2
  | .talk => 3
  | .reestablishing => 4
  | .clearing => 5
  | .callbackWait => 6

/-- The flag word in which one state alone is set (R200); bit k is the state of code k (log entry 11). -/
def stateFlags (x : CallState) : BitVec 7 := 1#7 <<< callCode x

/-- The context with the fields blanked whose change alone raises no CALL_STATE (R89). -/
def stateFields (x : Context) : Context :=
  { x with
    attempts := 0, rounds := 0, backoff := 0, callback := 0, summaries := PerPos.all none, huntLink := .none,
    answer := none, releases := PerPos.all false }

/-- CAL publishes the call file at the end of an event that changed the context (R89, R90). The seven flags are part of
the context (R200), so a recovery publishes even when it leaves every field as it was. That a change of the hunt link, of
the answer in progress or of the pending releases alone is a change of the context too, as the call file shows them
(R91), is the model's choice (log entry 43); so is that the context at the event's end is compared with the one before
it (log entry 64). -/
def publishCall (before : Cal) (s : State) : State :=
  if s.cal.ctx = before.ctx ∧ s.cal.held7 = before.held7 then s
  else
    let s := s.withCal { s.cal with fileGen := s.cal.fileGen + 2 }
    if stateFields s.cal.ctx = stateFields before.ctx then s else raise .callState s

/-! ### Requests to the neighbours (R87) -/

/-- CAL withdraws the tone it had requested at a change of state (R87); the ring follows R81. -/
def withdrawTones (s : State) : State := vswTone .chime false (vswTone .reassure false s)

/-- The requests to VSW for a state entered (the table of R87). -/
def stateAudio (x : CallState) (s : State) : State :=
  let s := withdrawTones s
  let link := fun s : State =>
    match servingPos s.cal.ctx.serving with
    | some p => vswLink p s
    | none => s
  match x with
  | .hunting => vswMutes false (vswTone .reassure true (vswUnlink s))
  | .reestablishing => vswMutes false (vswTone .reassure true (vswUnlink s))
  | .locating => vswMutes true (link s)
  | .talk => vswMutes false (vswTone .chime true (link s))
  | .clearing => vswMutes false (vswUnlink s)
  | .callbackWait => vswMutes false (vswUnlink s)
  | .idle => vswMutes false (vswUnlink s)

/-- CAL writes the call's state: the field and the seven flags (R200). -/
def writeState (x : CallState) (s : State) : State :=
  s.withCal { s.cal with ctx := { s.cal.ctx with state := x }, held7 := stateFlags x }

/-- BSU, MLC and WCH are told the call's state (R87). -/
def tellState (s : State) : State := wchCallState (mlcCallState (bsuCallState s))

/-- CAL changes the call's state: the seven flags are written, VSW is asked for what the state needs, and BSU, MLC and
WCH are told (R87, R200). -/
def enter (x : CallState) (s : State) : State := tellState (stateAudio x (writeState x s))

/-! ### Connections let go -/

/-- CAL queues a RELEASE: the position is in the pending releases until its result, and a refusal is a result (R79). -/
def calRelease (p : Pos) (s : State) : State :=
  match enqueue .calRelease p .release [] s with
  | (.queued _, s) => s.withCtx { s.cal.ctx with releases := s.cal.ctx.releases.set p true }
  | (_, s) => s.withCtx { s.cal.ctx with releases := s.cal.ctx.releases.set p false }

/-- A connection is let go with a RELEASE; for origin HUNT, CTU takes a connection release (R70, R83, R11). -/
def letGo (x : Serving) (s : State) : State :=
  match x with
  | .hunted k => ctuConnectionRelease k (calRelease k.pos s)
  | .incoming p => calRelease p s

/-- The serving connection is let go with a RELEASE (R83, step 2). -/
def letServingGo (s : State) : State :=
  match s.cal.ctx.serving with
  | none => s
  | some x =>
    let s := letGo x s
    s.withCtx { s.cal.ctx with serving := none }

/-- The hook mask ends with no look at ABANDON_PENDING (R73). -/
def stopMask (s : State) : State :=
  setFlags (fun f => { f with masked := false }) (s.withCal { s.cal with mask := none })

/-- A PENDING message becomes UNDELIVERED, with MESSAGE_UNDELIVERED raised (R78, R83, R84). -/
def pendingUndelivered (s : State) : State :=
  if s.cal.ctx.message = .pending then
    raise .messageUndelivered (s.withCtx { s.cal.ctx with message := .undelivered })
  else s

/-- While the hunt link is ACTIVE, CAL stops the hunt, and the link becomes STOPPING (R78, R83). -/
def stopHunt (s : State) : State :=
  if s.cal.ctx.huntLink = .active then
    let s := s.withCtx { s.cal.ctx with huntLink := .stopping }
    hntStop s
  else s

/-! ### Clearing (R83) -/

/-- A call enters CLEARING with a last end cause and a destination; true is CALLBACK_WAIT (R83). A CLEAR that was
deferred joins the clearing (log entry 23). -/
def enterClearing (cause : LastEnd) (toCallback : Bool) (s : State) : State :=
  let s := if s.cal.ctx.state = .locating then pendingUndelivered (lmuStop s) else s
  let s := stopHunt (letServingGo (stopMask s))
  let joins := s.cal.ctx.flags.clearDeferred
  let s := s.withCal
    { s.cal with
      destination := toCallback && !joins,
      ctx := { s.cal.ctx with lastEnd := cause, flags := { s.cal.ctx.flags with clearDeferred := false } } }
  enter .clearing s

/-- The callback timer is stopped; callback remaining stays as it last stood (R86, R200, log entry 24). -/
def stopCallbackTimer (s : State) : State := s.withCal { s.cal with callbackTimer := none }

/-- A CLEAR acts (R86): CLEARING with HOST_CLEARED and destination IDLE. -/
def clearActs (s : State) : State := enterClearing .hostCleared false (stopCallbackTimer s)

/-- The call enters IDLE: start time, connect time and serving become absent (R83, R85). -/
def enterIdle (s : State) : State :=
  enter .idle (s.withCtx { s.cal.ctx with start := none, connect := none, serving := none })

/-- The callback window is over (R85). -/
def windowExpired (s : State) : State :=
  enterIdle
    (s.withCal
      { s.cal with callbackTimer := none, ctx := { s.cal.ctx with callback := 0, lastEnd := .windowExpired } })

/-- A window of 0 goes on to IDLE as at an expiry, unless an answer is in progress (R85). -/
def endEmptyWindow (s : State) : State :=
  if s.cal.ctx.state = .callbackWait ∧ s.cal.callbackTimer = none ∧ s.cal.ctx.answer = none then windowExpired s
  else s

/-- What an entered CALLBACK_WAIT leaves at once: a CLEAR that was deferred acts (R86), before a window of 0 ends. -/
def afterCallbackWait (s : State) : State :=
  if s.cal.ctx.flags.clearDeferred then clearActs s else endEmptyWindow s

/-- The call enters CALLBACK_WAIT (R85). With a window of 0 it goes on to IDLE here, and a CLEAR that is held but not
deferred, as a recovery can leave one (R201), completes there: the model's choice (log entry 63). -/
def enterCallbackWait (s : State) : State :=
  let s := touch 26 s
  let window := s.pln.plan.call.callbackWindow
  let s := s.withCal
    { s.cal with
      callbackTimer := if window = 0 then none else some (longTimer (1000 * window)),
      ctx := { s.cal.ctx with callback := window } }
  afterCallbackWait (enter .callbackWait (raise .callFinished s))

/-! ### Starting a call (R67) -/

/-- Steps 2 to 6 of R67: the context of a new call. -/
def openCall (kind : CallKind) (s : State) : State :=
  let n := s.cal.counter + 1
  s.withCal
    { s.cal with
      counter := n,
      ctx :=
        { s.cal.ctx with
          sequence := n, kind := kind, start := some s.clock, connect := none, serving := none,
          message := .pending, flags := ⟨false, false, false, false, false, false⟩,
          reestablishes := 0, attempts := 0, rounds := 0, backoff := 0, presses := 0, lastEnd := .none,
          summaries := PerPos.all none } }

/-- The callback timer is stopped and callback remaining becomes 0 (R67, R82). -/
def stopCallback (s : State) : State :=
  s.withCal { s.cal with callbackTimer := none, ctx := { s.cal.ctx with callback := 0 } }

/-- A new call starts (R67). -/
def startCall (kind : CallKind) (s : State) : State :=
  let s := if s.cal.ctx.state = .callbackWait then stopCallback s else s
  let s := hntFresh kind (wchCallStart (openCall kind s))
  let s := s.withCtx { s.cal.ctx with huntLink := .active }
  raise .callStarted (enter .hunting s)

/-! ### The press and the held orders -/

/-- A held PLACE is completed and forgotten. -/
def completePlace (o : OrderOutcome) (s : State) : State :=
  (completeIfHeld s.cal.place o (BitVec.ofNat 16 s.cal.ctx.attempts) s).withCal { s.cal with place := none }

/-- A held CLEAR is completed CLEARED and forgotten (R86). -/
def completeClear (s : State) : State :=
  (completeIfHeld s.cal.clear .cleared s.cal.ctx.sequence s).withCal { s.cal with clear := none }

/-- A TEST call is converted (R69). -/
def convert (s : State) : State :=
  let s := enterClearing .converted false (completePlace .superseded s)
  setFlags (fun f => { f with pressHeld := true }) s

/-- A repeat press (R69). -/
def repeatPress (s : State) : State := s.withCtx { s.cal.ctx with presses := min (s.cal.ctx.presses + 1) 255 }

/-- What a CALL press does when the state flags are sound (the table of R69). -/
def pressEffect (s : State) : State :=
  match s.cal.ctx.state with
  | .idle => startCall .emergency s
  | .callbackWait => startCall .emergency s
  | .clearing => setFlags (fun f => { f with pressHeld := true }) s
  | _ => if s.cal.ctx.kind = .test then convert s else repeatPress s

/-- A set PRESS_HELD is cleared and taken as a CALL press (R83, R201). -/
def takeHeldPress (s : State) : State :=
  if s.cal.ctx.flags.pressHeld then pressEffect (setFlags (fun f => { f with pressHeld := false }) s) else s

/-! ### The state check (R200, R201) -/

/-- Whether the seven flags set exactly one (R200). -/
def flagsSound (s : State) : Bool := flagsSet s.cal.held7 == 1

/-- A hunt is asked for again: the re-establish count, REESTABLISHED, and the start of the hunt, after which the hunt link
is ACTIVE (R77, steps 4 and 5; R200, step 4). -/
def huntAgain (s : State) : State :=
  let s := s.withCtx
    { s.cal.ctx with
      reestablishes := min (s.cal.ctx.reestablishes + 1) 255,
      flags := { s.cal.ctx.flags with reestablished := true } }
  let s := if s.cal.ctx.huntLink = .active then hntReestablish s else hntFresh s.cal.ctx.kind s
  s.withCtx { s.cal.ctx with huntLink := .active }

/-- The held orders and press of a recovered call, by the state the recovery reached (R201). That is IDLE where a callback
window of 0 has ended at once, also with a CLEAR held: the model's choice (log entry 63). -/
def recoverOrders (s : State) : State :=
  let s :=
    match s.cal.ctx.state with
    | .idle => setFlags (fun f => { f with clearDeferred := false }) (completeClear (completePlace .cleared s))
    | .callbackWait =>
      let s := completePlace .cleared s
      if s.cal.clear.isSome then clearActs s else s
    | .reestablishing => if s.cal.clear.isSome then clearActs s else s
    | _ => s
  takeHeldPress s

/-- FLT reports a failed state check, with the flags as read (R200, step 1). -/
def stateCheckFails (s : State) : State :=
  raise .internalFault (reportFault .stateCheck none s.cal.held7.toNat none s)

/-- The state that a recovery derives from the other fields (R200, step 4). -/
def derivedState (ctx : Context) : CallState :=
  if ctx.start.isSome then (if ctx.message = .delivered then .callbackWait else .reestablishing) else .idle

/-- The recovery writes its state, and the check is made on that entry too: a second mismatch is reported, and the state
written as IDLE without a further check (R200). -/
def writeDerived (s : State) : State :=
  let s := writeState (derivedState s.cal.ctx) s
  if flagsSound s then s else writeState .idle (stateCheckFails s)

/-- What the state that a recovery has written brings with it (R200, steps 4 and 5). R77's clearing of an abandoned call
on entry to REESTABLISHING is made after a loss alone, not here: the model's choice (log entry 71). -/
def enterDerived (s : State) : State :=
  match s.cal.ctx.state with
  | .reestablishing => enter .reestablishing (huntAgain s)
  | .callbackWait => enterCallbackWait (stopHunt s)
  | _ => enterIdle (stopHunt s)

/-- The recovery of R200; `handed` is a connection that the event handed over. -/
def recover (handed : Option Serving) (s : State) : State :=
  let s := stateCheckFails s
  let s := if s.cal.ctx.state = .locating then lmuStop s else s
  let s := letServingGo s
  let s :=
    match handed with
    | some x => letGo x s
    | none => s
  let s := vswMutes false (stopCallbackTimer (stopMask s))
  let s := s.withCtx { s.cal.ctx with lastEnd := .stateCheck }
  raise .callState (recoverOrders (enterDerived (writeDerived s)))

/-- An event that changes the call's state: the check is made before anything is done, and a failed check puts the
recovery in the event's place (R200, log entry 12). -/
def transition (handed : Option Serving) (f : State → State) (s : State) : State :=
  if flagsSound s then f s else recover handed s

/-! ### The end of a clearing (R83) -/

/-- Whether a clearing is over. -/
def clearingOver (s : State) : Bool :=
  s.cal.ctx.state == .clearing && s.cal.ctx.releases == PerPos.all false && s.cal.ctx.huntLink == .none
    && s.cal.ctx.answer.isNone

/-- The orders that a clearing completes at its end (R68, R83, R84, R86); `cause` is the last end cause of the
clearing (log entry 22). -/
def clearingOrders (cause : LastEnd) (s : State) : State :=
  let s :=
    if cause = .noCarrier then completePlace .noCarrier s
    else if s.cal.clear.isSome ∨ cause = .hostCleared then completePlace .cleared s
    else s
  completeClear s

/-- A clearing ends (R83). -/
def finishClearing (s : State) : State :=
  let cause := s.cal.ctx.lastEnd
  let s := if s.cal.destination then enterCallbackWait s else raise .callFinished (enterIdle s)
  takeHeldPress (clearingOrders cause s)

/-- The check at the end of each event taken in CLEARING (R83). -/
def clearingCheck : Nat → State → State
  | 0, s => s
  | fuel + 1, s => if clearingOver s then clearingCheck fuel (transition none finishClearing s) else s

/-- One event of CAL: its effect, the end of a clearing, the publication of the call file (R83, R90). -/
def calEvent (f : State → State) (s : State) : State := publishCall s.cal (clearingCheck 3 (f s))

/-! ### Connecting (R70 to R73) -/

/-- SILENT as it is read at a connection (R71). -/
def silentNow (s : State) : Bool := s.straps.hook && s.bsu.hook.level

/-- The serving field, the connect time and SILENT at a connection (R70, R71, R82). -/
def connectTo (x : Serving) (s : State) : State :=
  s.withCtx
    { s.cal.ctx with
      serving := some x, connect := some s.clock, flags := { s.cal.ctx.flags with silent := silentNow s } }

/-- Steps 4 to 6 of R70. -/
def enterLocating (p : Pos) (s : State) : State :=
  let s := enter .locating (s.withCtx { s.cal.ctx with message := .pending })
  raise .callConnected (completePlace .connected (lmuStart p s))

/-- A position's attempt summary is made absent (R70, R88). -/
def clearSummary (p : Pos) (s : State) : State :=
  s.withCtx { s.cal.ctx with summaries := s.cal.ctx.summaries.set p none }

/-- CAL takes a winner from HNT (R70). Its summary is made absent whatever the state (log entry 25). -/
def takeWinner (k : Key) (s : State) : State :=
  let s := clearSummary k.pos s
  if s.cal.ctx.state = .hunting ∨ s.cal.ctx.state = .reestablishing then
    transition (some (.hunted k)) (fun s => enterLocating k.pos (connectTo (.hunted k) s)) s
  else letGo (.hunted k) s

/-- A call clears as for a hook-on (R74). -/
def hangUp (s : State) : State := enterClearing .callerHungUp true s

/-- The call enters TALK from LOCATING, with the hook mask (R72, R73). -/
def talkFromLocating (s : State) : State :=
  let s := touch 29 (enter .talk s)
  let hold := s.pln.plan.call.holdAfter
  if hold = 0 then
    if s.cal.ctx.flags.abandonPending then hangUp (stopMask s) else stopMask s
  else
    setFlags (fun f => { f with masked := true }) (s.withCal { s.cal with mask := some (1000 * hold) })

/-- CAL takes LMU's conclusion (R72). -/
def takeConcluded (delivered : Bool) (s : State) : State :=
  if s.cal.ctx.state = .locating then
    transition none
      (fun s =>
        let s := s.withCtx { s.cal.ctx with message := if delivered then .delivered else .undelivered }
        if s.cal.ctx.flags.clearDeferred then clearActs s else talkFromLocating s)
      s
  else s

/-- CAL takes a filtered CALL press (R69). -/
def takePress (s : State) : State :=
  let changes : Bool :=
    match s.cal.ctx.state with
    | .idle => true
    | .callbackWait => true
    | .clearing => false
    | _ => s.cal.ctx.kind == .test
  if changes then transition none pressEffect s else pressEffect s

/-! ### Hook (R73 to R75) -/

/-- Whether a hook-on is masked (R74). -/
def hookMasked (ctx : Context) : Bool :=
  match ctx.state with
  | .hunting => true
  | .locating => true
  | .reestablishing => ctx.message == .pending
  | .talk => ctx.flags.masked
  | _ => false

/-- CAL takes a hook-on (the table of R74). -/
def takeHookOn (s : State) : State :=
  if hookMasked s.cal.ctx then setFlags (fun f => { f with abandonPending := true }) s
  else
    match s.cal.ctx.state with
    | .talk => transition none hangUp s
    | .reestablishing => transition none hangUp s
    | _ => s

/-- CAL takes a hook-off (R75). -/
def takeHookOff (s : State) : State := setFlags (fun f => { f with abandonPending := false }) s

/-- The hook mask expires (R73). -/
def takeMaskExpiry (s : State) : State :=
  if s.cal.mask.isSome then
    if s.cal.ctx.flags.abandonPending then transition none (fun s => hangUp (stopMask s)) s else stopMask s
  else s

/-! ### Losing the connection (R76 to R79) -/

/-- Whether a position is the serving one of a call in LOCATING or TALK (R76). -/
def servesAt (s : State) (p : Pos) : Bool :=
  (s.cal.ctx.state == .locating || s.cal.ctx.state == .talk) && servingPos s.cal.ctx.serving == some p

/-- LMU is stopped in LOCATING, the hook mask in TALK (R77, R78). -/
def leaveConnected (s : State) : State := if s.cal.ctx.state = .locating then lmuStop s else stopMask s

/-- What a REESTABLISHING entered by a loss leaves at once: a caller who hung up, or a CLEAR that waited (R77, R86). -/
def afterLoss (s : State) : State :=
  if s.cal.ctx.flags.abandonPending ∧ s.cal.ctx.message ≠ .pending then hangUp s
  else if s.cal.ctx.flags.clearDeferred then clearActs s
  else s

/-- A loss of the connection (R77), in the order of its steps, with what follows at once in REESTABLISHING (R77, R86). -/
def loseConnection (cause : LastEnd) (s : State) : State :=
  let s := stateAudio .reestablishing (leaveConnected s)
  let s :=
    match s.cal.ctx.serving with
    | some (.hunted k) => ctuDropped k s
    | _ => s
  afterLoss
    (tellState (writeState .reestablishing (huntAgain (s.withCtx { s.cal.ctx with serving := none, lastEnd := cause }))))

/-- The centre clears the call (R78). -/
def centreClears (s : State) : State :=
  let s := if s.cal.ctx.state = .locating then pendingUndelivered (lmuStop s) else stopMask s
  let s :=
    match s.cal.ctx.serving with
    | some (.hunted k) => ctuConnectionRelease k s
    | _ => s
  let s := stopHunt (s.withCtx { s.cal.ctx with serving := none })
  enterCallbackWait (s.withCtx { s.cal.ctx with lastEnd := .centreCleared })

/-- In CLEARING, a module's report ends a pending release (R79). -/
def endPendingRelease (p : Pos) (s : State) : State :=
  if s.cal.ctx.state = .clearing then s.withCtx { s.cal.ctx with releases := s.cal.ctx.releases.set p false } else s

/-- The last end cause of a loss by CALL_ENDED (the table of R76). -/
def lossCause : EndCause → LastEnd
  | .refusedNetwork => .networkRefused
  | .numberRejected => .networkRefused
  | .noService => .radioLost
  | .radioLost => .radioLost
  | .other => .networkOther
  | .normal => .centreCleared

/-- CAL takes a CALL_ENDED (R76, R78, R79). -/
def takeEnded (p : Pos) (cause : EndCause) (s : State) : State :=
  if servesAt s p then
    if cause = .normal then transition none centreClears s else transition none (loseConnection (lossCause cause)) s
  else endPendingRelease p s

/-- CAL takes a SERVICE_LOST (R76). -/
def takeServiceLost (p : Pos) (s : State) : State :=
  if servesAt s p then transition none (loseConnection .radioLost) s else s

/-- CAL takes a module's departure from IN_SERVICE (R76, R79). -/
def takeModuleLeft (p : Pos) (s : State) : State :=
  if servesAt s p then transition none (loseConnection .moduleLost) s else endPendingRelease p s

/-- CAL takes the result of a RELEASE that it queued (R79). -/
def takeReleaseResult (p : Pos) (s : State) : State :=
  s.withCtx { s.cal.ctx with releases := s.cal.ctx.releases.set p false }

/-! ### Incoming calls (R80 to R82) -/

/-- The answer in progress ends: the ring is withdrawn with it (R81, R82). -/
def endAnswer (s : State) : State := vswTone .callbackRing false (s.withCtx { s.cal.ctx with answer := none })

/-- An ANSWER that did not have REPLY_OK (R82, R85). -/
def answerFailed (s : State) : State :=
  let s := endAnswer s
  if s.cal.ctx.state = .callbackWait ∧ s.cal.callbackTimer = none then transition none windowExpired s else s

/-- CAL queues an ANSWER (R81). -/
def queueAnswer (p : Pos) (s : State) : State :=
  match enqueue .calAnswer p .answer [] s with
  | (.queued _, s) =>
    let s := s.withCtx { s.cal.ctx with answer := some p }
    if s.straps.hook = false ∧ (s.cal.ctx.state = .idle ∨ s.cal.ctx.state = .callbackWait) then
      vswTone .callbackRing true s
    else s
  | (_, s) => answerFailed s

/-- CAL queues a REJECT; its result has no effect (R81). -/
def queueReject (p : Pos) (s : State) : State := (enqueue .calReject p .reject [] s).2

/-- CAL takes an INCOMING (the table of R80). -/
def takeIncoming (p : Pos) (s : State) : State :=
  match s.cal.ctx.answer with
  | some q => if q = p then s else queueReject p s
  | none =>
    match s.cal.ctx.state with
    | .idle =>
      let s := touch 27 s
      if s.pln.plan.call.idleAnswer then queueAnswer p s else queueReject p s
    | .hunting => queueAnswer p s
    | .reestablishing => queueAnswer p s
    | .callbackWait => queueAnswer p s
    | .locating => queueReject p s
    | .talk => queueReject p s
    | .clearing => queueReject p s

/-- A call is connected by an incoming call without a hunt: TALK with no hook mask and no message (R82). -/
def talkOnIncoming (p : Pos) (s : State) : State :=
  let s := connectTo (.incoming p) s
  raise .callConnected (enter .talk (s.withCtx { s.cal.ctx with message := .notRequired }))

/-- The REPLY_OK of an ANSWER (the table of R82). -/
def answerConnects (p : Pos) (s : State) : State :=
  let handed := some (Serving.incoming p)
  let hunted := fun s : State => enterLocating p (connectTo (.incoming p) (hntIncomingWon p s))
  match s.cal.ctx.state with
  | .hunting => transition handed hunted s
  | .reestablishing => transition handed hunted s
  | .callbackWait => transition handed (fun s => talkOnIncoming p (stopCallback s)) s
  | .idle => transition handed (fun s => raise .callStarted (talkOnIncoming p (openCall .emergency s))) s
  | .locating => calRelease p s
  | .talk => calRelease p s
  | .clearing => calRelease p s

/-- CAL takes the result of the ANSWER in progress (R82). -/
def takeAnswerResult (p : Pos) (ok : Bool) (s : State) : State :=
  if s.cal.ctx.answer = some p then (if ok then answerConnects p (endAnswer s) else answerFailed s) else s

/-! ### Reports of the hunt (R84, R88) -/

/-- CAL takes NO_CARRIER (R84). -/
def takeNoCarrier (s : State) : State :=
  if s.cal.ctx.state = .hunting ∨ s.cal.ctx.state = .reestablishing then
    transition none
      (fun s => enterClearing .noCarrier false (pendingUndelivered (s.withCtx { s.cal.ctx with huntLink := .stopping })))
      s
  else s

/-- CAL takes a record's report (R88). -/
def takeRecord (p : Pos) (x : Summary) (s : State) : State :=
  s.withCtx
    { s.cal.ctx with
      summaries := s.cal.ctx.summaries.set p (some x), attempts := max s.cal.ctx.attempts x.number }

/-- CAL takes attempts clear (R88). -/
def takeAttemptsClear (s : State) : State :=
  if s.cal.ctx.huntLink = .stopping then s.withCtx { s.cal.ctx with huntLink := .none } else s

/-! ### The callback window (R85) -/

/-- The callback timer expires (R85). -/
def takeCallbackExpiry (s : State) : State :=
  if s.cal.callbackTimer.isSome ∧ s.cal.ctx.state = .callbackWait then
    if s.cal.ctx.answer = none then transition none windowExpired s else stopCallback s
  else s

/-- Callback remaining at an advance of the seconds clock (R85). -/
def takeCallbackSecond (s : State) : State :=
  match s.cal.callbackTimer with
  | none => s
  | some t =>
    let t := tickTimer t
    s.withCal { s.cal with callbackTimer := some t, ctx := { s.cal.ctx with callback := secondsLeft t } }

/-! ### Orders (R68, R86) -/

/-- CAL takes a PLACE order (R68). -/
def takePlace (held : Held) (kind : CallKind) (s : State) : State :=
  if s.cal.ctx.state = .idle ∨ s.cal.ctx.state = .callbackWait then
    let s := if kind = .test then touch 4 s else s
    if kind = .test ∧ s.pln.plan.lists.testDial = none then complete held .invalidPlan 0 s
    else transition none (startCall kind) (s.withCal { s.cal with place := some held })
  else complete held .busy s.cal.ctx.sequence s

/-- CAL takes a CLEAR order (the table of R86). -/
def takeClear (held : Held) (s : State) : State :=
  match s.cal.ctx.state with
  | .idle => complete held .nothingToClear s.cal.ctx.sequence s
  | .locating =>
    setFlags (fun f => { f with clearDeferred := true }) (s.withCal { s.cal with clear := some held })
  | .clearing => s.withCal { s.cal with clear := some held, destination := false }
  | _ => transition none clearActs (s.withCal { s.cal with clear := some held })

/-- CAL at a soft reset (R66): it forgets its orders, and a deferred CLEAR does not act. -/
def calSoftReset (s : State) : State :=
  setFlags (fun f => { f with clearDeferred := false }) (s.withCal { s.cal with place := none, clear := none })

end Sys2Proof.Machine
end

