-- ==== Sys2Proof/Machine/PlanUnit.lean ====
section
/-! DEFINITION. The working plan unit (10_working_plan_and_plan_store.md): reading, checking and clamping a plan image, LOAD
PLAN, the plan store, and the end of HOLDING. -/

namespace Sys2Proof.Machine

/-! ### Reading an image (R171) -/

/-- How many bytes of the plan area a copy reads (R173). -/
def imageLength : Nat := 287

/-- One byte of an image. -/
def at8 (raw : List Byte) (i : Nat) : Byte := raw.getD i 0

/-- The little-endian fields of an image. -/
def at16 (raw : List Byte) (i : Nat) : BitVec 16 := wordOf (at8 raw i) (at8 raw (i + 1))
def at24 (raw : List Byte) (i : Nat) : BitVec 24 := at8 raw (i + 2) ++ at8 raw (i + 1) ++ at8 raw i
def at32 (raw : List Byte) (i : Nat) : BitVec 32 :=
  at8 raw (i + 3) ++ at8 raw (i + 2) ++ at8 raw (i + 1) ++ at8 raw i

/-- A run of bytes of an image. -/
def atRun (raw : List Byte) (i n : Nat) : List Byte := (List.range n).map (fun k => at8 raw (i + k))

/-- A dial form slot: its kind at the offset, its length and characters after it (R171, field 3). -/
def formAt (raw : List Byte) (i : Nat) : DialForm :=
  if at8 raw i = 0 then .category else .digits (atRun raw (i + 2) (at8 raw (i + 1)).toNat)

/-- The offsets of the dial form slots within the count. -/
def formOffsets (raw : List Byte) : List Nat := (List.range (at8 raw 2).toNat).map (fun k => 4 + 22 * k)

/-- The tags of a list within its count: `count` and `base` are the offsets of the count and of the first slot. -/
def tagsAt (raw : List Byte) (count base : Nat) : List (BitVec 24) :=
  (List.range (at8 raw count).toNat).map (fun k => at24 raw (base + 4 * k))

/-- The role of a byte (R171, field 33). -/
def roleOf (b : Byte) : Role :=
  match b.toNat with
  | 0 => .active
  | 1 => .spare
  | _ => .absent

/-- The band classes of a byte (R171, field 34). -/
def bandsOf (b : Byte) : Bands := ⟨b.getLsbD 0, b.getLsbD 1, b.getLsbD 2⟩

/-- The location record of an image (R171, fields 36 to 44). -/
def locationAt (raw : List Byte) : Option Location :=
  if at8 raw 221 = 0 then none
  else
    some
      { direction := at8 raw 222, boxId := atRun raw 224 16, latitude := at32 raw 240, longitude := at32 raw 244,
        route := at16 raw 248, along := at32 raw 250, text := atRun raw 255 (at8 raw 254).toNat }

/-- The plan of an image, as its bytes give it (R171). -/
def planOf (raw : List Byte) : Plan where
  lists :=
    { dialForms := (formOffsets raw).map (formAt raw),
      testDial := if at8 raw 92 = 0 then none else some (atRun raw 94 (at8 raw 93).toNat),
      preferred := tagsAt raw 114 116, barred := tagsAt raw 115 148 }
  hunt :=
    { weightLow := (at8 raw 180).toNat, weightMid := (at8 raw 181).toNat, weightHigh := (at8 raw 182).toNat,
      perRound := (at8 raw 183).toNat, concurrency := (at8 raw 184).toNat,
      scanScope := if at8 raw 185 = 0 then .awakeOnly else .awakeAndDoze,
      scoreFloor := (at16 raw 186).toNat, minLevel := (at16 raw 188).toInt, stagger := (at16 raw 190).toNat,
      setupTimeout := (at8 raw 192).toNat, answerTimeout := (at8 raw 193).toNat,
      backoffBase := (at8 raw 194).toNat, messageRetries := (at8 raw 195).toNat,
      backoffCap := (at16 raw 196).toNat, benchTime := (at16 raw 198).toNat,
      staleLimit := (at16 raw 200).toNat, scanInterval := (at16 raw 202).toNat }
  call :=
    { callbackWindow := (at16 raw 204).toNat, idleAnswer := (at8 raw 206).getLsbD 0,
      ackTimeout := (at8 raw 207).toNat, holdAfter := (at8 raw 208).toNat, gap := (at8 raw 209).toNat,
      reassureOn := (at16 raw 210).toNat, reassureOff := (at16 raw 212).toNat }
  roles := ⟨roleOf (at8 raw 214), roleOf (at8 raw 215), roleOf (at8 raw 216)⟩
  allowed := ⟨bandsOf (at8 raw 217), bandsOf (at8 raw 218), bandsOf (at8 raw 219)⟩
  safeLevels :=
    ⟨(at8 raw 220).getLsbD 0, (at8 raw 220).getLsbD 1, (at8 raw 220).getLsbD 2, (at8 raw 220).getLsbD 3⟩
  location := locationAt raw

/-! ### The checks (R174) -/

/-- A character of a digit string: 0 to 9, *, # and + (R171, R174). The spec gives no byte codes; ASCII is PRESUMED, log
entry 70. -/
def dialChar (b : Byte) : Bool :=
  (decide (0x30 ≤ b.toNat) && decide (b.toNat ≤ 0x39)) || b == 0x2A || b == 0x23 || b == 0x2B

/-- The digit-string test on a length byte at `i` and the characters after it. -/
def digitsOk (raw : List Byte) (i : Nat) : Bool :=
  let n := (at8 raw i).toNat
  decide (1 ≤ n) && decide (n ≤ 20) && (atRun raw (i + 1) n).all dialChar

/-- The test on a dial form slot. -/
def formOk (raw : List Byte) (i : Nat) : Bool := at8 raw i == 0 || (at8 raw i == 1 && digitsOk raw (i + 1))

/-- Whether a list has no element twice. -/
def noRepeat : List (BitVec 24) → Bool
  | [] => true
  | x :: rest => !rest.contains x && noRepeat rest

/-- The test on a list of tags. -/
def tagsOk (tags : List (BitVec 24)) : Bool := tags.all (fun t => t != 0) && noRepeat tags

/-- A character 0x20 to 0x7E. -/
def printable (b : Byte) : Bool := decide (0x20 ≤ b.toNat) && decide (b.toNat ≤ 0x7E)

/-- A signed value within a distance of 0. -/
def within (limit : Int) (x : BitVec 32) : Bool := decide (-limit ≤ x.toInt) && decide (x.toInt ≤ limit)

/-- A test that applies only when the location record is present (R171). -/
def whenLocated (raw : List Byte) (test : Bool) : Bool := at8 raw 221 == 0 || test

/-- The checks of R174 in ascending index: each with whether the image passes it. -/
def planChecks (straps : Straps) (raw : List Byte) : List (Nat × Bool) :=
  [ (1, at16 raw 0 == 1),
    (2, decide (1 ≤ (at8 raw 2).toNat) && decide ((at8 raw 2).toNat ≤ 4)),
    (3, (formOffsets raw).all (formOk raw)),
    (4, at8 raw 92 == 0 || (at8 raw 92 == 1 && digitsOk raw 93)),
    (5, decide ((at8 raw 114).toNat ≤ 8)),
    (6, decide ((at8 raw 115).toNat ≤ 8)),
    (7, tagsOk (tagsAt raw 114 116)),
    (8, tagsOk (tagsAt raw 115 148)),
    (14, decide ((at8 raw 185).toNat ≤ 1)),
    (33, (atRun raw 214 3).all (fun b => decide (b.toNat ≤ 2)) && rolesTest straps (planOf raw)),
    (34, (atRun raw 217 3).all (fun b => decide (1 ≤ b.toNat) && decide (b.toNat ≤ 7))),
    (36, decide ((at8 raw 221).toNat ≤ 1)),
    (37, whenLocated raw (decide ((at8 raw 222).toNat ≤ 15))),
    (38, whenLocated raw ((atRun raw 224 16).all printable)),
    (39, whenLocated raw (within 90000000 (at32 raw 240))),
    (40, whenLocated raw (within 180000000 (at32 raw 244))),
    (43, whenLocated raw (decide ((at8 raw 254).toNat ≤ 32))),
    (44, whenLocated raw ((atRun raw 255 (at8 raw 254).toNat).all printable)) ]

/-- The index of the first field that fails (R174). -/
def firstFailing (straps : Straps) (raw : List Byte) : Option Nat :=
  ((planChecks straps raw).find? (fun c => !c.2)).map (·.1)

/-! ### Clamping (R175) -/

/-- The nearer end of a range. -/
def clampTo (lo hi x : Nat) : Nat := max lo (min hi x)

/-- A time brought into range and then lowered to a multiple of 10 ms. -/
def clampTens (lo hi x : Nat) : Nat := clampTo lo hi x / 10 * 10

/-- The hunt's numbers clamped. -/
def clampHunt (h : PlanHunt) : PlanHunt :=
  let base := clampTo 1 30 h.backoffBase
  { h with
    weightLow := clampTo 0 15 h.weightLow, weightMid := clampTo 0 15 h.weightMid,
    weightHigh := clampTo 0 15 h.weightHigh, perRound := clampTo 1 8 h.perRound,
    concurrency := clampTo 1 3 h.concurrency, scoreFloor := clampTo 0 300 h.scoreFloor,
    minLevel := max (-130) (min (-90) h.minLevel), stagger := clampTens 0 2000 h.stagger,
    setupTimeout := clampTo 5 60 h.setupTimeout, answerTimeout := clampTo 20 180 h.answerTimeout,
    backoffBase := base, messageRetries := clampTo 0 7 h.messageRetries,
    backoffCap := max base (clampTo 10 300 h.backoffCap), benchTime := clampTo 30 600 h.benchTime,
    staleLimit := clampTo 600 7200 h.staleLimit, scanInterval := clampTo 30 3600 h.scanInterval }

/-- The call's numbers clamped. -/
def clampCall (c : PlanCall) : PlanCall :=
  { c with
    callbackWindow := clampTo 0 1800 c.callbackWindow, ackTimeout := clampTo 2 20 c.ackTimeout,
    holdAfter := clampTo 0 30 c.holdAfter, reassureOn := clampTens 10 2000 c.reassureOn,
    reassureOff := clampTens 100 10000 c.reassureOff }

/-- The clamped plan (R175). -/
def clampPlan (p : Plan) : Plan := { p with hunt := clampHunt p.hunt, call := clampCall p.call }

/-- The clamp fields of a plan, in the order of their indexes. -/
def clampFields (p : Plan) : List Int :=
  [ p.hunt.weightLow, p.hunt.weightMid, p.hunt.weightHigh, p.hunt.perRound, p.hunt.concurrency, p.hunt.scoreFloor,
    p.hunt.minLevel, p.hunt.stagger, p.hunt.setupTimeout, p.hunt.answerTimeout, p.hunt.backoffBase,
    p.hunt.messageRetries, p.hunt.backoffCap, p.hunt.benchTime, p.hunt.staleLimit, p.hunt.scanInterval,
    p.call.callbackWindow, p.call.ackTimeout, p.call.holdAfter, p.call.reassureOn, p.call.reassureOff ]

/-- The number of places where two lists of the same length differ. -/
def differences : List Int → List Int → Nat
  | a :: as, b :: bs => (if a = b then 0 else 1) + differences as bs
  | _, _ => 0

/-- The clamp count (R175). -/
def clampCount (p : Plan) : Nat := differences (clampFields p) (clampFields (clampPlan p))

/-- The detail word of a loaded plan (R175). -/
def loadDetail (count : Nat) (trespassSeen : Bool) : Word :=
  BitVec.ofNat 16 (count + if trespassSeen then 0x8000 else 0)

/-! ### HOLDING (R180) -/

/-- HOLDING ends: the start-up phase becomes RELEASED, the grace timer stops and MLC releases the modules. -/
def endHolding (s : State) : State :=
  releaseModules (s.withPln { s.pln with phase := .released, grace := none })

/-- An installation that also ends HOLDING if start-up is in it (R176, R180). -/
def installAndRelease (plan : Plan) (source : PlanSource) (s : State) : State :=
  let s := install plan source s
  if s.pln.phase = .holding then endHolding s else s

/-- The grace timer expires (R180). -/
def plnGraceExpiry (s : State) : State :=
  if s.pln.grace.isSome ∧ s.pln.phase = .holding then installAndRelease builtInPlan .default s else s

/-- PLN takes a CALL press: ignored in RELEASED (R180). -/
def plnTakePress (s : State) : State :=
  if s.pln.phase = .holding then installAndRelease builtInPlan .default s else s

/-! ### LOAD PLAN (R173 to R175) -/

/-- PLN takes a LOAD PLAN order (R173). -/
def takeLoadPlan (held : Held) (persist : Bool) (s : State) : State :=
  if s.cal.ctx.state = .idle ∧ s.pln.storeState ≠ .storing then
    let s := s.withSmp { s.smp with planProtected := true }
    s.withPln
      { s.pln with
        copy := some { persist := persist, trespassSeen := false },
        staged := .bytes (memReadAll s.smp.mem planBase imageLength), held := some held }
  else complete held .busy 0 s

/-- A LOAD PLAN that PLN holds is completed and forgotten. -/
def completeLoad (o : OrderOutcome) (detail : Word) (s : State) : State :=
  (completeIfHeld s.pln.held o detail s).withPln { s.pln with held := none }

/-- The staged image is discarded. -/
def discardStaged (s : State) : State := s.withPln { s.pln with staged := .none }

/-- A store starts: STORING, phase MARKER (R177). -/
def startStore (plan : Plan) (detail : Word) (s : State) : State :=
  setStoreState .storing
    (s.withPln { s.pln with staged := .plan plan, storePhase := some .marker, detail := detail })

/-- A checked image is clamped and installed, and completed or stored (R175). -/
def loadImage (raw : List Byte) (c : Copy) (s : State) : State :=
  let asRead := planOf raw
  let plan := clampPlan asRead
  let detail := loadDetail (clampCount asRead) c.trespassSeen
  let s := installAndRelease plan .host s
  if c.persist then startStore plan detail s else completeLoad .loaded detail (discardStaged s)

/-- The copy completes (R173 to R175). -/
def plnCopyCompletion (s : State) : State :=
  match s.pln.copy, s.pln.staged with
  | some c, .bytes raw =>
    let s := (s.withSmp { s.smp with planProtected := false }).withPln { s.pln with copy := none }
    if s.cal.ctx.state ≠ .idle then discardStaged (completeLoad .busy 0 s)
    else
      match firstFailing s.straps raw with
      | some i => discardStaged (completeLoad .invalidPlan (BitVec.ofNat 16 i) s)
      | none => loadImage raw c s
  | _, _ => s

/-- SMP reports a write dropped in the plan area during a copy (R173, R184). -/
def noteTrespass (s : State) : State :=
  match s.pln.copy with
  | some c => s.withPln { s.pln with copy := some { c with trespassSeen := true } }
  | none => s

/-! ### The plan store (R177, R178) -/

/-- Change the plan store and the store phase. -/
def storeStep (marker : Marker) (area : ImageArea) (phase : Option StorePhase) (s : State) : State :=
  s.withPln { s.pln with store := { marker := marker, area := area }, storePhase := phase }

/-- The MARKER phase completes: BEGUN, and the first erase pass starts (R177). -/
def plnMarkerDone (s : State) : State :=
  match s.pln.storePhase with
  | some .marker => storeStep .begun .partly (some (.erase 1)) s
  | _ => s

/-- A store fails (R178): 1 is erase, 2 is program. -/
def storeFails (detail : Nat) (s : State) : State :=
  let s := setStoreState .damaged (s.withPln { s.pln with storePhase := none, staged := .none })
  completeLoad .storeFailed s.pln.detail (reportFault .storeFailed none detail none s)

/-- An erase pass and its verify complete (R177, R178). -/
def plnEraseDone (blank : Bool) (s : State) : State :=
  match s.pln.storePhase with
  | some (.erase pass) =>
    if blank then storeStep s.pln.store.marker .blank (some (.program 1)) s
    else if pass < Config.erasePasses then storeStep s.pln.store.marker .partly (some (.erase (pass + 1))) s
    else storeFails 1 s
  | _ => s

/-- The image area that a program pass leaves: the whole image when the read-back matched. -/
def programmed (matched : Bool) : Staged → ImageArea
  | .plan p => if matched then .image p true else .partly
  | .bytes _ => .partly
  | .none => .partly

/-- A program pass and its read-back complete (R177, R178). -/
def plnProgramDone (matched : Bool) (s : State) : State :=
  match s.pln.storePhase with
  | some (.program pass) =>
    let area := programmed matched s.pln.staged
    if matched then storeStep s.pln.store.marker area (some .complete) s
    else if pass < Config.programPasses then storeStep s.pln.store.marker area (some (.program (pass + 1))) s
    else storeFails 2 (storeStep s.pln.store.marker area s.pln.storePhase s)
  | _ => s

/-- The COMPLETE phase completes: the store is VALID (R177). -/
def plnCompleteDone (s : State) : State :=
  match s.pln.storePhase with
  | some .complete =>
    let s := discardStaged (storeStep .complete s.pln.store.area none s)
    completeLoad .loaded s.pln.detail (setStoreState .valid s)
  | _ => s

/-- The plan store as a reset leaves it: a marker write under way is finished, anything else of a store stops (R177,
R178, log entry 16). -/
def storeAtReset (p : Pln) : PlanStore :=
  match p.storePhase with
  | some .marker => { p.store with marker := .begun }
  | some .complete => { p.store with marker := .complete }
  | _ => p.store

/-- PLN at a soft reset: it forgets the order it holds (R172). -/
def plnSoftReset (s : State) : State := s.withPln { s.pln with held := none }

end Sys2Proof.Machine
end

