-- ==== Sys2Proof/Machine/Operands.lean ====
section
/-! DEFINITION. Every operand form of the host's commands: the bit fields of the register writes (R187), and the kind and
parameters of an order slot (R189, R190). -/

namespace Sys2Proof.Machine

/-! ### Register writes (R187) -/

/-- The slots that the one-bits of an OFFER or DONE write name, in ascending order: the model's choice (log entry 54). -/
def namedSlots (v : Word) : List (Fin 8) := slotNumbers.filter (fun k => v.getLsbD k.val)

/-- The causes that the one-bits of a CAUSE or CAUSEEN write name: bits 0 to 12. -/
def namedCauses (v : Word) : BitVec 13 := v.extractLsb' 0 13

/-! ### Order slots (R190) -/

/-- The byte at an offset of slot `k`. -/
def slotByte (s : State) (k : Fin 8) (offset : Nat) : Byte := memRead s.smp.mem (slotBase k + offset)

/-- The codes of the slot states (R190). -/
def slotStateCode : SlotState → Nat
  | .free => 0
  | .offered => 1
  | .taken _ _ => 2
  | .done => 3

/-- The kind codes of orders (R189). -/
def placeKind : Nat := 1
def clearKind : Nat := 2
def scanKind : Nat := 3
def loadPlanKind : Nat := 4
def moduleKind : Nat := 5

/-- The kind byte of slot `k`. -/
def kindByte (s : State) (k : Fin 8) : Nat := (slotByte s k 0).toNat

/-- The first parameter and, for MODULE, the second. -/
def firstParameter (s : State) (k : Fin 8) : Nat := (slotByte s k 4).toNat
def secondParameter (s : State) (k : Fin 8) : Nat := (slotByte s k 5).toNat

/-- The offset of the first parameter outside its range (R189, R190). -/
def badParameter (kind : Nat) (s : State) (k : Fin 8) : Option Nat :=
  if kind = clearKind then none
  else if kind = moduleKind then
    if 2 < firstParameter s k then some 4 else if 2 < secondParameter s k then some 5 else none
  else if 1 < firstParameter s k then some 4
  else none

/-- The call kind of a PLACE (R190). -/
def placeCallKind (n : Nat) : CallKind := if n = 0 then .emergency else .test

/-- The actions of a MODULE order (R158, R190). -/
inductive ModuleAction where
  | inService | outOfService | restart
  deriving DecidableEq, Repr

/-- The action of a parameter in range. -/
def moduleAction (n : Nat) : ModuleAction :=
  match n with
  | 0 => .inService
  | 1 => .outOfService
  | _ => .restart

/-- The position of a parameter in range. -/
def positionOf (n : Nat) : Pos := ⟨n % 3, Nat.mod_lt _ (by decide)⟩

end Sys2Proof.Machine
end

