-- ==== Sys2Proof/Machine/Flags.lean ====
section
/-! DEFINITION. The status the part shows: cause levels and the interrupt line (R192, R193), the pins (R122, R127, R148),
and the register reads (R187). Reading changes nothing. -/

namespace Sys2Proof.Machine

/-! ### Causes and the interrupt line (R192, R193) -/

/-- The causes of each level: bits 0 and 1 CRITICAL, 2 to 6 URGENT, 7 to 12 NOTICE (R192). -/
def criticalCauses : BitVec 13 := 0x0003#13
def urgentCauses : BitVec 13 := 0x007C#13

/-- The causes that are both pending and enabled. -/
def visibleCauses (s : State) : BitVec 13 := s.smp.causes &&& s.smp.enables

/-- The highest enabled pending level: 0 none, 1 NOTICE, 2 URGENT, 3 CRITICAL (R187, R193). -/
def causeLevel (s : State) : Nat :=
  let v := visibleCauses s
  if v &&& criticalCauses ≠ 0 then 3
  else if v &&& urgentCauses ≠ 0 then 2
  else if v ≠ 0 then 1
  else 0

/-- Whether the IRQ line is asserted (R193). -/
def irq (s : State) : Bool := visibleCauses s != 0

/-! ### Pins -/

/-- The level an output pin shows: the safe level under QUIET, the latch otherwise (R122, R127). -/
def pinLevel (s : State) (o : Output) : Bool :=
  if s.bsu.quiet.level then s.pln.plan.safeLevels.get o else (s.bsu.outs.get o).latch

/-- Whether MRST of a position is active (the table of R148). -/
def mrstActive (s : State) (p : Pos) : Bool :=
  match (s.module p).state with
  | .booting .reset => true
  | .booting _ => false
  | .inService => false
  | .asleep => false
  | _ => true

/-! ### Register reads (R187) -/

/-- The plan source and store state codes (R186). -/
def sourceCode : PlanSource → Nat
  | .store => 0
  | .host => 1
  | .default => 2

def storeCode : StoreState → Nat
  | .blank => 0
  | .valid => 1
  | .damaged => 2
  | .storing => 3

/-- A bit as a number. -/
def bit (x : Bool) : Nat := if x then 1 else 0

/-- The word whose bit k is the k-th of some bits. -/
def wordOfBits (bs : List Bool) : Word := BitVec.ofNat 16 (bs.foldr (fun b n => bit b + 2 * n) 0)

/-- CTRL. -/
def readCtrl (s : State) : Word :=
  BitVec.ofNat 16
    (bit s.wch.doze + 2 * bit s.wch.dozePending + 4 * sourceCode s.pln.source + 16 * storeCode s.pln.storeState)

/-- OFFER: bit k is set while slot k is OFFERED (R188). -/
def readOffer (s : State) : Word := wordOfBits (slotNumbers.map (fun k => s.ord.slots.get k == .offered))

/-- DONE: bit k is set while slot k is DONE (R188). -/
def readDone (s : State) : Word := wordOfBits (slotNumbers.map (fun k => s.ord.slots.get k == .done))

/-- CAUSE: the pending causes and the level field (R193). -/
def readCause (s : State) : Word := s.smp.causes.setWidth 16 ||| BitVec.ofNat 16 (causeLevel s * 0x4000)

/-- CAUSEEN. -/
def readCauseen (s : State) : Word := s.smp.enables.setWidth 16

/-- LAMPS: pin levels, modes, latches and filtered inputs (R126). -/
def readLamps (s : State) : Word :=
  wordOfBits
    (outputs.map (pinLevel s) ++ outputs.map (fun o => (s.bsu.outs.get o).host)
      ++ outputs.map (fun o => (s.bsu.outs.get o).latch)
      ++ [s.bsu.call.level, s.bsu.hook.level, s.bsu.door.level, s.bsu.quiet.level])

/-- A host read of a register: any address but the six returns 0 (R187). -/
def readRegister (s : State) (addr : BitVec 11) : Word :=
  match addr.toNat with
  | 0 => readCtrl s
  | 1 => readOffer s
  | 2 => readDone s
  | 3 => readCause s
  | 4 => readCauseen s
  | 5 => readLamps s
  | _ => 0

end Sys2Proof.Machine
end

