-- ==== Sys2Proof/Machine/Views.lean ====
section
/-! DEFINITION. What a host read of the shared memory returns (R182 to R186): the part-owned regions are views of their
owners' state, laid out as R186, R91, R199 and R20 give; the rest is the stored memory (log entry 29). -/

namespace Sys2Proof.Machine

/-- A run of zero bytes. -/
def zeros (n : Nat) : List Byte := List.replicate n 0

/-- A 32-bit field that may be absent, as 0. -/
def optional32 (x : Option (BitVec 32)) : List Byte := bytes32 (x.getD 0)

/-- A number as a 16-bit field. -/
def num16 (n : Nat) : List Byte := bytes16 (BitVec.ofNat 16 n)

/-- A position that may be absent, as 255. -/
def optionalPos (p : Option Pos) : Byte :=
  match p with
  | some q => byteOf q.val
  | none => 255

/-! ### The identity header (R186) -/

/-- The role codes (R186). -/
def roleCode : Role → Nat
  | .active => 0
  | .spare => 1
  | .absent => 2

/-- A set of band classes as a byte (R186). -/
def bandsByte (b : Bands) : Byte := byteOfFlags [b.low, b.mid, b.high]

/-- The three bytes of the module map for a position. -/
def moduleMap (s : State) (p : Pos) : List Byte :=
  let m := s.module p
  [byteOf (stateCode m.state), byteOf (roleCode m.role), bandsByte m.bands]

/-- The strap readout (R186). -/
def strapByte (x : Straps) : Byte := byteOf (bit x.hook + 2 * bit x.fastLink + 4 * x.wiredCode.toNat)

/-- The 64 bytes of the identity header. -/
def headerBytes (s : State) : List Byte :=
  bytes16 0x5C03 ++ bytes16 1 ++ [1, strapByte s.straps, byteOf (wiredCount s.straps), 0] ++ bytes16 s.smp.clockGen
    ++ bytes32 s.clock ++ zeros 2 ++ bytes16 s.smp.statusGen
    ++ [byteOf (sourceCode s.pln.source), byteOf (storeCode s.pln.storeState)]
    ++ moduleMap s 0 ++ moduleMap s 1 ++ moduleMap s 2 ++ zeros 35

/-! ### The call file (R91) -/

/-- The codes of R91. -/
def kindCode : CallKind → Nat
  | .emergency => 0
  | .test => 1

def messageCode : MessageStatus → Nat
  | .pending => 0
  | .delivered => 1
  | .undelivered => 2
  | .notRequired => 3

def lastEndCode : LastEnd → Nat
  | .none => 0
  | .centreCleared => 1
  | .networkRefused => 2
  | .radioLost => 3
  | .networkOther => 4
  | .moduleLost => 5
  | .callerHungUp => 6
  | .hostCleared => 7
  | .noCarrier => 8
  | .converted => 9
  | .windowExpired => 10
  | .stateCheck => 11

def huntLinkCode : HuntLink → Nat
  | .none => 0
  | .active => 1
  | .stopping => 2

def attemptCode : AttemptState → Nat
  | .queued => 1
  | .sent => 2
  | .proceeding => 3
  | .alerting => 4
  | .answered => 5
  | .releasing => 6

def attemptOutcomeCode : Outcome → Nat
  | .none => 0
  | .refused => 1
  | .timeout => 2
  | .surplus => 3
  | .linkLost => 4
  | .connected => 5

/-- The flags byte. -/
def callFlagsByte (x : Context) : Byte :=
  byteOfFlags
    [x.flags.silent, x.flags.masked, x.flags.abandonPending, x.flags.reestablished, x.flags.pressHeld,
      x.flags.clearDeferred, x.start.isSome, x.connect.isSome]

/-- The serving origin code, network tag and channel. -/
def servingOrigin : Option Serving → Nat
  | none => 0
  | some (.hunted _) => 1
  | some (.incoming _) => 2

def servingTag : Option Serving → BitVec 24
  | some (.hunted k) => k.tag
  | _ => 0

def servingChannel : Option Serving → BitVec 16
  | some (.hunted k) => k.channel
  | _ => 0

/-- The eight bytes of an attempt summary. -/
def summaryBytes : Option Summary → List Byte
  | none => zeros 8
  | some x =>
    [byteOf (attemptCode x.state), 0] ++ num16 x.number
      ++ [byteOf (attemptOutcomeCode x.outcome), byteOf x.form, 0, 0]

/-- The 192 bytes of the call file; its state is the state last written (log entry 11). -/
def callFileBytes (c : Cal) : List Byte :=
  let x := c.ctx
  bytes16 c.fileGen ++ [byteOf (callCode x.state), byteOf (kindCode x.kind)] ++ bytes16 x.sequence
    ++ [byteOf (messageCode x.message), callFlagsByte x] ++ optional32 x.start ++ optional32 x.connect
    ++ [optionalPos (servingPos x.serving), byteOf (servingOrigin x.serving)] ++ bytes24 (servingTag x.serving)
    ++ [byteOf (lastEndCode x.lastEnd)] ++ bytes16 (servingChannel x.serving)
    ++ [byteOf x.reestablishes, byteOf x.rounds] ++ num16 x.attempts ++ num16 x.backoff ++ num16 x.callback
    ++ [byteOf x.presses, byteOf (huntLinkCode x.huntLink), optionalPos x.answer,
        byteOfFlags [x.releases.p0, x.releases.p1, x.releases.p2]]
    ++ summaryBytes x.summaries.p0 ++ summaryBytes x.summaries.p1 ++ summaryBytes x.summaries.p2 ++ zeros 132

/-! ### The fault log (R199) -/

/-- The fault kind codes (R197). -/
def faultCode : FaultKind → Nat
  | .linkError => 1
  | .moduleRestarted => 2
  | .moduleFailed => 3
  | .trespass => 4
  | .badOffer => 5
  | .planCheck => 6
  | .stateCheck => 7
  | .storeFailed => 8

/-- The 32 bytes of a row of the log: the entry it holds, if any, and the tally and entry count. -/
def logRow (f : Flt) (x : Option FaultEntry) : List Byte :=
  (match x with
    | some e =>
      bytes32 e.time ++ [byteOf (faultCode e.kind), optionalPos e.pos] ++ num16 e.detail
        ++ (match e.address with
          | some a => bytes16 (a.setWidth 16)
          | none => [0xFF, 0xFF])
        ++ zeros 18
    | none => zeros 28)
    ++ [byteOf f.tally, byteOf f.log.length, 0, 0]

/-- The 128 bytes of the fault log region. -/
def faultLogBytes (f : Flt) : List Byte :=
  logRow f f.log[0]? ++ logRow f f.log[1]? ++ logRow f f.log[2]? ++ logRow f f.log[3]?

/-! ### The mirror (R20) -/

/-- The last outcome codes (R20). -/
def lastOutcomeCode : LastOutcome → Nat
  | .none => 0
  | .refused => 1
  | .timeout => 2
  | .connected => 3
  | .dropped => 4

/-- The 32 bytes of a row of the mirror. -/
def mirrorRow (gen : Word) (x : Option Entry) : List Byte :=
  bytes16 gen
    ++ (match x with
      | some e =>
        [1, byteOf e.key.pos.val] ++ bytes24 e.key.tag ++ [byteOf (bandCode e.band)] ++ bytes16 e.key.channel
          ++ bytes16 (BitVec.ofInt 16 e.level)
          ++ [byteOf (e.quality.getD 255),
              byteOfFlags [e.networkBarred, e.planBarred, e.bench.isSome, e.inAttempt, e.serving],
              byteOf e.failures, byteOf (lastOutcomeCode e.last)]
          ++ num16 (e.bench.getD 0) ++ num16 e.age ++ num16 e.score ++ bytes32 (BitVec.ofNat 32 e.seq) ++ zeros 6
      | none => zeros 30)

/-- The byte of the mirror at an offset: 24 rows of 32 bytes in rank order. -/
def mirrorByte (c : Ctu) (offset : Nat) : Byte := (mirrorRow c.mirrorGen c.table[offset / 32]?).getD (offset % 32) 0

/-! ### Host reads (R182) -/

/-- The byte of the shared memory at an address below 0x1000. -/
def readByte (s : State) (a : Nat) : Byte :=
  match regionOf a with
  | 1 => (headerBytes s).getD a 0
  | 2 => (callFileBytes s.cal).getD (a - 0x040) 0
  | 3 => (faultLogBytes s.flt).getD (a - 0x100) 0
  | 4 =>
    let k := slotOf a
    if a = slotBase k + 1 then byteOf (slotStateCode (s.ord.slots.get k)) else memRead s.smp.mem a
  | 5 => mirrorByte s.ctu (a - 0x380)
  | _ => memRead s.smp.mem a

/-- A host read of a memory word (R182): bit 0 of the address is not an address line. -/
def readWord (s : State) (addr : BitVec 12) : Word :=
  let a := addr.toNat / 2 * 2
  wordOf (readByte s a) (readByte s (a + 1))

end Sys2Proof.Machine
end

