-- ==== Sys2Proof/Machine/Orders.lean ====
section
/-! DEFINITION. The order unit's taking of orders (R189) and the MODULE order (R157, R158). -/

namespace Sys2Proof.Machine

/-! ### The MODULE order (R157, R158) -/

/-- The role a lost module returns with (R157). A read of field 34 that brings a recovery takes roles afresh, and that
taking may clear the replaced flag or make the position ABSENT (R154, R181). The return that is under way stands all the
same: the module returns with role SPARE, and boots. This is the model's choice (log entry 57). So are two more points:
a pending role of a module with its replaced flag set is dropped (log entry 66), and a pending role ABSENT is set while
the module boots all the same (log entry 67). -/
def setReturnRole (p : Pos) (s : State) : State :=
  let m := s.module p
  if m.replaced then
    let s := touch 34 s
    changeRole p .spare (s.pln.plan.allowed.get p)
      (s.withModule p { s.module p with replaced := false, pendingRole := none })
  else
    match m.pendingRole with
    | some x => changeRole p x.role x.bands (s.withModule p { m with pendingRole := none })
    | none => s

/-- A MODULE order that acts at once completes DONE with the module's state code. -/
def completeModule (held : Held) (p : Pos) (s : State) : State :=
  complete held .done (BitVec.ofNat 16 (stateCode (s.module p).state)) s

/-- A MODULE order stays TAKEN until its module leaves BOOTING. -/
def waitForBoot (held : Held) (p : Pos) (s : State) : State :=
  s.withMlc { s.mlc with wait := some { held := held, pos := p } }

/-- Whether a module is FAILED or OUT_OF_SERVICE when it returns: its role is set then (R157, R158). -/
def returning (p : Pos) (s : State) : State :=
  if lostState (s.module p).state then setReturnRole p s else s

/-- Action OUT_OF_SERVICE. -/
def takeOut (held : Held) (p : Pos) (s : State) : State :=
  if (s.module p).state = .outOfService then completeModule held p s
  else
    let s := changeState p .outOfService (cutTransaction p s)
    let s := if (s.module p).role = .active then substitute p s else s
    completeModule held p s

/-- Action IN_SERVICE. -/
def bringBack (held : Held) (p : Pos) (s : State) : State :=
  if lostState (s.module p).state then
    let s := returning p s
    let s := s.withModule p { s.module p with failures := 0 }
    waitForBoot held p (enterBoot p Config.bootTime s)
  else completeModule held p s

/-- Action RESTART. -/
def restartModule (held : Held) (p : Pos) (s : State) : State :=
  if (s.module p).state = .held then completeModule held p s
  else
    let s := returning p (cutTransaction p s)
    let s := s.withModule p { s.module p with failures := 0, restart := none }
    waitForBoot held p (enterReset p s)

/-- MLC takes a MODULE order (R158). The detail of its BUSY is a free value (log entry 37). -/
def takeModuleOrder (held : Held) (p : Pos) (action : ModuleAction) (s : State) : State :=
  let m := s.module p
  if m.wired = false ∨ m.state = .absent then complete held .absent 0 s
  else if holdsCall s p ∨ s.cal.ctx.answer = some p then complete held .busy (Config.moduleBusyDetail held.take) s
  else
    match action with
    | .outOfService => takeOut held p s
    | .inService => bringBack held p s
    | .restart => restartModule held p s

/-! ### Taking (R189) -/

/-- The slot ORD takes next: the lowest-numbered OFFERED one. -/
def nextOffered (s : State) : Option (Fin 8) := slotNumbers.find? (fun k => s.ord.slots.get k == .offered)

/-- A slot is taken: the take number rises, the result fields become 0 and the slot is TAKEN. -/
def takeSlot (k : Fin 8) (s : State) : Held × State :=
  let take := s.ord.takeNumber + 1
  let s := s.withOrd { s.ord with takeNumber := take }
  ({ slot := k, take := take }, setSlot k (.taken (kindByte s k) take) (writeResult k 0 0 0 s))

/-- Whether a slot is TAKEN with an order of a kind. -/
def takenKind (kind : Nat) : SlotState → Bool
  | .taken k _ => k == kind
  | _ => false

/-- Another slot that is TAKEN with an order of the same kind. -/
def otherTaken (kind : Nat) (k : Fin 8) (s : State) : Option (Fin 8) :=
  slotNumbers.find? (fun j => j != k && takenKind kind (s.ord.slots.get j))

/-- The checks of R189 on a taken order of a known kind, and the hand-over to its owner. -/
def checkOrder (kind : Nat) (owner : Held → Fin 8 → State → State) (held : Held) (s : State) : State :=
  match badParameter kind s held.slot with
  | some offset => complete held .badParameter (BitVec.ofNat 16 offset) s
  | none =>
    match otherTaken kind held.slot s with
    | some j => complete held .busy (BitVec.ofNat 16 j.val) s
    | none => owner held held.slot s

/-- ORD takes the next OFFERED slot when it holds an order of a kind; otherwise nothing is taken (log entry 4). -/
def takeOrder (kind : Nat) (owner : Held → Fin 8 → State → State) (s : State) : State :=
  match nextOffered s with
  | none => s
  | some k =>
    if kindByte s k = kind then
      let t := takeSlot k s
      checkOrder kind owner t.1 t.2
    else s

/-- ORD takes the next OFFERED slot when its kind is none of 1 to 5 (R189, check 1). -/
def takeUnknown (s : State) : State :=
  match nextOffered s with
  | none => s
  | some k =>
    if 1 ≤ kindByte s k ∧ kindByte s k ≤ 5 then s
    else
      let t := takeSlot k s
      complete t.1 .unknownKind (BitVec.ofNat 16 (kindByte s k)) t.2

end Sys2Proof.Machine
end

