-- ==== Sys2Proof/Machine/Deliver.lean ====
section
/-! DEFINITION. The internal events of a command: which block takes each, and how a command's cascade is run to its end (log
entries 5 and 6). -/

namespace Sys2Proof.Machine

/-! ### Dispatch of module events (R146) -/

/-- What a module event hands to the blocks it concerns (the table of R146). CAL acts on none of CALL_PROCEEDING,
CALL_ALERTING and CALL_ANSWERED (R76), so they go to HNT alone. -/
def eventMessages (p : Pos) (e : ModuleEvent) : List Msg :=
  match e with
  | .proceeding => [.hntEvent p e]
  | .alerting => [.hntEvent p e]
  | .answered => [.hntEvent p e]
  | .ended _ => [.hntEvent p e, .calEvent p e]
  | .serviceLost => [.hntEvent p e, .calEvent p e]
  | .incoming _ => [.calEvent p e]
  | .scanReady count => [.wchReady p count]
  | .dataResult v => [.lmuVerdict p v]
  | .levelReport level quality => [.ctuLevel p level.toInt (quality.map (·.toNat))]

/-- MLC dispatches one event of a module. -/
def dispatchEvent (p : Pos) (e : ModuleEvent) (s : State) : State := postAll (eventMessages p e) s

/-- MLC dispatches the events of a batch in order (R146); unknown codes are skipped (R133). -/
def dispatchRecords (p : Pos) (records : List EventRecord) (s : State) : State :=
  postAll ((records.filterMap eventOf).flatMap (eventMessages p)) s

/-! ### The blocks take their events -/

/-- CAL takes a module event (R76, R78 to R80). -/
def takeModuleEvent (p : Pos) (e : ModuleEvent) (s : State) : State :=
  match e with
  | .ended cause => takeEnded p cause s
  | .serviceLost => takeServiceLost p s
  | .incoming _ => takeIncoming p s
  | _ => s

/-- The block concerned takes an internal event. -/
def handle (m : Msg) (s : State) : State :=
  match m with
  | .hntNewKeys keys => hntTakeKeys keys s
  | .hntGatherEnd => hntTakeGatherEnd s
  | .hntResult p number kind r => hntTakeResult p number kind r s
  | .hntStrayResult p number => hntTakeStray p number s
  | .hntModule p old new => hntTakeModule p old new s
  | .hntRole _ => hntTakeRole s
  | .hntPlan => hntTakePlan s
  | .hntEvent p e => hntTakeEvent p e s
  | .calHuntStarted => calEvent (fun s => s.withCtx { s.cal.ctx with attempts := 0, rounds := 0 }) s
  | .calRounds n => calEvent (fun s => s.withCtx { s.cal.ctx with rounds := n }) s
  | .calRecord p x => calEvent (takeRecord p x) s
  | .calRecordEnd p => calEvent (clearSummary p) s
  | .calBackoff n => calEvent (fun s => s.withCtx { s.cal.ctx with backoff := n }) s
  | .calAttemptsClear => calEvent takeAttemptsClear s
  | .calNoCarrier => calEvent takeNoCarrier s
  | .calWinner k => calEvent (takeWinner k) s
  | .calAnswerResult p ok => calEvent (takeAnswerResult p ok) s
  | .calReleaseResult p => calEvent (takeReleaseResult p) s
  | .calModuleLeft p => calEvent (takeModuleLeft p) s
  | .calEvent p e => calEvent (takeModuleEvent p e) s
  | .calConcluded delivered => calEvent (takeConcluded delivered) s
  | .calPress => calEvent takePress s
  | .calHookOn => calEvent takeHookOn s
  | .calHookOff => calEvent takeHookOff s
  | .lmuResult number r => lmuTakeResult number r s
  | .lmuVerdict p v => lmuTakeVerdict p v s
  | .wchResult p number kind r => wchTakeResult p number kind r s
  | .wchModule p old new => wchTakeModule p old new s
  | .wchRole p => wchTakeRole p s
  | .wchList p number => wchTakeList p number s
  | .wchReady p count => wchTakeReady p count s
  | .ctuLevel p level quality => ctuLevelReport p level quality s
  | .plnPress => plnTakePress s

/-- The reports that one block makes to another about its own state, numbered by sender and receiver: HNT's to CAL (R48,
R61, R88), and MLC's of a module's state or role to HNT, to CAL and to WCH (R153). The other internal events are none of
these. -/
def stream : Msg → Option Nat
  | .calHuntStarted => some 0
  | .calRounds _ => some 0
  | .calRecord _ _ => some 0
  | .calRecordEnd _ => some 0
  | .calBackoff _ => some 0
  | .calAttemptsClear => some 0
  | .calNoCarrier => some 0
  | .calWinner _ => some 0
  | .hntModule _ _ _ => some 1
  | .hntRole _ => some 1
  | .calModuleLeft _ => some 2
  | .wchModule _ _ _ => some 3
  | .wchRole _ => some 3
  | _ => none

/-- Whether an internal event belongs to a stream in which a newer report has been made. -/
def goesFirst (newer : List Msg) (m : Msg) : Bool :=
  (stream m).isSome && newer.any (fun n => stream n == stream m)

/-- The inbox after one internal event: what it set off comes before what was already waiting, but no report of a stream
overtakes an earlier one of the same stream: a receiver takes them in the order in which they were made (log entry 5). -/
def inboxAfter (newer waiting : List Msg) : List Msg :=
  waiting.filter (goesFirst newer) ++ newer ++ waiting.filter (fun m => !goesFirst newer m)

/-- One internal event: the oldest leaves the inbox and is taken; what it sets off is taken before what was already
waiting, each stream of reports in its own order (log entry 5). -/
def drainOne (m : Msg) (rest : List Msg) (s : State) : State :=
  let t := handle m (s.withInbox [])
  t.withInbox (inboxAfter t.inbox rest)

/-- Take internal events until none is left. The fuel is far beyond the longest cascade (log entry 6); events that it
would leave are dropped, so that none waits between commands. -/
def drain : Nat → State → State
  | 0, s => s.withInbox []
  | fuel + 1, s =>
    match s.inbox with
    | [] => s
    | m :: rest => drain fuel (drainOne m rest s)

/-- What a command answers: the state in which everything it set off has been taken. -/
def settled (s : State) : Host.Outcome State Fault Refusal := .next (drain Config.cascadeFuel s)

end Sys2Proof.Machine
end

