-- ==== Sys2Proof/Machine/Resets.lean ====
section
/-! DEFINITION. Power-on and pin reset (R179, R182, R186, R196) and the soft reset (R195): the shared operations of the
reset commands. -/

namespace Sys2Proof.Machine

/-- The levels of the ATN lines, which a reset does not change. -/
def atnLevels (s : State) : PerPos Bool := ⟨s.mlc.modules.p0.atn, s.mlc.modules.p1.atn, s.mlc.modules.p2.atn⟩

/-- Every block as a reset leaves it, over the memory and the plan store that the reset keeps. The commands that wait are
not the part's own and stay. -/
def blocksAtReset (straps : Straps) (pins : Pins) (mem : List Host.Cell) (s : State) : State where
  pending := s.pending
  inbox := []
  clock := 0
  straps := straps
  smp := resetSmp mem
  ord := resetOrd
  flt := resetFlt
  ctu := resetCtu
  hnt := resetHnt
  cal := resetCal
  lmu := resetLmu
  vsw := resetVsw
  bsu := resetBsu straps pins
  mlc := resetMlc straps (atnLevels s)
  wch := resetWch
  pln := resetPln (storeAtReset s.pln)

/-- Start-up in the reset release event (R179): a VALID store whose image passes the roles test is installed and the
modules released; otherwise start-up stays in HOLDING (R180). -/
def startUp (s : State) : State :=
  match s.pln.storeState, s.pln.store.area with
  | .valid, .image plan _ => if rolesTest s.straps plan then endHolding (install plan .store s) else s
  | _, _ => s

/-- SMP writes the identity header last: both generation words are 0 (R186). -/
def headerAtReset (s : State) : State := s.withSmp { s.smp with clockGen := 0, statusGen := 0 }

/-- A reset (R179). -/
def resetPart (straps : Straps) (pins : Pins) (mem : List Host.Cell) (s : State) : State :=
  headerAtReset (startUp (blocksAtReset straps pins mem s))

/-- The memory that a pin reset keeps: the plan area and the host free area (R182). -/
def keptMemory (m : List Host.Cell) : List Host.Cell := m.filter (fun c => decide (planBase ≤ c.1))

/-- ORD at a soft reset: every slot is FREE, the take number stays (R195). -/
def ordSoftReset (s : State) : State := s.withOrd { s.ord with slots := PerSlot.all .free }

/-- CAL's event at a soft reset (R66). -/
def calSoftResetEvent (s : State) : State := publishCall s.cal (calSoftReset s)

/-- The owners forget their orders (R195): CAL, WCH, PLN and MLC. -/
def ownersSoftReset (s : State) : State :=
  let s := plnSoftReset (calSoftResetEvent s)
  (s.withWch { s.wch with order := none }).withMlc { s.mlc with wait := none }

/-- SMP at a soft reset: every pending flag and enable becomes 0 (R193, R195). -/
def causesSoftReset (s : State) : State := s.withSmp { s.smp with causes := 0, enables := 0 }

/-- The soft reset (R195). -/
def softReset (s : State) : State :=
  causesSoftReset (bsuSoftReset ((ownersSoftReset (ordSoftReset s)).withFlt resetFlt))

end Sys2Proof.Machine
end

