-- ==== Sys2Proof/Machine/HostCommands.lean ====
section
/-! DEFINITION. The meanings of the commands of the host port: resets, register writes, memory writes, and the taking of the
five kinds of order. -/

namespace Sys2Proof.Machine

/-! ### Resets (R179) -/

/-- POWER_ON_RESET: the memory is 0 (R182). -/
def execPowerOnReset (straps : Straps) (pins : Pins) (s : State) : Host.Outcome State Fault Refusal :=
  settled (resetPart straps pins [] s)

/-- PIN_RESET: the plan area and the host free area keep their contents (R182). -/
def execPinReset (straps : Straps) (pins : Pins) (s : State) : Host.Outcome State Fault Refusal :=
  settled (resetPart straps pins (keptMemory s.smp.mem) s)

/-! ### Register writes (R187, R194) -/

/-- DOZE (R161). -/
def execDoze (s : State) : Host.Outcome State Fault Refusal := settled (wchDoze s)

/-- WAKE (R162). -/
def execWake (s : State) : Host.Outcome State Fault Refusal := settled (wchWake s)

/-- SOFT_RESET (R195). -/
def execSoftReset (s : State) : Host.Outcome State Fault Refusal := settled (softReset s)

/-- RELEASE_FAULT: the oldest entry leaves the log (R198). -/
def execReleaseFault (s : State) : Host.Outcome State Fault Refusal :=
  settled (s.withFlt { s.flt with log := s.flt.log.drop 1 })

/-- CLEAR_TALLY (R198). -/
def execClearTally (s : State) : Host.Outcome State Fault Refusal := settled (s.withFlt { s.flt with tally := 0 })

/-- One one-bit of an OFFER write (R188). -/
def offerSlot (s : State) (k : Fin 8) : State :=
  match s.ord.slots.get k with
  | .free => setSlot k .offered s
  | _ => reportFault .badOffer none k.val none s

/-- OFFER (R188), bit by bit from slot 0 up: the model's choice (log entry 54). -/
def execOfferWrite (v : Word) (s : State) : Host.Outcome State Fault Refusal :=
  settled ((namedSlots v).foldl offerSlot s)

/-- One one-bit of a DONE write (R191). -/
def giveBackSlot (s : State) (k : Fin 8) : State :=
  match s.ord.slots.get k with
  | .done => setSlot k .free s
  | _ => s

/-- DONE (R191). -/
def execDoneWrite (v : Word) (s : State) : Host.Outcome State Fault Refusal :=
  settled ((namedSlots v).foldl giveBackSlot s)

/-- CAUSE: each one-bit clears its cause's pending flag (R192). -/
def execCauseWrite (v : Word) (s : State) : Host.Outcome State Fault Refusal :=
  settled (s.withSmp { s.smp with causes := s.smp.causes &&& ~~~(namedCauses v) })

/-- CAUSEEN: the enables take the written value (R187, R192). -/
def execCauseenWrite (v : Word) (s : State) : Host.Outcome State Fault Refusal :=
  settled (s.withSmp { s.smp with enables := namedCauses v })

/-- LAMPS (R125). -/
def execLampsWrite (v : Word) (s : State) : Host.Outcome State Fault Refusal := settled (writeLamps v s)

/-- UNUSED_REGISTER_WRITE: ignored (R187). -/
def execUnusedRegisterWrite (addr : BitVec 11) (_v : Word) (s : State) : Host.Outcome State Fault Refusal :=
  if addr.toNat < 6 then .fault .registerInUse else settled s

/-! ### Memory writes (R183, R184) -/

/-- A dropped write: TRESPASS is logged and raised, and PLN hears of one in the plan area (R184). -/
def trespass (region : Nat) (addr : BitVec 12) (s : State) : State :=
  let s := raise .trespass (reportFault .trespass none region (some addr) s)
  if region = 6 then noteTrespass s else s

/-- A taken write of a word: both bytes are stored (R182). -/
def storeWord (a : Nat) (v : Word) (s : State) : State :=
  s.withMem (memWrite (memWrite s.smp.mem a (lowByte v)) (a + 1) (highByte v))

/-- A taken write in a slot: the state byte is not stored (R183). -/
def storeSlotWord (a : Nat) (v : Word) (s : State) : State :=
  if a = slotBase (slotOf a) then s.withMem (memWrite s.smp.mem a (lowByte v)) else storeWord a v s

/-- Whether the host may write a slot: FREE or DONE (R183). -/
def slotOpen : SlotState → Bool
  | .free => true
  | .done => true
  | .offered => false
  | .taken _ _ => false

/-- HOST_WRITE (R183). -/
def execHostWrite (addr : BitVec 12) (v : Word) (s : State) : Host.Outcome State Fault Refusal :=
  let a := addr.toNat
  if a % 2 = 1 then .fault .oddAddress
  else
    settled
      (match regionOf a with
        | 7 => storeWord a v s
        | 6 => if s.smp.planProtected then trespass 6 addr s else storeWord a v s
        | 4 => if slotOpen (s.ord.slots.get (slotOf a)) then storeSlotWord a v s else trespass 4 addr s
        | region => trespass region addr s)

/-! ### Orders (R189) -/

/-- PLACE, handed to CAL (R68). -/
def ownerPlace (held : Held) (k : Fin 8) (s : State) : State :=
  calEvent (takePlace held (placeCallKind (firstParameter s k))) s

/-- CLEAR, handed to CAL (R86). -/
def ownerClear (held : Held) (_k : Fin 8) (s : State) : State := calEvent (takeClear held) s

/-- SCAN, handed to WCH (R169). -/
def ownerScan (held : Held) (k : Fin 8) (s : State) : State := wchScanOrder held (firstParameter s k == 1) s

/-- LOAD PLAN, handed to PLN (R173). -/
def ownerLoadPlan (held : Held) (k : Fin 8) (s : State) : State := takeLoadPlan held (firstParameter s k == 1) s

/-- MODULE, handed to MLC (R158). -/
def ownerModule (held : Held) (k : Fin 8) (s : State) : State :=
  takeModuleOrder held (positionOf (firstParameter s k)) (moduleAction (secondParameter s k)) s

/-- PLACE (R68). -/
def execPlaceOrder (s : State) : Host.Outcome State Fault Refusal := settled (takeOrder placeKind ownerPlace s)

/-- CLEAR (R86). -/
def execClearOrder (s : State) : Host.Outcome State Fault Refusal := settled (takeOrder clearKind ownerClear s)

/-- SCAN (R169). -/
def execScanOrder (s : State) : Host.Outcome State Fault Refusal := settled (takeOrder scanKind ownerScan s)

/-- LOAD_PLAN (R173). -/
def execLoadPlan (s : State) : Host.Outcome State Fault Refusal := settled (takeOrder loadPlanKind ownerLoadPlan s)

/-- MODULE (R158). -/
def execModuleOrder (s : State) : Host.Outcome State Fault Refusal := settled (takeOrder moduleKind ownerModule s)

/-- UNKNOWN_KIND (R189). -/
def execUnknownKind (s : State) : Host.Outcome State Fault Refusal := settled (takeUnknown s)

end Sys2Proof.Machine
end

