-- ==== Sys2Proof/Machine/BoxCommands.lean ====
section
/-! DEFINITION. The meanings of the clock's commands, of the box inputs, and of the expiries of BSU's, HNT's, CAL's, LMU's
and VSW's timers. An expiry of a timer that is not running changes nothing (log entry 1). -/

namespace Sys2Proof.Machine

/-! ### The seconds clock (R186) -/

/-- The poll timers at an advance of the seconds clock (log entry 2). -/
def tickPoll (m : Module) : Module := { m with poll := m.poll.map tickTimer }

/-- The seconds clock advances, and its record is rewritten (R186). -/
def advanceClock (s : State) : State :=
  let v := s.mlc.modules
  let s := s.withClock (s.clock + 1)
  let s := s.withSmp { s.smp with clockGen := s.smp.clockGen + 2 }
  s.withMlc { s.mlc with modules := ⟨tickPoll v.p0, tickPoll v.p1, tickPoll v.p2⟩ }

/-- Everything an advance of the seconds clock brings: the age tick (R13), the reports of backoff and callback remaining
(R61, R85) and the upkeep (R163). -/
def secondPasses (s : State) : State :=
  upkeep (calEvent takeCallbackSecond (hntSecond (ctuAgeTick (advanceClock s))))

/-- SECONDS_CLOCK_ADVANCE (R186). -/
def execSecondsClockAdvance (s : State) : Host.Outcome State Fault Refusal := settled (secondPasses s)

/-- BENCH_EXPIRY: an advance at which the bench of some entry ends (R13, R16); none ends otherwise (log entry 8). -/
def execBenchExpiry (s : State) : Host.Outcome State Fault Refusal :=
  settled (if s.ctu.table.any benchEnds then secondPasses s else s)

/-! ### Box inputs (R118 to R120) -/

/-- An accepted change of CALL (R119). -/
def acceptCall (active : Bool) (s : State) : State :=
  postAll (callEvents active) (s.withBsu { s.bsu with call := acceptLevel active })

/-- An accepted change of HOOK (R119). -/
def acceptHook (active : Bool) (s : State) : State :=
  postAll (hookEvents active) (s.withBsu { s.bsu with hook := acceptLevel active })

/-- An accepted change of DOOR (R119). -/
def acceptDoor (active : Bool) (s : State) : State := raise .door (s.withBsu { s.bsu with door := acceptLevel active })

/-- An accepted change of QUIET (R127): the pins read the safe levels while it is active. -/
def acceptQuiet (active : Bool) (s : State) : State :=
  let s := s.withBsu { s.bsu with quiet := acceptLevel active }
  if active then touch 35 s else s

/-- CALL_PRESS (R69, R119). -/
def execCallPress (s : State) : Host.Outcome State Fault Refusal :=
  settled (if s.bsu.call.level then s else acceptCall true s)

/-- HOOK_ON (R74, R119), on a box with the HOOK strap (R120). -/
def execHookOn (s : State) : Host.Outcome State Fault Refusal :=
  settled (if s.straps.hook ∧ s.bsu.hook.level = false then acceptHook true s else s)

/-- HOOK_OFF (R75, R119), on a box with the HOOK strap (R120). -/
def execHookOff (s : State) : Host.Outcome State Fault Refusal :=
  settled (if s.straps.hook ∧ s.bsu.hook.level = true then acceptHook false s else s)

/-- DOOR_OPEN (R119). -/
def execDoorOpen (s : State) : Host.Outcome State Fault Refusal :=
  settled (if s.bsu.door.level then s else acceptDoor true s)

/-- DOOR_CLOSED (R119). -/
def execDoorClosed (s : State) : Host.Outcome State Fault Refusal :=
  settled (if s.bsu.door.level then acceptDoor false s else s)

/-- QUIET_ON (R127). -/
def execQuietOn (s : State) : Host.Outcome State Fault Refusal :=
  settled (if s.bsu.quiet.level then s else acceptQuiet true s)

/-- QUIET_OFF (R127). -/
def execQuietOff (s : State) : Host.Outcome State Fault Refusal :=
  settled (if s.bsu.quiet.level then acceptQuiet false s else s)

/-- CALL_REST: no event (R119). -/
def execCallRest (s : State) : Host.Outcome State Fault Refusal :=
  settled (if s.bsu.call.level then acceptCall false s else s)

/-- One sample of CALL (R118). -/
def sampleCall (x : Bool) (s : State) : State :=
  let r := filterSample Config.filterCall x s.bsu.call
  if r.1 then acceptCall x s else s.withBsu { s.bsu with call := r.2 }

/-- One sample of HOOK: the pin is not sampled without its strap (R118, R120). -/
def sampleHook (x : Bool) (s : State) : State :=
  if s.straps.hook then
    let r := filterSample Config.filterHook x s.bsu.hook
    if r.1 then acceptHook x s else s.withBsu { s.bsu with hook := r.2 }
  else s

/-- One sample of DOOR (R118). -/
def sampleDoor (x : Bool) (s : State) : State :=
  let r := filterSample Config.filterDoor x s.bsu.door
  if r.1 then acceptDoor x s else s.withBsu { s.bsu with door := r.2 }

/-- One sample of QUIET (R118). -/
def sampleQuiet (x : Bool) (s : State) : State :=
  let r := filterSample Config.filterQuiet x s.bsu.quiet
  if r.1 then acceptQuiet x s else s.withBsu { s.bsu with quiet := r.2 }

/-- INPUT_SAMPLE: every input is sampled, and a level seen often enough is accepted (R118). Of several changes that one
sample completes, what BSU does itself (the levels, DOOR's cause, QUIET's read of field 35) comes before the events that
CALL and then HOOK send to CAL and PLN: the model's choice (log entry 10). -/
def execInputSample (pins : Pins) (s : State) : Host.Outcome State Fault Refusal :=
  settled (sampleQuiet pins.quiet (sampleDoor pins.door (sampleHook pins.hook (sampleCall pins.call s))))

/-- PATTERN_TIMER_EXPIRY: an edge (R124). -/
def execPatternTimerExpiry (o : Output) (s : State) : Host.Outcome State Fault Refusal :=
  settled
    (if (s.bsu.outs.get o).timer.isSome then
      s.withBsu { s.bsu with outs := s.bsu.outs.set o (patternEdge (s.bsu.outs.get o)) }
    else s)

/-! ### Timers of the hunt (R32, R37, R43, R49, R61) -/

/-- WAKE_WAIT_EXPIRY (R37). -/
def execWakeWaitExpiry (s : State) : Host.Outcome State Fault Refusal := settled (endWakeWait s)

/-- GATHER_TIMER_EXPIRY (R43). -/
def execGatherTimerExpiry (s : State) : Host.Outcome State Fault Refusal := settled (hntGatherExpiry s)

/-- BACKOFF_TIMER_EXPIRY (R61). -/
def execBackoffTimerExpiry (s : State) : Host.Outcome State Fault Refusal := settled (hntBackoffExpiry s)

/-- LAUNCH_STAGGER_EXPIRY (R32). -/
def execLaunchStaggerExpiry (s : State) : Host.Outcome State Fault Refusal := settled (hntStaggerExpiry s)

/-- ATTEMPT_TIMER_EXPIRY (R49). -/
def execAttemptTimerExpiry (p : Pos) (s : State) : Host.Outcome State Fault Refusal := settled (hntAttemptExpiry p s)

/-! ### Timers of the call, the message and the tones (R73, R85, R99, R110, R113) -/

/-- HOOK_MASK_EXPIRY (R73). -/
def execHookMaskExpiry (s : State) : Host.Outcome State Fault Refusal := settled (calEvent takeMaskExpiry s)

/-- CALLBACK_TIMER_EXPIRY (R85). -/
def execCallbackTimerExpiry (s : State) : Host.Outcome State Fault Refusal := settled (calEvent takeCallbackExpiry s)

/-- ACKNOWLEDGEMENT_TIMER_EXPIRY (R99). -/
def execAcknowledgementTimerExpiry (s : State) : Host.Outcome State Fault Refusal := settled (lmuAckExpiry s)

/-- GAP_TIMER_EXPIRY (R110). -/
def execGapTimerExpiry (s : State) : Host.Outcome State Fault Refusal := settled (vswGapExpiry s)

/-- PHASE_TIMER_EXPIRY (R113). -/
def execPhaseTimerExpiry (s : State) : Host.Outcome State Fault Refusal := settled (vswPhaseExpiry s)

/-! ### Damage to the call state flags (R200) -/

/-- CALL_STATE_FLAGS_DAMAGED: the seven flags stand as they are given; the check finds them at the next transition
(R200). -/
def execCallStateFlagsDamaged (flags : BitVec 7) (s : State) : Host.Outcome State Fault Refusal :=
  if flagsSet flags = 1 then .fault .flagsNotDamaged else settled (s.withCal { s.cal with held7 := flags })

end Sys2Proof.Machine
end

