-- ==== Sys2Proof/Machine/LinkCommands.lean ====
section
/-! DEFINITION. The meanings of the commands of the module link: module timers, the transaction in flight, replies, module
events, and the scan timers. A command that cannot occur in the state it finds changes nothing (log entry 1). -/

namespace Sys2Proof.Machine

/-! ### Module timers (R143, R149) -/

/-- POLL_TIMER_EXPIRY (R143), with a SLEEP of MLC's that is to be queued again (R149). -/
def execPollTimerExpiry (p : Pos) (s : State) : Host.Outcome State Fault Refusal :=
  settled
    (if (s.module p).poll.isSome then
      let s := queuePoll p s
      let s := s.withModule p { s.module p with poll := some (longTimer (currentPollInterval s)) }
      let m := s.module p
      if m.sleepAgain ∧ m.role = .spare ∧ m.state = .inService then queueSpareSleep p s else s
    else s)

/-- BOOT_TIMER_EXPIRY: the boot or the wake timer (R149). -/
def execBootTimerExpiry (p : Pos) (s : State) : Host.Outcome State Fault Refusal :=
  settled (if (s.module p).boot.isSome ∧ (s.module p).state = .booting .boot then enterProbe p s else s)

/-- The end of the reset pulse of a RESTART: MRST is released and phase BOOT begins (R149). -/
def endResetPhase (p : Pos) (s : State) : State :=
  s.withModule p
    { s.module p with state := .booting .boot, pulse := none, boot := some Config.bootTime, lastBatch := 0 }

/-- PULSE_TIMER_EXPIRY: the end of a SUSPECT pulse or of a RESTART's (R149, R150). -/
def execPulseTimerExpiry (p : Pos) (s : State) : Host.Outcome State Fault Refusal :=
  settled
    (if (s.module p).pulse.isSome then
      match (s.module p).state with
      | .suspect => enterBoot p Config.bootTime s
      | .booting .reset => endResetPhase p s
      | _ => s
    else s)

/-- PROBE_RETRY_EXPIRY (R149). -/
def execProbeRetryExpiry (p : Pos) (s : State) : Host.Outcome State Fault Refusal :=
  settled
    (if (s.module p).probeRetry.isSome ∧ (s.module p).state = .booting .probe then
      queueProbe p (s.withModule p { s.module p with probeRetry := none })
    else s)

/-! ### The transaction in flight (R132 to R134, R141) -/

/-- The transaction whose reply is awaited. -/
def awaited (s : State) : Option Transaction :=
  match s.mlc.tx with
  | some t =>
    match t.phase with
    | .waiting _ => some t
    | _ => none
  | none => none

/-- TAKE_QUEUE_HEAD, while the link is free (R141). -/
def execTakeQueueHead (s : State) : Host.Outcome State Fault Refusal :=
  settled (if s.mlc.tx.isNone then takeHeads (s.mlc.queue.length + 1) s else s)

/-- REQUEST_FRAME_SENT: the deadline runs from the last character of the frame (R132). -/
def execRequestFrameSent (s : State) : Host.Outcome State Fault Refusal :=
  settled
    (match s.mlc.tx with
      | some t =>
        match t.phase with
        | .sending => s.withMlc { s.mlc with tx := some { t with phase := .waiting Config.replyDeadline } }
        | _ => s
      | none => s)

/-- REPLY_DEADLINE_EXPIRY (R133). -/
def execReplyDeadlineExpiry (s : State) : Host.Outcome State Fault Refusal :=
  settled
    (match awaited s with
      | some t => failTry t timeoutError s
      | none => s)

/-- IDLE_WAIT_END: the frame is sent again (R134). -/
def execIdleWaitEnd (s : State) : Host.Outcome State Fault Refusal :=
  settled
    (match s.mlc.tx with
      | some t =>
        match t.phase with
        | .idleWait _ => s.withMlc { s.mlc with tx := some { t with tries := t.tries + 1, phase := .sending } }
        | _ => s
      | none => s)

/-- IDLE_WAIT_TIMEOUT: the next try fails without its frame being sent (R134). -/
def execIdleWaitTimeout (s : State) : Host.Outcome State Fault Refusal :=
  settled
    (match s.mlc.tx with
      | some t =>
        match t.phase with
        | .idleWait _ => failTry { t with tries := t.tries + 1 } timeoutError s
        | _ => s
      | none => s)

/-- STRAY_CHARACTER: discarded (R129). -/
def execStrayCharacter (_c : LinkChar) (s : State) : Host.Outcome State Fault Refusal := settled s

/-! ### Replies (R132, R133) -/

/-- A reply that ends a try: `f` when the request allows its kind, a kind error otherwise (R133). -/
def onReply (kind : Nat) (f : Transaction → State → State) (s : State) : State :=
  match awaited s with
  | none => s
  | some t => if (allowedReplies t.req.kind).contains kind then f t s else failTry t (errorCode .kind) s

/-- What a REPLY_OK does to the module itself (R152). -/
def replyOkModule (p : Pos) (kind : ReqKind) (s : State) : State :=
  match kind with
  | .sleep => if (s.module p).state = .inService then enterAsleep p s else s
  | .wake => if (s.module p).state = .asleep then enterBoot p Config.wakeTime s else s
  | _ => s

/-- REPLY_OK (R132). -/
def execReplyOk (s : State) : Host.Outcome State Fault Refusal :=
  settled
    (onReply 16 (fun t s => deliver t.req .ok (replyOkModule t.req.pos t.req.kind (endSuccess t s))) s)

/-- REPLY_NAK: BAD_FRAME fails the try, another reason is the result (R132, R133). -/
def execReplyNak (reason : NakReason) (s : State) : Host.Outcome State Fault Refusal :=
  settled
    (if reason = .badFrame then
      match awaited s with
      | some t => failTry t badFrameError s
      | none => s
    else onReply 17 (fun t s => deliver t.req (.nak reason) (endSuccess t s)) s)

/-- A STATUS ends its PROBE (R147, R149). CTU takes the report before the module enters IN_SERVICE, as from a module in
BOOTING (R3): the model's choice (log entry 42), by which a STATUS makes no key newly eligible. A module that is no longer in
phase PROBE keeps its state: the model's choice (log entry 51). -/
def takeStatus (r : CellReport) (t : Transaction) (s : State) : State :=
  let s := ctuIntake t.req.pos [r] (endSuccess t s)
  if (s.module t.req.pos).state = .booting .probe then enterService t.req.pos s else s

/-- STATUS (R149). -/
def execStatus (payload : List Byte) (s : State) : Host.Outcome State Fault Refusal :=
  settled
    (onReply 20
      (fun t s =>
        match parseStatus payload with
        | some r => takeStatus r t s
        | none => failTry t (errorCode .length) s)
      s)

/-- SCAN_LIST (R147). -/
def execScanList (payload : List Byte) (s : State) : Host.Outcome State Fault Refusal :=
  settled
    (onReply 18
      (fun t s =>
        match parseScanList payload with
        | some reports => post (.wchList t.req.pos t.req.number) (ctuIntake t.req.pos reports (endSuccess t s))
        | none => failTry t (errorCode .length) s)
      s)

/-- A batch of events (R144 to R146): a new one is recorded; ATN that is still active asks for a further POLL; then the
events are dispatched. -/
def takeBatch (batch : Byte) (records : List EventRecord) (t : Transaction) (s : State) : State :=
  let p := t.req.pos
  let s := endSuccess t s
  let new := batch ≠ (s.module p).lastBatch
  let s := if new then s.withModule p { s.module p with lastBatch := batch } else s
  let s := if (s.module p).atn ∧ (s.module p).state = .inService then queuePoll p s else s
  if new then dispatchRecords p records s else s

/-- EVENTS (R145). -/
def execEvents (payload : List Byte) (s : State) : Host.Outcome State Fault Refusal :=
  settled
    (onReply 19
      (fun t s =>
        match parseEvents payload with
        | some x => takeBatch x.1 x.2 t s
        | none => failTry t (errorCode .length) s)
      s)

/-- REPLY_ERROR (R133). -/
def execReplyError (error : ReplyErrorKind) (s : State) : Host.Outcome State Fault Refusal :=
  settled
    (match awaited s with
      | some t => failTry t (errorCode error) s
      | none => s)

/-! ### ATN (R144) -/

/-- ATN_ASSERTED (R144). -/
def execAtnAsserted (p : Pos) (s : State) : Host.Outcome State Fault Refusal :=
  settled
    (if (s.module p).atn then s
    else
      let s := s.withModule p { s.module p with atn := true }
      if (s.module p).state = .inService then
        let s := queuePoll p s
        s.withModule p { s.module p with poll := some (longTimer (currentPollInterval s)) }
      else s)

/-- ATN_INACTIVE (R144). -/
def execAtnInactive (p : Pos) (s : State) : Host.Outcome State Fault Refusal :=
  settled (s.withModule p { s.module p with atn := false })

/-! ### Module events (R146, log entry 9) -/

/-- CALL_PROCEEDING (R50). -/
def execCallProceeding (p : Pos) (s : State) : Host.Outcome State Fault Refusal :=
  settled (dispatchEvent p .proceeding s)

/-- CALL_ALERTING (R50). -/
def execCallAlerting (p : Pos) (s : State) : Host.Outcome State Fault Refusal := settled (dispatchEvent p .alerting s)

/-- CALL_ANSWERED (R55). -/
def execCallAnswered (p : Pos) (s : State) : Host.Outcome State Fault Refusal := settled (dispatchEvent p .answered s)

/-- CALL_ENDED (R76). -/
def execCallEnded (p : Pos) (cause : EndCause) (s : State) : Host.Outcome State Fault Refusal :=
  settled (dispatchEvent p (.ended cause) s)

/-- SERVICE_LOST (R76). -/
def execServiceLost (p : Pos) (s : State) : Host.Outcome State Fault Refusal := settled (dispatchEvent p .serviceLost s)

/-- INCOMING (R80). -/
def execIncoming (p : Pos) (caller : List Byte) (s : State) : Host.Outcome State Fault Refusal :=
  settled (dispatchEvent p (.incoming caller) s)

/-- SCAN_READY (R165). -/
def execScanReady (p : Pos) (count : Byte) (s : State) : Host.Outcome State Fault Refusal :=
  settled (dispatchEvent p (.scanReady count) s)

/-- DATA_RESULT (R100). -/
def execDataResult (p : Pos) (verdict : DataVerdict) (s : State) : Host.Outcome State Fault Refusal :=
  settled (dispatchEvent p (.dataResult verdict) s)

/-- LEVEL_REPORT (R8). -/
def execLevelReport (p : Pos) (level : BitVec 16) (quality : Option Byte) (s : State) :
    Host.Outcome State Fault Refusal :=
  settled (dispatchEvent p (.levelReport level quality) s)

/-! ### Scan timers (R33, R164, R165) -/

/-- SCAN_STAGGER_EXPIRY (R33). -/
def execScanStaggerExpiry (s : State) : Host.Outcome State Fault Refusal := settled (wchStaggerExpiry s)

/-- SCAN_INTERVAL_EXPIRY (R164). -/
def execScanIntervalExpiry (p : Pos) (s : State) : Host.Outcome State Fault Refusal := settled (wchIntervalExpiry p s)

/-- SCAN_LIMIT_EXPIRY (R165). -/
def execScanLimitExpiry (p : Pos) (s : State) : Host.Outcome State Fault Refusal := settled (wchLimitExpiry p s)

end Sys2Proof.Machine
end

