-- ==== Sys2Proof/Machine/PlanCommands.lean ====
section
/-! DEFINITION. The meanings of the commands of the working plan and the plan store. -/

namespace Sys2Proof.Machine

/-- GRACE_TIMER_EXPIRY (R180). -/
def execGraceTimerExpiry (s : State) : Host.Outcome State Fault Refusal := settled (plnGraceExpiry s)

/-- COPY_COMPLETION (R173). -/
def execCopyCompletion (s : State) : Host.Outcome State Fault Refusal := settled (plnCopyCompletion s)

/-- STORE_MARKER_DONE (R177). -/
def execStoreMarkerDone (s : State) : Host.Outcome State Fault Refusal := settled (plnMarkerDone s)

/-- ERASE_PASS_DONE (R177, R178). -/
def execErasePassDone (blank : Bool) (s : State) : Host.Outcome State Fault Refusal := settled (plnEraseDone blank s)

/-- PROGRAM_PASS_DONE (R177, R178). -/
def execProgramPassDone (matched : Bool) (s : State) : Host.Outcome State Fault Refusal :=
  settled (plnProgramDone matched s)

/-- STORE_COMPLETE_DONE (R177). -/
def execStoreCompleteDone (s : State) : Host.Outcome State Fault Refusal := settled (plnCompleteDone s)

/-- A plan field loses its parity (R181). The safe levels are being read while QUIET is active (R127), so damage there is
found at once (log entry 17). -/
def damagePlan (index : Nat) (s : State) : State :=
  let s := s.withPln
    { s.pln with damaged := if s.pln.damaged.contains index then s.pln.damaged else index :: s.pln.damaged }
  if index = 35 ∧ s.bsu.quiet.level then touch 35 s else s

/-- PLAN_WORD_DAMAGED (R181). -/
def execPlanWordDamaged (index : Nat) (s : State) : Host.Outcome State Fault Refusal :=
  if 1 ≤ index ∧ index ≤ 44 then settled (damagePlan index s) else .fault .noSuchPlanField

end Sys2Proof.Machine
end

