-- ==== Sys2Proof/Machine/Dispatch.lean ====
section
/-! DEFINITION. `exec`: one arm for each command, in the order of spec/opcode_table.json. -/

namespace Sys2Proof.Machine

/-- The effect of a command on everything but the queue. -/
def exec (i : Instr) (s : State) : Host.Outcome State Fault Refusal :=
  match i with
  | .powerOnReset straps pins => Sys2Proof.Machine.execPowerOnReset straps pins s
  | .pinReset straps pins => Sys2Proof.Machine.execPinReset straps pins s
  | .doze => Sys2Proof.Machine.execDoze s
  | .wake => Sys2Proof.Machine.execWake s
  | .softReset => Sys2Proof.Machine.execSoftReset s
  | .releaseFault => Sys2Proof.Machine.execReleaseFault s
  | .clearTally => Sys2Proof.Machine.execClearTally s
  | .offerWrite value => Sys2Proof.Machine.execOfferWrite value s
  | .doneWrite value => Sys2Proof.Machine.execDoneWrite value s
  | .causeWrite value => Sys2Proof.Machine.execCauseWrite value s
  | .causeenWrite value => Sys2Proof.Machine.execCauseenWrite value s
  | .lampsWrite value => Sys2Proof.Machine.execLampsWrite value s
  | .unusedRegisterWrite addr value => Sys2Proof.Machine.execUnusedRegisterWrite addr value s
  | .hostWrite addr value => Sys2Proof.Machine.execHostWrite addr value s
  | .placeOrder => Sys2Proof.Machine.execPlaceOrder s
  | .clearOrder => Sys2Proof.Machine.execClearOrder s
  | .scanOrder => Sys2Proof.Machine.execScanOrder s
  | .loadPlan => Sys2Proof.Machine.execLoadPlan s
  | .moduleOrder => Sys2Proof.Machine.execModuleOrder s
  | .unknownKind => Sys2Proof.Machine.execUnknownKind s
  | .secondsClockAdvance => Sys2Proof.Machine.execSecondsClockAdvance s
  | .benchExpiry => Sys2Proof.Machine.execBenchExpiry s
  | .callPress => Sys2Proof.Machine.execCallPress s
  | .hookOn => Sys2Proof.Machine.execHookOn s
  | .hookOff => Sys2Proof.Machine.execHookOff s
  | .doorOpen => Sys2Proof.Machine.execDoorOpen s
  | .doorClosed => Sys2Proof.Machine.execDoorClosed s
  | .quietOn => Sys2Proof.Machine.execQuietOn s
  | .quietOff => Sys2Proof.Machine.execQuietOff s
  | .patternTimerExpiry o => Sys2Proof.Machine.execPatternTimerExpiry o s
  | .wakeWaitExpiry => Sys2Proof.Machine.execWakeWaitExpiry s
  | .gatherTimerExpiry => Sys2Proof.Machine.execGatherTimerExpiry s
  | .backoffTimerExpiry => Sys2Proof.Machine.execBackoffTimerExpiry s
  | .launchStaggerExpiry => Sys2Proof.Machine.execLaunchStaggerExpiry s
  | .attemptTimerExpiry p => Sys2Proof.Machine.execAttemptTimerExpiry p s
  | .hookMaskExpiry => Sys2Proof.Machine.execHookMaskExpiry s
  | .callbackTimerExpiry => Sys2Proof.Machine.execCallbackTimerExpiry s
  | .acknowledgementTimerExpiry => Sys2Proof.Machine.execAcknowledgementTimerExpiry s
  | .gapTimerExpiry => Sys2Proof.Machine.execGapTimerExpiry s
  | .phaseTimerExpiry => Sys2Proof.Machine.execPhaseTimerExpiry s
  | .pollTimerExpiry p => Sys2Proof.Machine.execPollTimerExpiry p s
  | .bootTimerExpiry p => Sys2Proof.Machine.execBootTimerExpiry p s
  | .pulseTimerExpiry p => Sys2Proof.Machine.execPulseTimerExpiry p s
  | .probeRetryExpiry p => Sys2Proof.Machine.execProbeRetryExpiry p s
  | .replyDeadlineExpiry => Sys2Proof.Machine.execReplyDeadlineExpiry s
  | .idleWaitEnd => Sys2Proof.Machine.execIdleWaitEnd s
  | .idleWaitTimeout => Sys2Proof.Machine.execIdleWaitTimeout s
  | .scanStaggerExpiry => Sys2Proof.Machine.execScanStaggerExpiry s
  | .scanIntervalExpiry p => Sys2Proof.Machine.execScanIntervalExpiry p s
  | .scanLimitExpiry p => Sys2Proof.Machine.execScanLimitExpiry p s
  | .graceTimerExpiry => Sys2Proof.Machine.execGraceTimerExpiry s
  | .copyCompletion => Sys2Proof.Machine.execCopyCompletion s
  | .storeMarkerDone => Sys2Proof.Machine.execStoreMarkerDone s
  | .erasePassDone blank => Sys2Proof.Machine.execErasePassDone blank s
  | .programPassDone matched => Sys2Proof.Machine.execProgramPassDone matched s
  | .storeCompleteDone => Sys2Proof.Machine.execStoreCompleteDone s
  | .strayCharacter c => Sys2Proof.Machine.execStrayCharacter c s
  | .takeQueueHead => Sys2Proof.Machine.execTakeQueueHead s
  | .replyOk => Sys2Proof.Machine.execReplyOk s
  | .replyNak reason => Sys2Proof.Machine.execReplyNak reason s
  | .status payload => Sys2Proof.Machine.execStatus payload s
  | .scanList payload => Sys2Proof.Machine.execScanList payload s
  | .events payload => Sys2Proof.Machine.execEvents payload s
  | .atnAsserted p => Sys2Proof.Machine.execAtnAsserted p s
  | .callProceeding p => Sys2Proof.Machine.execCallProceeding p s
  | .callAlerting p => Sys2Proof.Machine.execCallAlerting p s
  | .callAnswered p => Sys2Proof.Machine.execCallAnswered p s
  | .callEnded p cause => Sys2Proof.Machine.execCallEnded p cause s
  | .serviceLost p => Sys2Proof.Machine.execServiceLost p s
  | .incoming p caller => Sys2Proof.Machine.execIncoming p caller s
  | .scanReady p count => Sys2Proof.Machine.execScanReady p count s
  | .dataResult p verdict => Sys2Proof.Machine.execDataResult p verdict s
  | .levelReport p level quality => Sys2Proof.Machine.execLevelReport p level quality s
  | .replyError error => Sys2Proof.Machine.execReplyError error s
  | .requestFrameSent => Sys2Proof.Machine.execRequestFrameSent s
  | .atnInactive p => Sys2Proof.Machine.execAtnInactive p s
  | .callRest => Sys2Proof.Machine.execCallRest s
  | .inputSample pins => Sys2Proof.Machine.execInputSample pins s
  | .planWordDamaged index => Sys2Proof.Machine.execPlanWordDamaged index s
  | .callStateFlagsDamaged flags => Sys2Proof.Machine.execCallStateFlagsDamaged flags s

end Sys2Proof.Machine
end

