-- ==== Sys2Proof/Machine/Step.lean ====
section
/-! DEFINITION. One step of the block, and how a command that a table word spells is placed at the front of its queue. -/

namespace Sys2Proof.Machine

/-- One step: the command at the front of the queue is taken and carried out on the state with the queue's rest. On an
empty queue the block idles (DESIGN CHOICE, log entry 3). -/
def step (s : State) : Host.Outcome State Fault Refusal :=
  match s.pending with
  | [] => .next s
  | c :: rest => exec c (s.withPending rest)

/-- The state with the command that a word spells put at the front of its queue; unchanged where it spells none. -/
def State.withFetchWord (s : State) (nbits w : Nat) : State :=
  match decodeTableWord nbits w with
  | some c => s.withPending (c :: s.pending)
  | none => s

end Sys2Proof.Machine
end

