-- ==== Sys2Proof/Safety.lean ====
section
/-! DEFINITION. The safety properties of the part's state that the spec states as always true, as decidable predicates on a
state. -/

namespace Sys2Proof.Machine

/-! ### The carrier table (R1, R6, R28) -/

/-- No entry stands below one that it ranks strictly above (R28). -/
def inRankOrder : List Entry → Bool
  | [] => true
  | e :: rest => rest.all (fun x => !ranksAbove x e) && inRankOrder rest

/-- No key twice (R1). -/
def distinctKeys : List Entry → Bool
  | [] => true
  | e :: rest => !rest.any (fun x => x.key == e.key) && distinctKeys rest

/-- The ranges of an entry's fields that the table itself keeps (R1, R4, R13, R15). -/
def entryInRange (e : Entry) : Bool :=
  decide (-130 ≤ e.level) && decide (e.level ≤ -40) && decide (e.quality.getD 0 ≤ 15) && decide (e.failures ≤ 7)
    && decide (e.age ≤ 65535) && e.key.tag != 0

/-- The carrier table: at most 24 entries, no key twice, in rank order, every field in its range (R1, R28). -/
def tableOk (table : List Entry) : Bool :=
  decide (table.length ≤ Config.tableCapacity) && distinctKeys table && inRankOrder table && table.all entryInRange

/-- The ranges of an entry's other fields, under a plan whose numbers are in range: the score 0 to 600, a bench time of 1
to 600 s, the insertion sequence from 1 to the counter's top (R1, R6, R22). -/
def entryBounded (e : Entry) : Bool :=
  decide (e.score ≤ 600) && decide (1 ≤ e.bench.getD 1) && decide (e.bench.getD 1 ≤ 600) && decide (1 ≤ e.seq)
    && decide (e.seq ≤ 4294967295)

/-- Every entry's other fields in range. -/
def tableBounded (table : List Entry) : Bool := table.all entryBounded

/-! ### The plans (R171) -/

/-- A number within a range. -/
def inRange (lo hi x : Nat) : Bool := decide (lo ≤ x) && decide (x ≤ hi)

/-- The hunt's numbers in the ranges of R171, fields 9 to 25. -/
def huntInRange (h : PlanHunt) : Bool :=
  inRange 0 15 h.weightLow && inRange 0 15 h.weightMid && inRange 0 15 h.weightHigh && inRange 1 8 h.perRound
    && inRange 1 3 h.concurrency && inRange 0 300 h.scoreFloor && decide (-130 ≤ h.minLevel) && decide (h.minLevel ≤ -90)
    && inRange 0 2000 h.stagger && h.stagger % 10 == 0 && inRange 5 60 h.setupTimeout && inRange 20 180 h.answerTimeout
    && inRange 1 30 h.backoffBase && inRange 0 7 h.messageRetries && inRange 10 300 h.backoffCap
    && decide (h.backoffBase ≤ h.backoffCap) && inRange 30 600 h.benchTime && inRange 600 7200 h.staleLimit
    && inRange 30 3600 h.scanInterval

/-- The call's numbers in the ranges of R171, fields 26 to 32 (the gap takes any value of its byte). -/
def callInRange (c : PlanCall) : Bool :=
  inRange 0 1800 c.callbackWindow && inRange 2 20 c.ackTimeout && inRange 0 30 c.holdAfter && inRange 0 255 c.gap
    && inRange 10 2000 c.reassureOn && c.reassureOn % 10 == 0 && inRange 100 10000 c.reassureOff
    && c.reassureOff % 10 == 0

/-- A plan whose numbers are in their ranges (R171). -/
def planInRange (p : Plan) : Bool := huntInRange p.hunt && callInRange p.call

/-- The plan of the store's image, if it holds one, is in range. -/
def areaInRange : ImageArea → Bool
  | .image plan _ => planInRange plan
  | .blank => true
  | .partly => true

/-- The clamped image that a store writes, if there is one, is in range. -/
def stagedInRange : Staged → Bool
  | .plan p => planInRange p
  | .bytes _ => true
  | .none => true

/-- Every plan PLN holds is in range: the working plan, the stored image and the image a store writes. -/
def plansInRange (p : Pln) : Bool := planInRange p.plan && areaInRange p.store.area && stagedInRange p.staged

/-! ### The request queue (R136, R137) -/

/-- Whether two requests contend for one place: a call place, a message place, or the one POLL of a module. -/
def samePlace (a b : Request) : Bool :=
  a.pos == b.pos
    && ((callOperation a.kind && callOperation b.kind) || (a.kind == .data && b.kind == .data)
      || (a.kind == .poll && b.kind == .poll))

/-- No place taken twice. -/
def distinctPlaces : List Request → Bool
  | [] => true
  | r :: rest => !rest.any (samePlace r) && distinctPlaces rest

/-- The request queue: at most 12 requests, never two POLL requests for a module, no class 1 place taken twice (R136,
R137). -/
def queueOk (queue : List Request) : Bool := decide (queue.length ≤ Config.queueCapacity) && distinctPlaces queue

/-! ### Faults, memory, orders -/

/-- The fault log holds at most 4 entries and the tally never exceeds 255 (R197). -/
def faultsOk (f : Flt) : Bool := decide (f.log.length ≤ Config.logCapacity) && decide (f.tally ≤ 255)

/-- At most one order of each kind is TAKEN (R189). -/
def ordersOk (slots : PerSlot SlotState) : Bool :=
  slotNumbers.all (fun j => slotNumbers.all (fun k =>
    j == k ||
      match slots.get j, slots.get k with
      | .taken a _, .taken b _ => a != b
      | _, _ => true))

/-- The gap timer runs in GAP alone (R106). -/
def switchOk (v : Vsw) : Bool :=
  match v.conn with
  | .gap _ => v.gapTimer.isSome
  | .linked _ => v.gapTimer.isNone
  | .none => v.gapTimer.isNone

/-- The active tone is the highest-priority requested tone, and its phase timer runs (R112, R113). -/
def tonesOk (v : Vsw) : Bool := v.active == topTone v.requested && v.phaseTimer.isSome == v.active.isSome

/-- The box inputs: every filter count below its filter's, HOOK at rest on a box without its strap (R118, R120). -/
def inputsOk (s : State) : Bool :=
  decide (s.bsu.call.count < Config.filterCall) && decide (s.bsu.hook.count < Config.filterHook)
    && decide (s.bsu.door.count < Config.filterDoor) && decide (s.bsu.quiet.count < Config.filterQuiet)
    && (s.straps.hook || s.bsu.hook == { level := false, count := 0 })

/-- Whether a pattern is a blink (R124). -/
def blinks : Pattern → Bool
  | .blink _ _ => true
  | .steadyOn => false
  | .steadyOff => false

/-- The pattern timer of an output: stopped in HOST (R125), in AUTO running exactly under a blink (R124). -/
def outputOk (x : OutputState) : Bool := x.timer.isSome == (!x.host && blinks x.pattern)

/-- Every output's pattern timer is as its mode and pattern have it. -/
def outputsOk (b : Bsu) : Bool := outputs.all (fun o => outputOk (b.outs.get o))

/-- The four generation words are even: none of the records they guard is being rewritten (R19, R90, R185). -/
def generationsEven (s : State) : Bool :=
  !s.smp.clockGen.getLsbD 0 && !s.smp.statusGen.getLsbD 0 && !s.ctu.mirrorGen.getLsbD 0 && !s.cal.fileGen.getLsbD 0

/-- The seven call state flags are those of the call's state: exactly one set (R200). -/
def callFlagsOk (c : Cal) : Bool := c.held7 == stateFlags c.ctx.state

/-! ### Words that the statements use: states in which nothing else is going on -/

/-- No internal event waits and no plan word is damaged. -/
def calmPart (s : State) : Bool := s.inbox == [] && s.pln.damaged == []

/-- The hunt rests: IDLE, with no record, no stray release and no wake wait. -/
def huntRests (s : State) : Bool :=
  s.hnt.state == .idle && noRecord s && s.hnt.stray == PerPos.all none && s.hnt.wakeWait.isNone

/-- No scan is wanted or under way, no gather and no SCAN order. -/
def scansRest (s : State) : Bool :=
  s.wch.order.isNone && !s.wch.gatherReport
    && positions.all (fun p =>
      (s.watch p).phase == .none && !(s.watch p).requested && !(s.watch p).due && !(s.watch p).again)

/-- Room for `n` more requests in the link queue. -/
def roomFor (n : Nat) (s : State) : Bool := decide (s.mlc.queue.length + n ≤ Config.queueCapacity)

/-- A request of a call operation for a position would be queued: its place is free, and there is room (R137, R138). -/
def callPlaceFree (p : Pos) (s : State) : Bool := (callPlace s.mlc.queue p).isNone && roomFor 1 s

/-- The request that MLC adds to its queue next (R136). -/
def nextRequest (s : State) (o : Requester) (p : Pos) (kind : ReqKind) (payload : List Byte) : Request :=
  { owners := [o], pos := p, kind := kind, payload := payload, number := s.mlc.nextNumber + 1 }

/-- ORD takes slot `k` next, with an order of a kind that passes its checks (R189). -/
def orderReady (s : State) (k : Fin 8) (kind : Nat) : Bool :=
  nextOffered s == some k && kindByte s k == kind && (badParameter kind s k).isNone && (otherTaken kind k s).isNone

/-- The order of slot `k` as its owner will hold it: with the next take number (R191). -/
def nextHeld (s : State) (k : Fin 8) : Held := { slot := k, take := s.ord.takeNumber + 1 }

/-! ### Words for what a command leaves behind -/

/-- The two resets (R179). -/
def isReset : Instr → Bool
  | .powerOnReset _ _ => true
  | .pinReset _ _ => true
  | _ => false

/-- The commands with which ORD takes an order (R189). -/
def takesOrder : Instr → Bool
  | .placeOrder => true
  | .clearOrder => true
  | .scanOrder => true
  | .loadPlan => true
  | .moduleOrder => true
  | .unknownKind => true
  | _ => false

/-- The command that takes an order of a kind. -/
def orderCommand : Nat → Instr
  | 1 => .placeOrder
  | 2 => .clearOrder
  | 3 => .scanOrder
  | 4 => .loadPlan
  | 5 => .moduleOrder
  | _ => .unknownKind

/-- The command that stands for the dispatch of a module event. -/
def eventCommand (p : Pos) : ModuleEvent → Instr
  | .proceeding => .callProceeding p
  | .alerting => .callAlerting p
  | .answered => .callAnswered p
  | .ended cause => .callEnded p cause
  | .incoming caller => .incoming p caller
  | .scanReady count => .scanReady p count
  | .dataResult v => .dataResult p v
  | .levelReport level quality => .levelReport p level quality
  | .serviceLost => .serviceLost p

/-- The module events that set off no event of another module: progress of an attempt, a scan's end, a level (R146). -/
def quietEvent : ModuleEvent → Bool
  | .proceeding => true
  | .alerting => true
  | .scanReady _ => true
  | .levelReport _ _ => true
  | _ => false

/-- The events of one module act one after another, each as its own command. -/
def actInTurn (p : Pos) : List ModuleEvent → State → Host.Outcome State Fault Refusal
  | [], s => .next s
  | e :: rest, s =>
    match exec (eventCommand p e) s with
    | .next t => actInTurn p rest t
    | o => o

/-- Whether an address lies in the result fields of slot `k` (R190). -/
def inResult (k : Fin 8) (a : Nat) : Prop := slotBase k + 44 ≤ a ∧ a < slotBase k + 52

/-- Slot `k` has been taken and stays with its owner: the slot is TAKEN with the next take number, its result fields read
0, and of the slots and the memory nothing else has changed (R189, R190). -/
structure SlotTaken (s t : State) (k : Fin 8) (kind : Nat) : Prop where
  slot : t.ord.slots = s.ord.slots.set k (.taken kind (s.ord.takeNumber + 1))
  take : t.ord.takeNumber = s.ord.takeNumber + 1
  result : ∀ a, inResult k a → memRead t.smp.mem a = 0
  memory : ∀ a, ¬ inResult k a → memRead t.smp.mem a = memRead s.smp.mem a

/-- Slot `k` has been taken and its order completed in the same event (R189, R191): the slot is DONE with outcome, detail
and completion time, ORDER_DONE is pending, and nothing else has changed. -/
structure TurnedAway (s t : State) (k : Fin 8) (outcome : OrderOutcome) (detail : Word) : Prop where
  slot : t.ord.slots = s.ord.slots.set k .done
  take : t.ord.takeNumber = s.ord.takeNumber + 1
  result : ∀ i, i < 8 →
    memRead t.smp.mem (slotBase k + 44 + i) = (resultBytes (outcomeCode outcome) detail s.clock).getD i 0
  memory : ∀ a, ¬ inResult k a → memRead t.smp.mem a = memRead s.smp.mem a
  causes : t.smp.causes = causeSet s.smp.causes .orderDone
  port : { t.smp with mem := s.smp.mem, causes := s.smp.causes } = s.smp
  rest : (t.withOrd s.ord).withSmp s.smp = s

/-- A TAKEN order has been completed (R191): its slot is DONE, its result fields hold outcome, detail and completion time, no
other byte has changed, and ORDER_DONE is pending. -/
structure Completed (s t : State) (h : Held) (outcome : OrderOutcome) (detail : Word) : Prop where
  slot : t.ord.slots = s.ord.slots.set h.slot .done
  result : ∀ i, i < 8 →
    memRead t.smp.mem (slotBase h.slot + 44 + i) = (resultBytes (outcomeCode outcome) detail s.clock).getD i 0
  memory : ∀ a, ¬ inResult h.slot a → memRead t.smp.mem a = memRead s.smp.mem a
  cause : t.smp.causes.getLsbD 7 = true

/-- An output has taken the pattern selected for it, in the call's state `call` and with the modules and the plan source of
`t` (R123): in HOST nothing changes; in AUTO a pattern that is still the selected one goes on, and a different one starts
(R124). -/
def LampFollows (s t : State) (call : CallState) (o : Output) : Prop :=
  let x := s.bsu.outs.get o
  let p := selectPattern call (anyUsable t.mlc.modules) t.pln.source o
  t.bsu.outs.get o = if x.host = true ∨ x.pattern = p then x else startPattern p x

/-- LAMP_CALL, LAMP_LINK and BEACON have taken the call's state (R87, R123). -/
def LampsFollow (s t : State) (call : CallState) : Prop := ∀ o, o ≠ .lampFault → LampFollows s t call o

/-- A new call of a kind has started (R67): its context, its hunt, its lamps, and CALL_STARTED pending. -/
structure CallBegun (s t : State) (kind : CallKind) : Prop where
  state : t.cal.ctx.state = .hunting
  callKind : t.cal.ctx.kind = kind
  sequence : t.cal.ctx.sequence = s.cal.counter + 1
  counter : t.cal.counter = s.cal.counter + 1
  start : t.cal.ctx.start = some s.clock
  connect : t.cal.ctx.connect = none
  serving : t.cal.ctx.serving = none
  message : t.cal.ctx.message = .pending
  flags : t.cal.ctx.flags = ⟨false, false, false, false, false, false⟩
  reestablishes : t.cal.ctx.reestablishes = 0
  presses : t.cal.ctx.presses = 0
  lastEnd : t.cal.ctx.lastEnd = .none
  window : s.cal.ctx.state = .callbackWait → t.cal.callbackTimer = none ∧ t.cal.ctx.callback = 0
  huntLink : t.cal.ctx.huntLink = .active
  hunt : t.hnt.kind = kind ∧ t.hnt.state ≠ .idle
  lamps : LampsFollow s t .hunting
  started : t.smp.causes.getLsbD 2 = true

/-- The hunt of a connected call has nothing left to release: there is none, or it is WON with no record. -/
def huntSettled (s : State) : Bool :=
  s.cal.ctx.huntLink == .none || (s.cal.ctx.huntLink == .active && s.hnt.state == .won && noRecord s)

/-- The call clears and waits for one RELEASE (R83): the connection at `p` has been let go, and the hunt stopped. -/
structure Clearing (s t : State) (p : Pos) (cause : LastEnd) (toCallback : Bool) : Prop where
  state : t.cal.ctx.state = .clearing
  lastEnd : t.cal.ctx.lastEnd = cause
  serving : t.cal.ctx.serving = none
  destination : t.cal.destination = toCallback
  releases : t.cal.ctx.releases = s.cal.ctx.releases.set p true
  queue : t.mlc.queue = s.mlc.queue ++ [nextRequest s .calRelease p .release []]
  voice : t.vsw.conn = .none
  lamps : LampsFollow s t .clearing
  mask : t.cal.mask = none
  link : t.cal.ctx.huntLink = .none
  hunt : s.cal.ctx.huntLink = .active → t.hnt.state = .idle
  noHunt : s.cal.ctx.huntLink = .none → t.hnt = s.hnt
  carrier : ∀ k, s.cal.ctx.serving = some (.hunted k) → ∀ e ∈ t.ctu.table, e.key = k → e.serving = false

/-! ### Words for the carrier table

A score is written `scoreOf plan x` where `x` is the entry that carries it: a score reads every field but itself (R22). -/

/-- An entry has been put into a table at the place the rank order gives it: below every entry that it does not rank
above, and so below the older of a tie (R6, R28). -/
def Placed (x : Entry) (old new : List Entry) : Prop :=
  ∃ hi lo, old = hi ++ lo ∧ new = hi ++ x :: lo ∧ (∀ y ∈ hi, ranksAbove x y = false) ∧ ∀ y ∈ lo, ranksAbove x y = true

/-- A level brought into −130 to −40 dBm (R4). -/
def levelTaken (l : Int) : Int := if l < -130 then -130 else if -40 < l then -40 else l

/-- A quality brought to 15 at most; absent stays absent (R4). -/
def qualityTaken : Option Nat → Option Nat
  | some q => some (if 15 < q then 15 else q)
  | none => none

/-- A known key's entry after a report: the four fields of R5 and the score afresh. -/
def Refreshed (plan : Plan) (r : CellReport) (e x : Entry) : Prop :=
  x = { e with
    level := levelTaken r.level, quality := qualityTaken r.quality, networkBarred := r.barred, age := 0
    score := scoreOf plan x }

/-- The entry that a report of a new key creates, with the insertion sequence `seq` (R6). -/
def Created (plan : Plan) (p : Pos) (r : CellReport) (b : Band) (seq : Nat) (x : Entry) : Prop :=
  x = { key := ⟨p, r.tag, r.channel⟩, band := b, level := levelTaken r.level, quality := qualityTaken r.quality
        networkBarred := r.barred, planBarred := plan.lists.barred.contains r.tag, failures := 0, bench := none, age := 0
        score := scoreOf plan x, last := .none, inAttempt := false, serving := false, seq := seq }

/-- The intake of one cell report from a position turns `c` into `d` (R4 to R7). -/
structure ReportTaken (plan : Plan) (p : Pos) (r : CellReport) (c d : Ctu) : Prop where
  mirror : d.mirrorGen = c.mirrorGen
  /-- A report with tag 0, or with a band code that names no band class, is discarded (R4). -/
  discarded : (r.tag = 0 ∨ r.band = none) → d = c
  /-- A known key: its entry is updated and re-placed, and the band class of the report is ignored (R5). -/
  known : r.tag ≠ 0 → r.band ≠ none → ∀ hi e lo, c.table = hi ++ e :: lo → e.key = ⟨p, r.tag, r.channel⟩ →
    d.seq = c.seq ∧ ∃ x, Refreshed plan r e x ∧ Placed x (hi ++ lo) d.table
  /-- A new key with room in the table (R6). -/
  room : r.tag ≠ 0 → ∀ b, r.band = some b → (∀ e ∈ c.table, e.key ≠ ⟨p, r.tag, r.channel⟩) → c.table.length < 24 →
    d.seq = min (c.seq + 1) 4294967295 ∧ ∃ x, Created plan p r b d.seq x ∧ Placed x c.table d.table
  /-- A new key with the table full: the lowest-ranked unprotected entry gives way to a strictly higher score, and
  otherwise the report is dropped (R7). -/
  full : r.tag ≠ 0 → ∀ b, r.band = some b → (∀ e ∈ c.table, e.key ≠ ⟨p, r.tag, r.channel⟩) → c.table.length = 24 →
    ∀ hi low lo, c.table = hi ++ low :: lo → low.inAttempt = false → low.serving = false →
    (∀ e ∈ lo, e.inAttempt = true ∨ e.serving = true) → ∀ x, Created plan p r b (min (c.seq + 1) 4294967295) x →
    (low.score < x.score → d.seq = x.seq ∧ Placed x (hi ++ lo) d.table) ∧ (x.score ≤ low.score → d = c)
  /-- A new key with the table full of protected entries: the report is dropped (R7). -/
  guarded : (∀ e ∈ c.table, e.key ≠ ⟨p, r.tag, r.channel⟩) → c.table.length = 24 →
    (∀ e ∈ c.table, e.inAttempt = true ∨ e.serving = true) → d = c

/-- The intake of the reports of one event, in their order (R3). -/
inductive ReportsTaken (plan : Plan) (p : Pos) : List CellReport → Ctu → Ctu → Prop where
  | none (c : Ctu) : ReportsTaken plan p [] c c
  | next {r : CellReport} {rest : List CellReport} {c d e : Ctu} (first : ReportTaken plan p r c d)
      (others : ReportsTaken plan p rest d e) : ReportsTaken plan p (r :: rest) c e

/-- The intake of a LEVEL_REPORT at the serving entry of a position (R8). -/
structure LevelTaken (plan : Plan) (p : Pos) (level : Int) (quality : Option Nat) (c d : Ctu) : Prop where
  sequence : d.seq = c.seq
  mirror : d.mirrorGen = c.mirrorGen
  /-- No serving entry at the position: the report changes nothing. -/
  dropped : (∀ e ∈ c.table, e.serving = true → e.key.pos ≠ p) → d = c
  /-- The serving entry takes the level and, where it is present, the quality, and is re-placed. -/
  taken : ∀ hi e lo, c.table = hi ++ e :: lo → e.serving = true → e.key.pos = p →
    (∀ y ∈ hi, y.serving = true → y.key.pos ≠ p) →
    ∃ x : Entry, x = { e with
        level := levelTaken level, age := 0, score := scoreOf plan x
        quality := if quality.isSome then qualityTaken quality else e.quality } ∧
      Placed x (hi ++ lo) d.table

/-- CTU has ended an event that turned its table into that of `d`: one move of the mirror's generation word and
TABLE_CHANGED pending when the table has changed, both as they were otherwise (R9, R19). -/
def TablePublished (s t : State) (d : Ctu) : Prop :=
  t.ctu = { d with mirrorGen := if d.table = s.ctu.table then s.ctu.mirrorGen else s.ctu.mirrorGen + 2 } ∧
    (d.table ≠ s.ctu.table → t.smp.causes.getLsbD 9 = true) ∧
    (d.table = s.ctu.table → t.smp.causes.getLsbD 9 = s.smp.causes.getLsbD 9)

/-- An entry after an advance of the seconds clock (R13): a second older, 65,535 at most; the bench a second shorter, and
at its end failure count 4; the score afresh where the age has come to a multiple of 16 or the bench has ended. -/
def Ticked (plan : Plan) (e x : Entry) : Prop :=
  let ends := e.bench.any (fun n => decide (n ≤ 1))
  x = { e with
    age := min (e.age + 1) 65535
    bench := if ends then none else e.bench.map (· - 1)
    failures := if ends then 4 else e.failures
    score := if ends ∨ (e.age < 65535 ∧ (e.age + 1) % 16 = 0) then scoreOf plan x else e.score }

/-- The carrier table under a new plan (R18): every entry with its plan-barred flag and its score afresh and nothing else
changed, in rank order. -/
structure TableReplanned (plan : Plan) (old new : List Entry) : Prop where
  length : new.length = old.length
  order : inRankOrder new = true
  entries : ∀ e ∈ old, ∃ x ∈ new,
    x = { e with planBarred := plan.lists.barred.contains e.key.tag, score := scoreOf plan x }

/-! ### Words for a plan image (R171, R174, R175) -/

/-- The bytes of an image as numbers: one byte, and a little-endian field of two, three or four. -/
def imageByte (raw : List Byte) (k : Nat) : Nat := (raw.getD k 0).toNat
def imageWord (raw : List Byte) (k : Nat) : Nat := imageByte raw k + 256 * imageByte raw (k + 1)
def imageTag (raw : List Byte) (k : Nat) : Nat := imageWord raw k + 65536 * imageByte raw (k + 2)
def imageLong (raw : List Byte) (k : Nat) : Nat := imageWord raw k + 65536 * imageWord raw (k + 2)

/-- A signed field of `bits` bits, read from its unsigned value. -/
def signed (bits x : Nat) : Int := if x < 2 ^ (bits - 1) then x else (x : Int) - 2 ^ bits

/-- The characters of an image from `k` up. -/
def imageRun (raw : List Byte) (k n : Nat) : List Byte := (List.range n).map (fun j => raw.getD (k + j) 0)

/-- A digit string whose length byte stands at `k` is not one: its length is 1 to 20, its characters 0 to 9, *, # and + (the
digit-string test of R174). -/
def notDigits (raw : List Byte) (k : Nat) : Bool :=
  let n := imageByte raw k
  !inRange 1 20 n || (List.range n).any (fun j =>
    let c := imageByte raw (k + 1 + j)
    !(inRange 0x30 0x39 c || c == 0x2A || c == 0x23 || c == 0x2B))

/-- A list of `n` tags with slots from `k` up holds a tag 0 or one tag twice. -/
def badTags (raw : List Byte) (k n : Nat) : Bool :=
  let tag := fun j => imageTag raw (k + 4 * j)
  (List.range n).any (fun j => tag j == 0 || (List.range j).any (fun i => tag i == tag j))

/-- A character that is not 0x20 to 0x7E stands in a run. -/
def unprintable (raw : List Byte) (k n : Nat) : Bool :=
  (List.range n).any (fun j => !inRange 0x20 0x7E (imageByte raw (k + j)))

/-- Whether the check of a plan field fails on an image: the checks of R174, by the field's index. -/
def imageFails (straps : Straps) (raw : List Byte) (index : Nat) : Bool :=
  let b := imageByte raw
  let located := b 221 != 0
  match index with
  | 1 => imageWord raw 0 != 1
  | 2 => !inRange 1 4 (b 2)
  | 3 => (List.range (b 2)).any (fun j => 1 < b (4 + 22 * j) || (b (4 + 22 * j) == 1 && notDigits raw (5 + 22 * j)))
  | 4 => 1 < b 92 || (b 92 == 1 && notDigits raw 93)
  | 5 => 8 < b 114
  | 6 => 8 < b 115
  | 7 => badTags raw 116 (b 114)
  | 8 => badTags raw 148 (b 115)
  | 14 => 1 < b 185
  | 33 =>
    2 < b 214 || 2 < b 215 || 2 < b 216
      || !positions.any (fun p => p.val < max straps.wiredCode.toNat 1 && b (214 + p.val) == 0)
  | 34 => !inRange 1 7 (b 217) || !inRange 1 7 (b 218) || !inRange 1 7 (b 219)
  | 36 => 1 < b 221
  | 37 => located && 15 < b 222
  | 38 => located && unprintable raw 224 16
  | 39 => located && (90000000 < (signed 32 (imageLong raw 240)).natAbs)
  | 40 => located && (180000000 < (signed 32 (imageLong raw 244)).natAbs)
  | 43 => located && 32 < b 254
  | 44 => located && unprintable raw 255 (b 254)
  | _ => false

/-- The nearer end of a range for a value outside it, the value itself inside. -/
def nearest (lo hi x : Nat) : Nat := if x < lo then lo else if hi < x then hi else x

/-- A time brought into a range and then lowered to a multiple of 10 ms. -/
def nearestTen (lo hi x : Nat) : Nat := nearest lo hi x - nearest lo hi x % 10

/-- The plan that an image loads: every field as the image's bytes give it (R171), the clamp fields brought into their
ranges; and how many of those changed (R175). -/
structure ImageLoaded (raw : List Byte) (plan : Plan) (count : Nat) : Prop where
  forms : plan.lists.dialForms = (List.range (imageByte raw 2)).map (fun j =>
    if imageByte raw (4 + 22 * j) = 0 then .category
    else .digits (imageRun raw (6 + 22 * j) (imageByte raw (5 + 22 * j))))
  testDial : plan.lists.testDial =
    if imageByte raw 92 = 0 then none else some (imageRun raw 94 (imageByte raw 93))
  preferred : plan.lists.preferred =
    (List.range (imageByte raw 114)).map (fun j => BitVec.ofNat 24 (imageTag raw (116 + 4 * j)))
  barred : plan.lists.barred =
    (List.range (imageByte raw 115)).map (fun j => BitVec.ofNat 24 (imageTag raw (148 + 4 * j)))
  hunt : plan.hunt =
    { weightLow := nearest 0 15 (imageByte raw 180), weightMid := nearest 0 15 (imageByte raw 181)
      weightHigh := nearest 0 15 (imageByte raw 182), perRound := nearest 1 8 (imageByte raw 183)
      concurrency := nearest 1 3 (imageByte raw 184)
      scanScope := if imageByte raw 185 = 0 then .awakeOnly else .awakeAndDoze
      scoreFloor := nearest 0 300 (imageWord raw 186)
      minLevel := max (-130) (min (-90) (signed 16 (imageWord raw 188)))
      stagger := nearestTen 0 2000 (imageWord raw 190), setupTimeout := nearest 5 60 (imageByte raw 192)
      answerTimeout := nearest 20 180 (imageByte raw 193), backoffBase := nearest 1 30 (imageByte raw 194)
      messageRetries := nearest 0 7 (imageByte raw 195)
      backoffCap := max (nearest 10 300 (imageWord raw 196)) (nearest 1 30 (imageByte raw 194))
      benchTime := nearest 30 600 (imageWord raw 198), staleLimit := nearest 600 7200 (imageWord raw 200)
      scanInterval := nearest 30 3600 (imageWord raw 202) }
  call : plan.call =
    { callbackWindow := nearest 0 1800 (imageWord raw 204), idleAnswer := imageByte raw 206 % 2 == 1
      ackTimeout := nearest 2 20 (imageByte raw 207), holdAfter := nearest 0 30 (imageByte raw 208)
      gap := imageByte raw 209, reassureOn := nearestTen 10 2000 (imageWord raw 210)
      reassureOff := nearestTen 100 10000 (imageWord raw 212) }
  roles : ∀ p : Pos, plan.roles.get p =
    if imageByte raw (214 + p.val) = 0 then .active else if imageByte raw (214 + p.val) = 1 then .spare else .absent
  allowed : ∀ p : Pos, plan.allowed.get p =
    ⟨imageByte raw (217 + p.val) % 2 == 1, imageByte raw (217 + p.val) / 2 % 2 == 1, imageByte raw (217 + p.val) / 4 % 2 == 1⟩
  safe : ∀ o, plan.safeLevels.get o = (imageByte raw 220 / 2 ^ outputBit o % 2 == 1)
  location : plan.location =
    if imageByte raw 221 = 0 then none
    else
      some
        { direction := raw.getD 222 0, boxId := imageRun raw 224 16, latitude := BitVec.ofNat 32 (imageLong raw 240)
          longitude := BitVec.ofNat 32 (imageLong raw 244), route := BitVec.ofNat 16 (imageWord raw 248)
          along := BitVec.ofNat 32 (imageLong raw 250), text := imageRun raw 255 (imageByte raw 254) }
  changed : count =
    (([ (imageByte raw 180, plan.hunt.weightLow), (imageByte raw 181, plan.hunt.weightMid)
        , (imageByte raw 182, plan.hunt.weightHigh), (imageByte raw 183, plan.hunt.perRound)
        , (imageByte raw 184, plan.hunt.concurrency), (imageWord raw 186, plan.hunt.scoreFloor)
        , (imageWord raw 190, plan.hunt.stagger), (imageByte raw 192, plan.hunt.setupTimeout)
        , (imageByte raw 193, plan.hunt.answerTimeout), (imageByte raw 194, plan.hunt.backoffBase)
        , (imageByte raw 195, plan.hunt.messageRetries), (imageWord raw 196, plan.hunt.backoffCap)
        , (imageWord raw 198, plan.hunt.benchTime), (imageWord raw 200, plan.hunt.staleLimit)
        , (imageWord raw 202, plan.hunt.scanInterval), (imageWord raw 204, plan.call.callbackWindow)
        , (imageByte raw 207, plan.call.ackTimeout), (imageByte raw 208, plan.call.holdAfter)
        , (imageWord raw 210, plan.call.reassureOn), (imageWord raw 212, plan.call.reassureOff) ] : List (Nat × Nat)).filter
      (fun x => x.1 != x.2)).length
    + (if signed 16 (imageWord raw 188) = plan.hunt.minLevel then 0 else 1)

end Sys2Proof.Machine
end

