-- ==== Sys2Proof/Certificates/Slice0/Obligations.lean ====
section
/-! DEFINITION. The statements for the provers: what one step does, what every step keeps, and what each command does.
Each docstring names the rules of spec/ behind its statement, and the log entries where a clause is the model's own
choice. -/

open Sys2Proof Sys2Proof.Machine

/-! ### The step -/

/-- A step runs the command at the front of the queue on the state with the queue's rest; on an empty queue the block
idles (the model's choice, log entry 3). -/
def Obligations.StepRunsTheFront : Prop :=
  (∀ (c : Instr) (rest : List Instr) (s : State), s.pending = c :: rest → step s = exec c (s.withPending rest)) ∧
    ∀ s : State, s.pending = [] → step s = .next s

/-- Every well-formed command runs in every state, none is refused, and what stops is an ill-formed command of four kinds
(the model's choice, log entry 39).

A command leaves the rest of the queue alone, and no internal event waits after it (the model's choice, log entries
5 and 6). -/
def Obligations.CommandsRunAndLeaveTheQueue : Prop :=
  ((∀ (c : Instr) (s : State), c.wellFormed = true → ∃ t, exec c s = .next t) ∧
     (∀ (c : Instr) (s : State) (r : Refusal), exec c s ≠ .refused r) ∧
     (∀ (addr : BitVec 12) (v : Word) (s : State), addr.toNat % 2 = 1 → exec (.hostWrite addr v) s = .fault .oddAddress) ∧
     (∀ (addr : BitVec 11) (v : Word) (s : State), addr.toNat < 6 →
       exec (.unusedRegisterWrite addr v) s = .fault .registerInUse) ∧
     (∀ (i : Nat) (s : State), (i = 0 ∨ 44 < i) → exec (.planWordDamaged i) s = .fault .noSuchPlanField) ∧
     ∀ (f : BitVec 7) (s : State), flagsSet f = 1 → exec (.callStateFlagsDamaged f) s = .fault .flagsNotDamaged) ∧
  (State.reset.inbox = [] ∧
     ∀ (c : Instr) (s t : State), exec c s = .next t → t.pending = s.pending ∧ t.inbox = [])

/-! ### What every step keeps -/

/-- The memory keeps its canonical form: addresses rising, none outside the 4 KiB that the part has (R182), no byte 0
listed. That the memory is a list of its bytes other than 0, in rising order, is the model's representation (the model's
choice, log entry 29). -/
def Obligations.MemoryStaysCanonical : Prop :=
  ∀ s t : State, Memory.wf s.smp.mem = true → step s = .next t → Memory.wf t.smp.mem = true

/-- The fault log never holds more than 4 entries, and the tally never exceeds 255 (R197). -/
def Obligations.FaultLogStaysInRange : Prop :=
  ∀ s t : State, faultsOk s.flt = true → step s = .next t → faultsOk t.flt = true

/-- At most one order of each kind is TAKEN (R189). -/
def Obligations.OneOrderOfAKindStaysTaken : Prop :=
  ∀ s t : State, ordersOk s.ord.slots = true → step s = .next t → ordersOk t.ord.slots = true

/-- The link queue never holds more than 12 requests, never two for one call place, message place or POLL (R136, R137,
R139). -/
def Obligations.RequestQueueStaysSound : Prop :=
  ∀ s t : State, queueOk s.mlc.queue = true → step s = .next t → queueOk t.mlc.queue = true

/-- The carrier table keeps at most 24 entries, no key twice, in rank order, with level, quality, failure count and age in
their ranges and no tag 0 (R1, R4, R28).

Where every plan that PLN holds has its numbers in the ranges of R171, it stays so, and the other fields of the entries keep
their ranges too: the score 0 to 600, a bench time 1 to 600 s, the insertion sequence 1 to 4,294,967,295 (R1, R6, R22,
R175). -/
def Obligations.CarrierTableStaysRanked : Prop :=
  (∀ s t : State, tableOk s.ctu.table = true → step s = .next t → tableOk t.ctu.table = true) ∧
  ∀ s t : State, plansInRange s.pln = true → tableOk s.ctu.table = true → tableBounded s.ctu.table = true →
    step s = .next t → plansInRange t.pln = true ∧ tableBounded t.ctu.table = true

/-- The gap timer runs in GAP alone (R106); the active tone is the highest-priority requested one, with its phase timer
(R112, R113). -/
def Obligations.SwitchAndTonesStaySound : Prop :=
  ∀ s t : State, switchOk s.vsw = true → tonesOk s.vsw = true → step s = .next t →
    switchOk t.vsw = true ∧ tonesOk t.vsw = true

/-- Every filter count stays below its filter's (R118), and HOOK stays at rest on a box without its strap (R120). Every
output's pattern timer stays stopped in HOST (R125), and in AUTO runs exactly while the pattern is a blink (R124). -/
def Obligations.InputsAndOutputsStaySound : Prop :=
  (∀ s t : State, inputsOk s = true → step s = .next t → inputsOk t = true) ∧
  ∀ s t : State, outputsOk s.bsu = true → step s = .next t → outputsOk t.bsu = true

/-- The seven call state flags follow the call's state, unless the command is one that damages them (R200). -/
def Obligations.CallFlagsFollowTheState : Prop :=
  ∀ s t : State, callFlagsOk s.cal = true → (∀ f rest, s.pending ≠ .callStateFlagsDamaged f :: rest) →
    step s = .next t → callFlagsOk t.cal = true

/-- No clearing that is over stands between commands: its end is taken in the event that brings it (R83). -/
def Obligations.NoFinishedClearingStands : Prop :=
  ∀ s t : State, clearingOver s = false → step s = .next t → clearingOver t = false

/-- The invariants above hold right after reset. -/
def Obligations.InvariantsHoldAtReset : Prop :=
  Memory.wf State.reset.smp.mem = true ∧ faultsOk State.reset.flt = true ∧ ordersOk State.reset.ord.slots = true ∧
    queueOk State.reset.mlc.queue = true ∧ tableOk State.reset.ctu.table = true ∧ switchOk State.reset.vsw = true ∧
    tonesOk State.reset.vsw = true ∧ inputsOk State.reset = true ∧ callFlagsOk State.reset.cal = true ∧
    clearingOver State.reset = false ∧ plansInRange State.reset.pln = true ∧ tableBounded State.reset.ctu.table = true ∧
    outputsOk State.reset.bsu = true ∧ generationsEven State.reset = true

/-! ### What the commands leave alone -/

/-- The seconds clock moves by one at an advance and is 0 after a reset, and no other command moves it (R186); the straps
are those latched at the last reset (R179).

The fault log only grows at its end, and the tally only rises, but for the commands that empty them (R197, R198). -/
def Obligations.ClockStrapsAndFaultLogMoveAsGiven : Prop :=
  (∀ (c : Instr) (s t : State), exec c s = .next t →
     (t.clock = s.clock ∨ ((c = .secondsClockAdvance ∨ c = .benchExpiry) ∧ t.clock = s.clock + 1) ∨
         (isReset c = true ∧ t.clock = 0)) ∧
       (t.straps = s.straps ∨ ∃ straps pins, (c = .powerOnReset straps pins ∨ c = .pinReset straps pins) ∧
         t.straps = straps)) ∧
  (∀ (c : Instr) (s t : State), exec c s = .next t → isReset c = false → c ≠ .softReset → s.flt.tally ≤ 255 →
     (c ≠ .releaseFault → s.flt.log <+: t.flt.log) ∧ (c ≠ .clearTally → s.flt.tally ≤ t.flt.tally))

/-- The enables change by CAUSEEN, a soft reset and a reset alone; a pending cause is cleared by CAUSE, a soft reset and a
reset alone (R192, R193); the take number rises by one where an order is taken (R191); and a slot that is not TAKEN
changes by OFFER, DONE, the taking of an order, a soft reset and a reset alone (R188, R191, R195).

But for a host write and a reset, no byte of the memory changes except the result fields of a slot that is taken or
completed in the command (R183, R190).

No command leaves a generation word odd that found them all even: a rewrite is finished within its event (R19, R90,
R185). -/
def Obligations.HostSideAndMemoryChangeAtTheirCommands : Prop :=
  (∀ (c : Instr) (s t : State), exec c s = .next t → isReset c = false → c ≠ .softReset →
     (t.smp.enables = s.smp.enables ∨ ∃ v, c = .causeenWrite v) ∧
     (∀ i, s.smp.causes.getLsbD i = true → t.smp.causes.getLsbD i = true ∨ ∃ v : Word, c = .causeWrite v ∧
       v.getLsbD i = true) ∧
     (t.ord.takeNumber = s.ord.takeNumber ∨ (takesOrder c = true ∧ t.ord.takeNumber = s.ord.takeNumber + 1)) ∧
     ∀ k, t.ord.slots.get k = s.ord.slots.get k ∨
       ((∃ kind take, s.ord.slots.get k = .taken kind take) ∧ t.ord.slots.get k = .done) ∨
       takesOrder c = true ∨ (∃ v, c = .offerWrite v) ∨ ∃ v, c = .doneWrite v) ∧
  (∀ (c : Instr) (s t : State), exec c s = .next t → isReset c = false → (∀ a v, c ≠ .hostWrite a v) →
     ∀ a, memRead t.smp.mem a = memRead s.smp.mem a ∨
       ∃ k, inResult k a ∧ t.ord.slots.get k ≠ s.ord.slots.get k) ∧
  ∀ (c : Instr) (s t : State), exec c s = .next t → generationsEven s = true → generationsEven t = true

/-- A filtered level and its count change by the input's own samples and events and a reset alone (R118, R119, R121); an
output in mode HOST, its pattern timer stopped (R125; InputsAndOutputsStaySound keeps it so), changes by LAMPS, a soft reset
and a reset alone (R122, R125, R128). -/
def Obligations.BoxSignalsChangeAtTheirCommands : Prop :=
  ∀ (c : Instr) (s t : State), exec c s = .next t → isReset c = false →
    (t.bsu.call = s.bsu.call ∨ c = .callPress ∨ c = .callRest ∨ ∃ x, c = .inputSample x) ∧
    (t.bsu.hook = s.bsu.hook ∨ c = .hookOn ∨ c = .hookOff ∨ ∃ x, c = .inputSample x) ∧
    (t.bsu.door = s.bsu.door ∨ c = .doorOpen ∨ c = .doorClosed ∨ ∃ x, c = .inputSample x) ∧
    (t.bsu.quiet = s.bsu.quiet ∨ c = .quietOn ∨ c = .quietOff ∨ ∃ x, c = .inputSample x) ∧
    ∀ o, (s.bsu.outs.get o).host = true → (s.bsu.outs.get o).timer = none →
      t.bsu.outs.get o = s.bsu.outs.get o ∨ c = .softReset ∨ ∃ v, c = .lampsWrite v

/-! ### Resets -/

/-- After a reset of either kind, every slot is FREE and its 64 bytes read 0, OFFER and DONE read 0, no order is held and
the take number is 0, every cause is neither pending nor enabled, the IRQ line is released and the plan area is
unprotected (R196). -/
def Obligations.ResetClearsTheHostSide : Prop :=
  ∀ (c : Instr) (s : State), isReset c = true →
    ∃ t, exec c s = .next t ∧ (∀ k, t.ord.slots.get k = .free) ∧ t.ord.takeNumber = 0 ∧
      (∀ a, 0x180 ≤ a → a < 0x380 → memRead t.smp.mem a = 0) ∧ readOffer t = 0 ∧ readDone t = 0 ∧
      t.cal.place = none ∧ t.cal.clear = none ∧ t.wch.order = none ∧ t.pln.held = none ∧ t.mlc.wait = none ∧
      t.smp.causes = 0 ∧ t.smp.enables = 0 ∧ irq t = false ∧ t.smp.planProtected = false

/-- At a reset the first sample of each input is its filtered level, with filter count 0 and no event: CALL held gives no
press then or while it is held, an open door raises nothing, QUIET forces the safe levels; a soft reset leaves levels,
counts and the strap (R121). HOOK is at rest without its strap (R120). -/
def Obligations.ResetTakesFirstSamples : Prop :=
  (∀ (c : Instr) (straps : Straps) (pins : Pins) (s : State),
    c = .powerOnReset straps pins ∨ c = .pinReset straps pins →
      ∃ t, exec c s = .next t ∧ t.bsu.call = ⟨pins.call, 0⟩ ∧ t.bsu.hook = ⟨straps.hook && pins.hook, 0⟩ ∧
        t.bsu.door = ⟨pins.door, 0⟩ ∧ t.bsu.quiet = ⟨pins.quiet, 0⟩ ∧ t.cal.ctx = resetContext ∧
        t.smp.causes = 0 ∧ (pins.call = true → exec .callPress t = .next t) ∧
        (pins.quiet = true → ∀ o, pinLevel t o = t.pln.plan.safeLevels.get o)) ∧
    ∀ s : State, ∃ t, exec .softReset s = .next t ∧ t.bsu.call = s.bsu.call ∧ t.bsu.hook = s.bsu.hook ∧
      t.bsu.door = s.bsu.door ∧ t.bsu.quiet = s.bsu.quiet ∧ t.straps.hook = s.straps.hook

/-- A reset that finds no stored plan it can install starts in HOLDING: the built-in plan with source DEFAULT, the store
state of the table of R179, the grace timer at 10 s, every wired module HELD, and every block as after a reset (R21, R35,
R66, R92, R106, R128, R148, R159, R160, R179, R180, R182, R186, R198). The memory is 0 after a power-on reset; a pin reset
keeps the plan area and the host free area (R182).

The model's choices: bit 0 of the seven flags is IDLE's (log entry 11), what a reset leaves of a store under way (log entry
16, in `storeAtReset`), the role ABSENT and the three allowed band classes of a position that is not wired, and the
destination of a clearing outside CLEARING (log entry 38). -/
def Obligations.ResetWithoutPlanHolds : Prop :=
  ∀ (c : Instr) (straps : Straps) (pins : Pins) (s : State),
    c = .powerOnReset straps pins ∨ c = .pinReset straps pins →
    (∀ plan, storeAtReset s.pln = ⟨.complete, .image plan true⟩ → rolesTest straps plan = false) →
    ∃ t, exec c s = .next t ∧ t.clock = 0 ∧ t.straps = straps ∧ t.smp.clockGen = 0 ∧ t.smp.statusGen = 0 ∧
      t.pln.phase = .holding ∧ t.pln.plan = builtInPlan ∧ t.pln.source = .default ∧ t.pln.grace = some 10000 ∧
      t.pln.storeState = readStoreState (storeAtReset s.pln) ∧ t.pln.store = storeAtReset s.pln ∧ t.pln.damaged = [] ∧
      t.pln.copy = none ∧ t.pln.staged = .none ∧ t.pln.held = none ∧ t.pln.storePhase = none ∧
      (∀ p, t.module p =
        { wired := isWired straps p, state := if isWired straps p then .held else .absent
          role := if isWired straps p then .active else .absent, bands := ⟨true, true, true⟩, pendingRole := none
          replaced := false, failures := 0, restart := none, lastBatch := 0, poll := none, boot := none, pulse := none
          probeRetry := none, atn := (s.module p).atn, sleepAgain := false }) ∧
      t.mlc.queue = [] ∧ t.mlc.nextNumber = 0 ∧ t.mlc.tx = none ∧ t.mlc.wait = none ∧
      t.ctu = { table := [], seq := 0, mirrorGen := 0 } ∧
      t.hnt =
        { state := .idle, kind := .emergency, rounds := 0, form := 0, set := [], lastKeys := []
          records := ⟨none, none, none⟩, counter := 0, stray := ⟨none, none, none⟩, wakeWait := none, gather := none
          backoff := none, stagger := none } ∧
      t.cal =
        { ctx :=
            { state := .idle, kind := .emergency, sequence := 0, start := none, connect := none, serving := none
              message := .notRequired, flags := ⟨false, false, false, false, false, false⟩, reestablishes := 0
              attempts := 0, rounds := 0, backoff := 0, callback := 0, presses := 0, lastEnd := .none
              summaries := ⟨none, none, none⟩, huntLink := .none, answer := none, releases := ⟨false, false, false⟩ }
          held7 := 1, counter := 0, mask := none, callbackTimer := none, destination := false, place := none
          clear := none, fileGen := 0 } ∧
      t.lmu =
        { state := .idle, pos := none, record := none, segments := 1, segment := 1, tries := 0, current := none
          replySeen := false, ackTimer := none } ∧
      t.vsw.conn = .none ∧ t.vsw.gapTimer = none ∧ t.vsw.uplinkMute = false ∧ t.vsw.downlinkMute = false ∧
      t.vsw.requested = ⟨false, false, false, false⟩ ∧ t.vsw.active = none ∧ t.vsw.phaseTimer = none ∧
      t.wch =
        { doze := false, dozePending := false, stagger := none, gather := ⟨false, false, false⟩, gatherReport := false
          order := none, reported := .idle
          watch := PerPos.all
            { interval := none, due := false, phase := .none, limit := none, requested := false, scanRequest := none
              sleeps := [], wakeRequest := none, waking := false, again := false } } ∧
      t.flt = { log := [], tally := 0 } ∧
      (∀ o, (t.bsu.outs.get o).host = false ∧ (t.bsu.outs.get o).latch = (o == .lampFault) ∧
        (t.bsu.outs.get o).pattern = (if o = .lampFault then .steadyOn else .steadyOff) ∧
        (t.bsu.outs.get o).timer = none) ∧
      ∀ a, memRead t.smp.mem a =
        if c = .pinReset straps pins ∧ 0x680 ≤ a then memRead s.smp.mem a else 0

/-- A reset that finds a VALID store whose image passes the roles test installs it and releases the modules in the same
event (R159, R176, R179).

The model's choice (log entry 16): the store is that of `storeAtReset`, so a reset in phase COMPLETE of a store finishes the
marker and installs the new image, and one in phase MARKER finishes the marker BEGUN, which is no VALID store. -/
def Obligations.ResetInstallsTheStoredPlan : Prop :=
  ∀ (c : Instr) (straps : Straps) (pins : Pins) (plan : Plan) (s : State),
    c = .powerOnReset straps pins ∨ c = .pinReset straps pins →
    storeAtReset s.pln = ⟨.complete, .image plan true⟩ → rolesTest straps plan = true →
    ∃ t, exec c s = .next t ∧ t.pln.phase = .released ∧ t.pln.grace = none ∧ t.pln.plan = plan ∧
      t.pln.source = .store ∧ t.pln.storeState = .valid ∧ t.pln.damaged = [] ∧
      ∀ p, (isWired straps p = false ∨ plan.roles.get p = .absent → (t.module p).state = .absent) ∧
        (isWired straps p = true → plan.roles.get p ≠ .absent →
          (t.module p).state = .booting .boot ∧ (t.module p).boot = some 8000 ∧
          (t.module p).role = plan.roles.get p ∧ (t.module p).bands = plan.allowed.get p)

/-- A soft reset frees every slot and keeps the take number, clears every pending flag and enable, empties the fault log
and the tally, gives the outputs in HOST back to AUTO with their patterns started, and makes the owners forget their
orders; the call goes on without its deferred CLEAR, with its timers, and everything else is left (R66, R90, R128, R172,
R195). -/
def Obligations.SoftResetLeavesTheBox : Prop :=
  ∀ s : State, s.inbox = [] →
    ∃ t, exec .softReset s = .next t ∧ (∀ k, t.ord.slots.get k = .free) ∧ t.ord.takeNumber = s.ord.takeNumber ∧
      t.smp = { s.smp with causes := 0, enables := 0 } ∧ t.flt = { log := [], tally := 0 } ∧
      (∀ o, t.bsu.outs.get o =
        if (s.bsu.outs.get o).host then startPattern (selectedPattern s o) { s.bsu.outs.get o with host := false }
        else s.bsu.outs.get o) ∧
      t.cal.ctx = { s.cal.ctx with flags := { s.cal.ctx.flags with clearDeferred := false } } ∧
      t.cal.place = none ∧ t.cal.clear = none ∧
      { t.cal with ctx := s.cal.ctx, place := s.cal.place, clear := s.cal.clear, fileGen := s.cal.fileGen } = s.cal ∧
      t.cal.fileGen = (if s.cal.ctx.flags.clearDeferred then s.cal.fileGen + 2 else s.cal.fileGen) ∧
      { t.bsu with outs := s.bsu.outs } = s.bsu ∧
      t.wch = { s.wch with order := none } ∧ t.mlc = { s.mlc with wait := none } ∧
      t.pln = { s.pln with held := none } ∧ t.ctu = s.ctu ∧ t.hnt = s.hnt ∧ t.lmu = s.lmu ∧ t.vsw = s.vsw ∧
      t.clock = s.clock ∧ t.straps = s.straps

/-! ### The host's registers and the memory -/

/-- What the registers read: 0 outside the six; OFFER and DONE show the slots in exactly those states, CAUSE the pending
causes, CAUSEEN the enables; CTRL shows DOZE, a pending DOZE, the plan source and the store state (R172, R187, R188).

What the host reads of the memory (R182): a word is two bytes, the lower first; the identity header, with the strap readout,
the clock and the status block under their generation words (R185, R186); the call file (R91); the fault log (R199); the
state byte of a slot (R190); the carrier mirror, its generation word in every row and its rows in rank order (R19, R20);
elsewhere the stored byte. -/
def Obligations.RegistersAndMemoryShowTheState : Prop :=
  (∀ s : State, (∀ addr : BitVec 11, 6 ≤ addr.toNat → readRegister s addr = 0) ∧
    (∀ k : Fin 8, (readRegister s 1).getLsbD k.val = (s.ord.slots.get k == .offered)) ∧
    (∀ k : Fin 8, (readRegister s 2).getLsbD k.val = (s.ord.slots.get k == .done)) ∧
    (∀ i, i < 13 → (readRegister s 3).getLsbD i = s.smp.causes.getLsbD i) ∧
    readRegister s 4 = s.smp.enables.setWidth 16 ∧
    (readRegister s 0).getLsbD 0 = s.wch.doze ∧ (readRegister s 0).getLsbD 1 = s.wch.dozePending ∧
    ((readRegister s 0).extractLsb' 2 2).toNat = sourceCode s.pln.source ∧
    ((readRegister s 0).extractLsb' 4 2).toNat = storeCode s.pln.storeState) ∧
  ∀ s : State,
    let x := s.cal.ctx
    let b := readByte s
    let w := fun a => b (a + 1) ++ b a
    let tag := fun a => b (a + 2) ++ w a
    let l := fun a => w (a + 2) ++ w a
    (∀ addr : BitVec 12, addr.toNat % 2 = 0 → readWord s addr = w addr.toNat) ∧
    (w 0x00 = 0x5C03 ∧ w 0x02 = 1 ∧ b 0x04 = 1 ∧ b 0x07 = 0 ∧ w 0x08 = s.smp.clockGen ∧ l 0x0A = s.clock ∧ w 0x0E = 0 ∧
      (b 0x05).getLsbD 0 = s.straps.hook ∧ (b 0x05).getLsbD 1 = s.straps.fastLink ∧
      (b 0x05).extractLsb' 2 6 = s.straps.wiredCode.setWidth 6 ∧
      (b 0x06).toNat = (if s.straps.wiredCode = 0 then 1 else s.straps.wiredCode.toNat) ∧ w 0x10 = s.smp.statusGen ∧
      [PlanSource.store, .host, .default][(b 0x12).toNat]? = some s.pln.source ∧
      [StoreState.blank, .valid, .damaged, .storing][(b 0x13).toNat]? = some s.pln.storeState ∧
      (∀ p : Pos,
        let a := 0x14 + 3 * p.val
        b a = (match (s.module p).state with
          | .absent => 0
          | .held => 1
          | .booting _ => 2
          | .inService => 3
          | .suspect => 4
          | .failed => 5
          | .outOfService => 6
          | .asleep => 7) ∧
        [Role.active, .spare, .absent][(b (a + 1)).toNat]? = some (s.module p).role ∧
        b (a + 2) = (if (s.module p).bands.low then 1 else 0) + (if (s.module p).bands.mid then 2 else 0)
          + (if (s.module p).bands.high then 4 else 0)) ∧
      ∀ a, 0x1D ≤ a → a < 0x40 → b a = 0) ∧
    (w 0x40 = s.cal.fileGen ∧
      [CallState.idle, .hunting, .locating, .talk, .reestablishing, .clearing, .callbackWait][(b 0x42).toNat]? = some x.state ∧
      [CallKind.emergency, .test][(b 0x43).toNat]? = some x.kind ∧ w 0x44 = x.sequence ∧
      [MessageStatus.pending, .delivered, .undelivered, .notRequired][(b 0x46).toNat]? = some x.message ∧
      (List.range 8).map (b 0x47).getLsbD =
        [x.flags.silent, x.flags.masked, x.flags.abandonPending, x.flags.reestablished, x.flags.pressHeld,
          x.flags.clearDeferred, x.start.isSome, x.connect.isSome] ∧
      l 0x48 = x.start.getD 0 ∧ l 0x4C = x.connect.getD 0 ∧
      (b 0x50, b 0x51, tag 0x52, w 0x56) = (match x.serving with
        | none => (255, 0, 0, 0)
        | some (.hunted k) => (BitVec.ofNat 8 k.pos.val, 1, k.tag, k.channel)
        | some (.incoming p) => (BitVec.ofNat 8 p.val, 2, 0, 0)) ∧
      [LastEnd.none, .centreCleared, .networkRefused, .radioLost, .networkOther, .moduleLost, .callerHungUp, .hostCleared,
        .noCarrier, .converted, .windowExpired, .stateCheck][(b 0x55).toNat]? = some x.lastEnd ∧
      b 0x58 = BitVec.ofNat 8 x.reestablishes ∧ b 0x59 = BitVec.ofNat 8 x.rounds ∧ w 0x5A = BitVec.ofNat 16 x.attempts ∧
      w 0x5C = BitVec.ofNat 16 x.backoff ∧ w 0x5E = BitVec.ofNat 16 x.callback ∧ b 0x60 = BitVec.ofNat 8 x.presses ∧
      [HuntLink.none, .active, .stopping][(b 0x61).toNat]? = some x.huntLink ∧
      b 0x62 = (match x.answer with
        | none => 255
        | some p => BitVec.ofNat 8 p.val) ∧
      (List.range 8).map (b 0x63).getLsbD =
        [x.releases.p0, x.releases.p1, x.releases.p2, false, false, false, false, false] ∧
      (∀ p : Pos,
        let a := 0x64 + 8 * p.val
        (x.summaries.get p = none → ∀ i, i < 8 → b (a + i) = 0) ∧
        ∀ y, x.summaries.get p = some y →
          [none, some AttemptState.queued, some .sent, some .proceeding, some .alerting, some .answered,
            some .releasing][(b a).toNat]? = some (some y.state) ∧
          b (a + 1) = 0 ∧ w (a + 2) = BitVec.ofNat 16 y.number ∧
          [Outcome.none, .refused, .timeout, .surplus, .linkLost, .connected][(b (a + 4)).toNat]? = some y.outcome ∧
          b (a + 5) = BitVec.ofNat 8 y.form ∧ w (a + 6) = 0) ∧
      ∀ a, 0x7C ≤ a → a < 0x100 → b a = 0) ∧
    (∀ i, i < 4 →
      let a := 0x100 + 32 * i
      b (a + 28) = BitVec.ofNat 8 s.flt.tally ∧ b (a + 29) = BitVec.ofNat 8 s.flt.log.length ∧ w (a + 30) = 0 ∧
      (s.flt.log[i]? = none → ∀ j, j < 28 → b (a + j) = 0) ∧
      ∀ e, s.flt.log[i]? = some e →
        l a = e.time ∧
        [none, some FaultKind.linkError, some .moduleRestarted, some .moduleFailed, some .trespass, some .badOffer,
          some .planCheck, some .stateCheck, some .storeFailed][(b (a + 4)).toNat]? = some (some e.kind) ∧
        b (a + 5) = (match e.pos with
          | none => 255
          | some p => BitVec.ofNat 8 p.val) ∧
        w (a + 6) = BitVec.ofNat 16 e.detail ∧
        w (a + 8) = (match e.address with
          | none => 0xFFFF
          | some x => x.setWidth 16) ∧
        ∀ j, 10 ≤ j → j < 28 → b (a + j) = 0) ∧
    (∀ k : Fin 8, b (slotBase k + 1) = match s.ord.slots.get k with
      | .free => 0
      | .offered => 1
      | .taken _ _ => 2
      | .done => 3) ∧
    (∀ i, i < 24 →
      let a := 0x380 + 32 * i
      w a = s.ctu.mirrorGen ∧
      (s.ctu.table[i]? = none → ∀ j, 2 ≤ j → j < 32 → b (a + j) = 0) ∧
      ∀ e, s.ctu.table[i]? = some e →
        b (a + 2) = 1 ∧ (b (a + 3)).toNat = e.key.pos.val ∧ tag (a + 4) = e.key.tag ∧
        [Band.low, .mid, .high][(b (a + 7)).toNat]? = some e.band ∧ w (a + 8) = e.key.channel ∧
        w (a + 10) = BitVec.ofInt 16 e.level ∧ b (a + 12) = BitVec.ofNat 8 (e.quality.getD 255) ∧
        (List.range 8).map (b (a + 13)).getLsbD =
          [e.networkBarred, e.planBarred, e.bench.isSome, e.inAttempt, e.serving, false, false, false] ∧
        b (a + 14) = BitVec.ofNat 8 e.failures ∧
        [LastOutcome.none, .refused, .timeout, .connected, .dropped][(b (a + 15)).toNat]? = some e.last ∧
        w (a + 16) = BitVec.ofNat 16 (e.bench.getD 0) ∧ w (a + 18) = BitVec.ofNat 16 e.age ∧
        w (a + 20) = BitVec.ofNat 16 e.score ∧ l (a + 22) = BitVec.ofNat 32 e.seq ∧
        ∀ j, 26 ≤ j → j < 32 → b (a + j) = 0) ∧
    ∀ a, ((0x180 ≤ a ∧ a < 0x380) ∨ 0x680 ≤ a) → (∀ k, a ≠ slotBase k + 1) → b a = memRead s.smp.mem a

/-- A LAMPS read gives each output's pin level, mode and latch, and each input's filtered level; under QUIET the pin level
is the safe level, not the latch; HOOK reads at rest on a box without the strap. The read is a function of the state and
changes nothing (R126). -/
def Obligations.LampsReadShowsPins : Prop :=
  ∀ s : State, inputsOk s = true →
    (∀ o, (readRegister s 5).getLsbD (outputBit o) =
        (if s.bsu.quiet.level then s.pln.plan.safeLevels.get o else (s.bsu.outs.get o).latch) ∧
      (readRegister s 5).getLsbD (4 + outputBit o) = (s.bsu.outs.get o).host ∧
      (readRegister s 5).getLsbD (8 + outputBit o) = (s.bsu.outs.get o).latch) ∧
    (readRegister s 5).getLsbD 12 = s.bsu.call.level ∧ (readRegister s 5).getLsbD 13 = s.bsu.hook.level ∧
    (readRegister s 5).getLsbD 14 = s.bsu.door.level ∧ (readRegister s 5).getLsbD 15 = s.bsu.quiet.level ∧
    (s.straps.hook = false → (readRegister s 5).getLsbD 13 = false)

/-- The IRQ line is asserted exactly while some cause is both pending and enabled; the level field of CAUSE is the highest
level among those causes, 0 when there is none; clearing the causes of the highest level makes the field fall to the next
present; at a reset and a soft reset everything is 0 and the line released (R192, R193). -/
def Obligations.InterruptLineFollowsCauses : Prop :=
  (∀ s : State, let shown := fun i => s.smp.causes.getLsbD i && s.smp.enables.getLsbD i
    let level := ((readRegister s 3).extractLsb' 14 2).toNat
    (irq s = true ↔ ∃ i, i < 13 ∧ shown i = true) ∧
    (level = 3 ↔ ∃ i, i ≤ 1 ∧ shown i = true) ∧
    (level = 2 ↔ (∀ i, i ≤ 1 → shown i = false) ∧ ∃ i, 2 ≤ i ∧ i ≤ 6 ∧ shown i = true) ∧
    (level = 1 ↔ (∀ i, i ≤ 6 → shown i = false) ∧ ∃ i, 7 ≤ i ∧ i ≤ 12 ∧ shown i = true) ∧
    (level = 0 ↔ ∀ i, i ≤ 12 → shown i = false)) ∧
  (∀ (s : State) (v : Word), s.inbox = [] →
    ∃ t, exec (.causeWrite v) s = .next t ∧
      (∀ i, i < 13 → t.smp.causes.getLsbD i = (s.smp.causes.getLsbD i && !v.getLsbD i)) ∧
      t.smp.enables = s.smp.enables ∧
      (causeLevel s = 3 → v.getLsbD 0 = true → v.getLsbD 1 = true → causeLevel t < 3)) ∧
  ∀ (c : Instr) (s : State), isReset c = true ∨ c = .softReset →
    ∃ t, exec c s = .next t ∧ t.smp.causes = 0 ∧ t.smp.enables = 0 ∧ irq t = false

/-- An OFFER write makes each named FREE slot OFFERED and counts a BAD_OFFER for each other named slot; a DONE write gives
back each named DONE slot; nothing else changes (R188, R191).

CAUSE clears the causes its one-bits name, CAUSEEN sets the enables; RELEASE_FAULT removes the oldest entry of the log
and nothing else, CLEAR_TALLY makes the tally 0 and nothing else; a write to an unused register is ignored (R187, R192,
R198). -/
def Obligations.RegisterWritesAct : Prop :=
  (∀ (s : State) (v : Word), s.inbox = [] →
     (∃ t, exec (.offerWrite v) s = .next t ∧
       (∀ k : Fin 8, t.ord.slots.get k =
         if v.getLsbD k.val = true ∧ s.ord.slots.get k = .free then .offered else s.ord.slots.get k) ∧
       t.ord.takeNumber = s.ord.takeNumber ∧
       (s.flt.tally ≤ 255 → t.flt.tally =
         min 255 (s.flt.tally +
           (slotNumbers.filter (fun k => v.getLsbD k.val && !(s.ord.slots.get k == .free))).length)) ∧
       ((t.withOrd s.ord).withFlt s.flt).withSmp s.smp = s ∧
       { t.smp with causes := s.smp.causes } = s.smp ∧
       (t.smp.causes = s.smp.causes ∨ t.smp.causes = causeSet s.smp.causes .faultLogged)) ∧
     ∃ t, exec (.doneWrite v) s = .next t ∧
       (∀ k : Fin 8, t.ord.slots.get k =
         if v.getLsbD k.val = true ∧ s.ord.slots.get k = .done then .free else s.ord.slots.get k) ∧
       t.ord.takeNumber = s.ord.takeNumber ∧ t.withOrd s.ord = s) ∧
  (∀ (s : State) (v : Word) (addr : BitVec 11), s.inbox = [] →
     exec (.causeWrite v) s = .next (s.withSmp { s.smp with causes := s.smp.causes &&& ~~~(v.setWidth 13) }) ∧
     exec (.causeenWrite v) s = .next (s.withSmp { s.smp with enables := v.setWidth 13 }) ∧
     (∀ e rest, s.flt.log = e :: rest → exec .releaseFault s = .next (s.withFlt { s.flt with log := rest })) ∧
     (s.flt.log = [] → exec .releaseFault s = .next s) ∧
     exec .clearTally s = .next (s.withFlt { s.flt with tally := 0 }) ∧
     (6 ≤ addr.toNat → exec (.unusedRegisterWrite addr v) s = .next s))

/-- A host write is taken in the host free area, in the plan area while it is not protected, and in a FREE or DONE slot,
where the state byte is not stored; its low byte goes to the even address (R182, R183). Every other one is dropped: the
memory is unchanged, TRESPASS is pending and reported with region and address, and PLN hears of one in the plan area
(R173, R184). -/
def Obligations.HostWritesStoreOrTrespass : Prop :=
  ∀ (s : State) (addr : BitVec 12) (v : Word), s.inbox = [] → Memory.wf s.smp.mem = true → addr.toNat % 2 = 0 →
    let a := addr.toNat
    let taken : Bool := decide (0xA80 ≤ a) || (decide (0x680 ≤ a) && decide (a < 0xA80) && !s.smp.planProtected)
      || (decide (0x180 ≤ a) && decide (a < 0x380) && slotOpen (s.ord.slots.get (slotOf a)))
    let stateByte : Bool := decide (0x180 ≤ a) && decide (a < 0x380) && decide (a = slotBase (slotOf a))
    (taken = true → ∃ t, exec (.hostWrite addr v) s = .next t ∧ memRead t.smp.mem a = v.extractLsb' 0 8 ∧
      memRead t.smp.mem (a + 1) = (if stateByte then memRead s.smp.mem (a + 1) else v.extractLsb' 8 8) ∧
      (∀ b, b ≠ a → b ≠ a + 1 → memRead t.smp.mem b = memRead s.smp.mem b) ∧
      t.withSmp s.smp = s ∧ { t.smp with mem := s.smp.mem } = s.smp) ∧
    (taken = false → ∃ t, exec (.hostWrite addr v) s = .next t ∧ t.smp.mem = s.smp.mem ∧
      t.smp.causes.getLsbD 12 = true ∧ t.flt.tally = min (s.flt.tally + 1) 255 ∧
      t.flt.log = (if s.flt.log.length < 4 then s.flt.log ++ [⟨s.clock, .trespass, none, regionOf a, some addr⟩]
        else s.flt.log) ∧
      t.pln.copy = s.pln.copy.map (fun c => { c with trespassSeen := c.trespassSeen || decide (regionOf a = 6) }) ∧
      ((t.withSmp s.smp).withFlt s.flt).withPln s.pln = s ∧ { t.pln with copy := s.pln.copy } = s.pln)

/-- A LAMPS write at each output: not selected, it is left; HOST takes the latch and stops the pattern; AUTO out of HOST
starts the selected pattern; AUTO in AUTO sets the latch alone (R125). Nothing else changes.

The pattern selected for each output by the call's state, by whether an ACTIVE module is IN_SERVICE, and by the plan source
(R123); and what the start of a pattern does (R124). -/
def Obligations.LampsWriteTakesOutputs : Prop :=
  (∀ (s : State) (v : Word), s.inbox = [] →
    ∃ t, exec (.lampsWrite v) s = .next t ∧ t.withBsu s.bsu = s ∧
      { t.bsu with outs := s.bsu.outs } = s.bsu ∧
      ∀ o, t.bsu.outs.get o =
        if v.getLsbD (outputBit o) = false then s.bsu.outs.get o
        else if v.getLsbD (4 + outputBit o) then
          { s.bsu.outs.get o with host := true, latch := v.getLsbD (8 + outputBit o), timer := none }
        else if (s.bsu.outs.get o).host then
          startPattern (selectPattern s.cal.ctx.state (anyUsable s.mlc.modules) s.pln.source o)
            { s.bsu.outs.get o with host := false }
        else { s.bsu.outs.get o with latch := v.getLsbD (8 + outputBit o) }) ∧
  (∀ (call : CallState) (usableModule : Bool) (source : PlanSource),
    selectPattern call usableModule source .lampCall =
        (if call = .hunting ∨ call = .reestablishing then .blink 500 500
          else if call = .locating ∨ call = .talk then .steadyOn else .steadyOff) ∧
      selectPattern call usableModule source .lampLink =
        (if call = .talk then .steadyOn else if call = .locating then .blink 125 125 else .steadyOff) ∧
      selectPattern call usableModule source .lampFault =
        (if usableModule = false then .steadyOn else if source = .default then .blink 1000 1000 else .steadyOff) ∧
      selectPattern call usableModule source .beacon = (if call = .idle then .steadyOff else .blink 100 900)) ∧
  ∀ (p : Pattern) (x : OutputState),
    startPattern p x =
      { x with
        latch := decide (p ≠ .steadyOff), pattern := p, firstHalf := true
        timer := match p with
          | .blink a _ => some a
          | _ => none }

/-- CTRL DOZE in a call is kept pending; in IDLE the part enters DOZE and a SLEEP is queued for every module that is
ACTIVE, IN_SERVICE and free to sleep; in DOZE it changes nothing. CTRL WAKE forgets a pending DOZE, leaves DOZE,
withdraws every SLEEP of WCH's that is still queued, and queues a WAKE for every ACTIVE module that is ASLEEP (R161,
R162). -/
def Obligations.DozeAndWakeCommands : Prop :=
  ∀ s : State, s.inbox = [] →
    (s.wch.reported ≠ .idle → s.wch.doze = false →
      exec .doze s = .next (s.withWch { s.wch with dozePending := true })) ∧
    (s.wch.doze = true → exec .doze s = .next s) ∧
    (s.wch.doze = false → exec .wake s = .next (s.withWch { s.wch with dozePending := false })) ∧
    (s.pln.damaged = [] → scansRest s = true → roomFor 3 s = true →
      (s.wch.reported = .idle → s.wch.doze = false →
        ∃ t, exec .doze s = .next t ∧ t.wch.doze = true ∧ t.wch.dozePending = false ∧ t.cal = s.cal ∧ t.hnt = s.hnt ∧
          t.ctu = s.ctu ∧ ∀ p, usable (s.module p) = true → freeToSleep s p = true →
            ∃ r ∈ t.mlc.queue, r.pos = p ∧ r.kind = .sleep ∧ r.number ∈ (t.watch p).sleeps ∧
              s.mlc.nextNumber < r.number) ∧
      (s.wch.doze = true →
        ∃ t, exec .wake s = .next t ∧ t.wch.doze = false ∧ t.wch.dozePending = false ∧ t.cal = s.cal ∧ t.hnt = s.hnt ∧
          t.ctu = s.ctu ∧
          (∀ p, wantsWake s p = true →
            (t.watch p).waking = true ∧ ∃ r ∈ t.mlc.queue, r.pos = p ∧ r.kind = .wake) ∧
          ((∀ p, ∀ r ∈ s.mlc.queue, r.number ∈ (s.watch p).sleeps → r.owners = [.wch] ∧ r.pos = p) →
            ∀ p, (∀ r ∈ t.mlc.queue, r.kind = .sleep → r.number ∉ (s.watch p).sleeps) ∧
              ∀ n, n ∈ (t.watch p).sleeps ↔ n ∈ (s.watch p).sleeps ∧ ∀ r ∈ s.mlc.queue, r.number ≠ n)))

/-! ### Orders -/

/-- ORD itself turns an order away: an unknown kind with UNKNOWN_KIND and the kind byte, a parameter outside its range with
BAD_PARAMETER and the parameter's offset, a second order of a kind with BUSY and the slot of the first (R189, R191).

A PLACE in a call completes BUSY with the call sequence; a PLACE TEST without a test dial string completes
INVALID_PLAN (R68). -/
def Obligations.OrdersAreTurnedAway : Prop :=
  (∀ (s : State) (k : Fin 8), s.inbox = [] → Memory.wf s.smp.mem = true → nextOffered s = some k →
     (kindByte s k = 0 ∨ 5 < kindByte s k →
       ∃ t, exec .unknownKind s = .next t ∧ TurnedAway s t k .unknownKind (BitVec.ofNat 16 (kindByte s k))) ∧
     (∀ kind offset, 1 ≤ kind → kind ≤ 5 → kindByte s k = kind → badParameter kind s k = some offset →
       ∃ t, exec (orderCommand kind) s = .next t ∧ TurnedAway s t k .badParameter (BitVec.ofNat 16 offset)) ∧
     (∀ (kind : Nat) (j : Fin 8), 1 ≤ kind → kind ≤ 5 → kindByte s k = kind → badParameter kind s k = none →
       otherTaken kind k s = some j →
       ∃ t, exec (orderCommand kind) s = .next t ∧ TurnedAway s t k .busy (BitVec.ofNat 16 j.val))) ∧
  (∀ (s : State) (k : Fin 8), calmPart s = true → Memory.wf s.smp.mem = true → clearingOver s = false →
     orderReady s k 1 = true →
     (s.cal.ctx.state ≠ .idle → s.cal.ctx.state ≠ .callbackWait →
       ∃ t, exec .placeOrder s = .next t ∧ TurnedAway s t k .busy s.cal.ctx.sequence) ∧
     (s.cal.ctx.state = .idle ∨ s.cal.ctx.state = .callbackWait → firstParameter s k = 1 →
       s.pln.plan.lists.testDial = none → ∃ t, exec .placeOrder s = .next t ∧ TurnedAway s t k .invalidPlan 0))

/-- In IDLE and in CALLBACK_WAIT, a CALL press and a PLACE EMERGENCY start a call: a context of its own in HUNTING, a hunt of
its kind under way with the hunt link ACTIVE, the lamps of HUNTING, CALL_STARTED pending; from CALLBACK_WAIT the callback
timer stops and callback remaining is 0; the PLACE stays with CAL (R36, R67, R68, R69, R87, R123).

So does a PLACE TEST where the plan holds a test dial string. The hunt is a fresh one: rounds, attempt counter and form 0, an
empty set, no record; with no ACTIVE module IN_SERVICE and a wake in progress it stands in the wake wait before round 1
(R36, R37). -/
def Obligations.PressOrPlaceStartsACall : Prop :=
  ∀ s : State, s.inbox = [] → (s.cal.ctx.state = .idle ∨ s.cal.ctx.state = .callbackWait) → flagsSound s = true →
    (s.bsu.call.level = false →
      ∃ t, exec .callPress s = .next t ∧ CallBegun s t .emergency ∧ t.bsu.call = ⟨true, 0⟩) ∧
    (∀ k, orderReady s k 1 = true → firstParameter s k = 0 →
      ∃ t, exec .placeOrder s = .next t ∧ CallBegun s t .emergency ∧ t.cal.place = some (nextHeld s k)) ∧
    ∀ k kind, orderReady s k 1 = true →
      ((firstParameter s k = 0 ∧ kind = .emergency) ∨
        (firstParameter s k = 1 ∧ kind = .test ∧ s.pln.plan.lists.testDial ≠ none)) →
      s.pln.damaged = [] → s.wch.doze = false → s.hnt.state = .idle → noRecord s = true → usableCount s = 0 →
      wakeInProgress s = true →
      ∃ t, exec .placeOrder s = .next t ∧ CallBegun s t kind ∧ t.cal.place = some (nextHeld s k) ∧
        t.hnt = { s.hnt with
          state := .round, kind := kind, rounds := 0, form := 0, set := [], lastKeys := [], counter := 0
          wakeWait := some 5000 } ∧
        noRecord t = true ∧ t.cal.ctx.attempts = 0 ∧ t.cal.ctx.rounds = 0 ∧ t.cal.ctx.backoff = 0 ∧
        t.cal.ctx.summaries = ⟨none, none, none⟩

/-- A CLEAR: in IDLE it completes NOTHING_TO_CLEAR with the call sequence; in LOCATING it is deferred and stays with CAL; in
TALK the call clears with HOST_CLEARED and destination IDLE, and the connection is let go (R83, R86).

In HUNTING and REESTABLISHING it stops the hunt: while a record is still to be released the call is in CLEARING with the hunt
link STOPPING; with none, and in CALLBACK_WAIT, whose timer is stopped first, the clearing is over at once: the call enters
IDLE, CALL_FINISHED is raised, and the order completes CLEARED with the call sequence. In CLEARING it joins the clearing,
whose destination becomes IDLE (R39, R83, R86). -/
def Obligations.ClearOrdersAct : Prop :=
  ∀ (s : State) (k : Fin 8), s.inbox = [] → Memory.wf s.smp.mem = true → orderReady s k 2 = true →
    (s.cal.ctx.state = .idle →
      ∃ t, exec .clearOrder s = .next t ∧ TurnedAway s t k .nothingToClear s.cal.ctx.sequence) ∧
    (s.cal.ctx.state = .locating →
      ∃ t, exec .clearOrder s = .next t ∧ SlotTaken s t k 2 ∧ t.cal.clear = some (nextHeld s k) ∧
        t.cal.ctx = { s.cal.ctx with flags := { s.cal.ctx.flags with clearDeferred := true } } ∧
        t.cal.held7 = s.cal.held7 ∧ t.hnt = s.hnt ∧ t.lmu = s.lmu ∧ t.vsw = s.vsw ∧ t.mlc = s.mlc ∧ t.wch = s.wch ∧
        t.ctu = s.ctu ∧ t.pln = s.pln ∧ t.bsu = s.bsu ∧ t.flt = s.flt) ∧
    (∀ p, s.cal.ctx.state = .talk → servingPos s.cal.ctx.serving = some p → huntSettled s = true →
      s.wch.doze = false → flagsSound s = true → callPlaceFree p s = true →
      ∃ t, exec .clearOrder s = .next t ∧ SlotTaken s t k 2 ∧ t.cal.clear = some (nextHeld s k) ∧
        Clearing s t p .hostCleared false) ∧
    (s.cal.ctx.state = .clearing → clearingOver s = false →
      ∃ t, exec .clearOrder s = .next t ∧ SlotTaken s t k 2 ∧
        t.cal = { s.cal with clear := some (nextHeld s k), destination := false } ∧ t.hnt = s.hnt ∧ t.mlc = s.mlc ∧
        t.lmu = s.lmu ∧ t.vsw = s.vsw ∧ t.ctu = s.ctu ∧ t.wch = s.wch ∧ t.pln = s.pln ∧ t.bsu = s.bsu) ∧
    (s.cal.ctx.state = .hunting ∨ s.cal.ctx.state = .reestablishing → s.cal.ctx.huntLink = .active →
      s.hnt.state ≠ .idle → s.cal.ctx.serving = none → s.pln.damaged = [] → s.wch.doze = false → flagsSound s = true →
      ∀ p a, s.record p = some a → (∀ q, q ≠ p → s.record q = none) →
      (a.state = .releasing ∨
        ((a.state = .sent ∨ a.state = .proceeding ∨ a.state = .alerting) ∧ callPlaceFree p s = true)) →
      ∃ t, exec .clearOrder s = .next t ∧ SlotTaken s t k 2 ∧ t.cal.clear = some (nextHeld s k) ∧
        t.cal.ctx.state = .clearing ∧ t.cal.ctx.lastEnd = .hostCleared ∧ t.cal.destination = false ∧
        t.cal.ctx.huntLink = .stopping ∧ t.hnt.state = .idle ∧ t.hnt.set = [] ∧ t.hnt.backoff = none ∧
        (∃ b, t.record p = some b ∧ b.state = .releasing ∧
          (a.state ≠ .releasing → b.outcome = .surplus ∧
            t.mlc.queue = s.mlc.queue ++ [nextRequest s .attempt p .release []])) ∧
        t.vsw.conn = .none) ∧
    ((s.cal.ctx.state = .hunting ∨ s.cal.ctx.state = .reestablishing) ∧ s.cal.ctx.huntLink = .active ∧
        s.hnt.state ≠ .idle ∧ noRecord s = true ∨
      s.cal.ctx.state = .callbackWait ∧ s.cal.ctx.huntLink = .none →
      s.cal.ctx.serving = none → s.pln.damaged = [] → s.wch.doze = false → s.wch.dozePending = false →
      flagsSound s = true → s.cal.ctx.releases = ⟨false, false, false⟩ → s.cal.ctx.answer = none →
      s.cal.ctx.flags.pressHeld = false → s.cal.place = none → (∀ p, (s.module p).pendingRole = none) →
      ∃ t, exec .clearOrder s = .next t ∧ Completed s t (nextHeld s k) .cleared s.cal.ctx.sequence ∧
        t.cal.clear = none ∧ t.cal.ctx.state = .idle ∧ t.cal.ctx.lastEnd = .hostCleared ∧ t.cal.ctx.start = none ∧
        t.cal.ctx.connect = none ∧ t.cal.ctx.huntLink = .none ∧ t.cal.callbackTimer = none ∧
        t.smp.causes.getLsbD 4 = true ∧ t.vsw.conn = .none ∧ t.wch.reported = .idle ∧
        (s.cal.ctx.state = .callbackWait → t.hnt = s.hnt) ∧
        (s.cal.ctx.state ≠ .callbackWait → t.hnt.state = .idle ∧ t.hnt.set = [] ∧ t.hnt.backoff = none) ∧
        t.ctu = s.ctu ∧ t.mlc.queue = s.mlc.queue)

/-- A SCAN during a hunt completes MERGED_WITH_HUNT with detail 0; one with no module to scan completes SCANNED with the
number of entries; otherwise it stays with WCH, whose members become requested. Option FRESH purges the table of the
entries that are not protected (R17, R169). A SCAN makes no examination of its own (log entry 36). -/
def Obligations.ScanOrdersAct : Prop :=
  ∀ (s : State) (k : Fin 8), s.inbox = [] → Memory.wf s.smp.mem = true → orderReady s k 3 = true →
    s.wch.order = none →
    (s.wch.reported = .hunting ∨ s.wch.reported = .reestablishing →
      ∃ t, exec .scanOrder s = .next t ∧ TurnedAway s t k .mergedWithHunt 0) ∧
    (s.wch.reported ≠ .hunting → s.wch.reported ≠ .reestablishing →
      ((∀ p, scanMember s p = false) → firstParameter s k = 0 →
        ∃ t, exec .scanOrder s = .next t ∧ TurnedAway s t k .scanned (BitVec.ofNat 16 s.ctu.table.length)) ∧
      ((∃ p, scanMember s p = true) → (∀ p, (s.module p).state ≠ .asleep) →
        ∃ t, exec .scanOrder s = .next t ∧ SlotTaken s t k 3 ∧
          t.wch.order = some ⟨nextHeld s k, ⟨scanMember s 0, scanMember s 1, scanMember s 2⟩⟩ ∧
          (∀ p, t.watch p =
            { s.watch p with requested := (s.watch p).requested || scanMember s p }) ∧
          t.ctu.table = (if firstParameter s k = 1 then s.ctu.table.filter (fun e => e.inAttempt || e.serving)
            else s.ctu.table) ∧
          t.cal = s.cal ∧ t.hnt = s.hnt ∧ t.mlc = s.mlc ∧ t.pln = s.pln ∧ t.vsw = s.vsw ∧ t.bsu = s.bsu ∧
          t.lmu = s.lmu ∧ t.flt = s.flt))

/-- A LOAD PLAN in IDLE, with no store under way, protects the plan area and reads its 287 bytes into the staged image, and
stays with PLN; otherwise it completes BUSY with detail 0 (R173). -/
def Obligations.LoadPlanStartsACopy : Prop :=
  ∀ (s : State) (k : Fin 8), s.inbox = [] → Memory.wf s.smp.mem = true → orderReady s k 4 = true →
    (s.cal.ctx.state = .idle → s.pln.storeState ≠ .storing →
      ∃ t, exec .loadPlan s = .next t ∧ SlotTaken s t k 4 ∧ t.smp.planProtected = true ∧
        t.pln = { s.pln with
          copy := some ⟨decide (firstParameter s k = 1), false⟩
          staged := .bytes (memReadAll s.smp.mem 0x680 287)
          held := some (nextHeld s k) } ∧
        t.smp.causes = s.smp.causes ∧ ((t.withOrd s.ord).withSmp s.smp).withPln s.pln = s) ∧
    (s.cal.ctx.state ≠ .idle ∨ s.pln.storeState = .storing →
      ∃ t, exec .loadPlan s = .next t ∧ TurnedAway s t k .busy 0)

/-- A MODULE order: for a position that is not wired or is ABSENT it completes ABSENT; for a module that holds the serving
call, an attempt record or the answer in progress it completes BUSY, with a detail that the spec does not state (a free
value, log entry 37). IN_SERVICE for a module that is not lost, and RESTART of one in HELD, complete DONE with its state
code. IN_SERVICE for a lost module boots it with its failure count 0, and with its role set where another has replaced it;
OUT_OF_SERVICE puts the module out of service with its MRST held and its unprotected carriers gone, and completes DONE, with
substitution for an ACTIVE one; RESTART puts the module into BOOTING under the reset pulse with its failure count 0. The two
that boot wait for it (R17, R149, R156, R157, R158). -/
def Obligations.ModuleOrdersAct : Prop :=
  ∀ (s : State) (k : Fin 8), calmPart s = true → Memory.wf s.smp.mem = true → orderReady s k 5 = true →
    let p := positionOf (firstParameter s k)
    ((s.module p).wired = false ∨ (s.module p).state = .absent →
      ∃ t, exec .moduleOrder s = .next t ∧ TurnedAway s t k .absent 0) ∧
    ((s.module p).wired = true → (s.module p).state ≠ .absent →
      servingPos s.cal.ctx.serving = some p ∨ (s.record p).isSome = true ∨ s.cal.ctx.answer = some p →
      ∃ t detail, exec .moduleOrder s = .next t ∧ TurnedAway s t k .busy detail) ∧
    ((s.module p).wired = true → (s.module p).state ≠ .absent → holdsCall s p = false →
      s.cal.ctx.answer ≠ some p →
      (secondParameter s k = 0 → lostState (s.module p).state = false →
        ∃ t, exec .moduleOrder s = .next t ∧
          TurnedAway s t k .done (BitVec.ofNat 16 (stateCode (s.module p).state))) ∧
      (secondParameter s k = 2 → (s.module p).state = .held →
        ∃ t, exec .moduleOrder s = .next t ∧ TurnedAway s t k .done 1) ∧
      (huntRests s = true → scansRest s = true → s.cal.ctx.state = .idle → (s.module p).pendingRole = none →
        s.mlc.wait = none →
        (secondParameter s k = 0 → (s.module p).state = .failed ∨ (s.module p).state = .outOfService →
          ∃ t, exec .moduleOrder s = .next t ∧ SlotTaken s t k 5 ∧ (t.module p).state = .booting .boot ∧
            (t.module p).boot = some 8000 ∧ (t.module p).failures = 0 ∧ (t.module p).lastBatch = 0 ∧
            (t.module p).replaced = false ∧ mrstActive t p = false ∧
            ((t.module p).role, (t.module p).bands) =
              (if (s.module p).replaced then (Role.spare, s.pln.plan.allowed.get p)
                else ((s.module p).role, (s.module p).bands)) ∧
            t.mlc.wait = some ⟨nextHeld s k, p⟩ ∧ (∀ q, q ≠ p → (t.module q).state = (s.module q).state)) ∧
        (s.mlc.tx = none →
          (secondParameter s k = 1 → (s.module p).role ≠ .absent → (s.module p).state ≠ .outOfService →
            ∃ t, exec .moduleOrder s = .next t ∧ (t.module p).state = .outOfService ∧ mrstActive t p = true ∧
              Completed s t (nextHeld s k) .done 6 ∧
              t.ctu.table = s.ctu.table.filter (fun e => e.inAttempt || e.serving || e.key.pos != p) ∧
              (∀ q, q ≠ p → (t.module q).state = (s.module q).state) ∧
              let standsIn := fun q : Pos => (s.module q).role = .spare ∧ (s.module q).state ≠ .failed ∧
                (s.module q).state ≠ .outOfService ∧ (s.module q).state ≠ .absent
              (∀ q, (s.module p).role = .active → standsIn q → (∀ x, x < q → ¬ standsIn x) →
                (t.module q).role = .active ∧ (t.module p).replaced = true ∧
                ∀ x, x ≠ q → (t.module x).role = (s.module x).role) ∧
              ((s.module p).role = .spare ∨ (∀ q, ¬ standsIn q) →
                (∀ q, (t.module q).role = (s.module q).role) ∧ (t.module p).replaced = (s.module p).replaced)) ∧
          (secondParameter s k = 2 → (s.module p).state ≠ .held →
            (lostState (s.module p).state = true → (s.module p).replaced = false) →
            ∃ t, exec .moduleOrder s = .next t ∧ SlotTaken s t k 5 ∧ (t.module p).state = .booting .reset ∧
              (t.module p).pulse = some 100 ∧ (t.module p).failures = 0 ∧ (t.module p).restart = none ∧
              mrstActive t p = true ∧ t.mlc.wait = some ⟨nextHeld s k, p⟩ ∧
              (∀ q, q ≠ p → (t.module q).state = (s.module q).state)))))

/-! ### The box -/

/-- One sample of the pins: a sample at the filtered level makes the count 0; one that differs counts, and at the filter's
count is accepted with count 0 (20, 80, 200 and 4 samples); HOOK is not sampled without its strap (R118, R120). That one
command is one sample of all four pins is the model's reading of the table (log entry 10).

An accepted change of DOOR raises DOOR; QUIET is taken with no event, and forces the pins to their safe levels while it
is on; CALL at rest gives no event (R119, R127). A command that names the level an input already has cannot occur; that it
changes nothing is the model's choice (log entry 1). -/
def Obligations.InputsAreFilteredAndTaken : Prop :=
  (∀ (s : State) (x : Pins),
     let next := fun (threshold : Nat) (pin : Bool) (i : Input) =>
       if pin = i.level then { i with count := 0 }
       else if threshold ≤ i.count + 1 then ⟨pin, 0⟩
       else { i with count := i.count + 1 }
     ∃ t, exec (.inputSample x) s = .next t ∧ t.bsu.call = next 20 x.call s.bsu.call ∧
       t.bsu.hook = (if s.straps.hook then next 80 x.hook s.bsu.hook else s.bsu.hook) ∧
       t.bsu.door = next 200 x.door s.bsu.door ∧ t.bsu.quiet = next 4 x.quiet s.bsu.quiet ∧
       (t.bsu.door.level ≠ s.bsu.door.level → t.smp.causes.getLsbD 11 = true)) ∧
  (∀ s : State, calmPart s = true →
     exec .doorOpen s =
       .next (if s.bsu.door.level then s else raise .door (s.withBsu { s.bsu with door := ⟨true, 0⟩ })) ∧
     exec .doorClosed s =
       .next (if s.bsu.door.level then raise .door (s.withBsu { s.bsu with door := ⟨false, 0⟩ }) else s) ∧
     exec .callRest s = .next (if s.bsu.call.level then s.withBsu { s.bsu with call := ⟨false, 0⟩ } else s) ∧
     exec .quietOn s = .next (if s.bsu.quiet.level then s else s.withBsu { s.bsu with quiet := ⟨true, 0⟩ }) ∧
     exec .quietOff s = .next (if s.bsu.quiet.level then s.withBsu { s.bsu with quiet := ⟨false, 0⟩ } else s) ∧
     (∀ t o, exec .quietOn s = .next t → pinLevel t o = t.pln.plan.safeLevels.get o) ∧
     ∀ t o, exec .quietOff s = .next t → pinLevel t o = (t.bsu.outs.get o).latch)

/-- A press in an EMERGENCY call that is not clearing counts as a repeat press, 255 at most, and one in CLEARING is held; a
hook-on that is masked (in HUNTING and LOCATING, in REESTABLISHING with the message PENDING, in TALK under MASKED) sets
ABANDON_PENDING, and one in IDLE, CLEARING and CALLBACK_WAIT has no effect. Each changes that field of the context alone
(R69, R74). A press of a button already pressed, a hook-on of a hook already on and one on a box without the strap cannot
occur; that they change nothing is the model's choice (log entry 1).

A hook-on in TALK that is not masked clears the call with CALLER_HUNG_UP and destination CALLBACK_WAIT, and lets the
connection go. One in REESTABLISHING with a settled message clears it so too and stops the hunt; with nothing to release the
clearing is over at once, in CALLBACK_WAIT (R39, R74, R83, R85).

A press in a connected TEST call converts it: a held PLACE completes SUPERSEDED with the attempts total, the call clears with
CONVERTED and destination IDLE, and the press is held (R69, R83). -/
def Obligations.PressesAndHookOnAct : Prop :=
  (∀ s : State, s.inbox = [] → s.pln.phase = .released → clearingOver s = false →
     let x := s.cal.ctx.state
     (s.bsu.call.level = true → exec .callPress s = .next s) ∧
     (s.straps.hook = false ∨ s.bsu.hook.level = true → exec .hookOn s = .next s) ∧
     (s.bsu.call.level = false → s.cal.ctx.kind = .emergency →
       x = .hunting ∨ x = .locating ∨ x = .talk ∨ x = .reestablishing →
       ∃ t, exec .callPress s = .next t ∧
         t.cal.ctx = { s.cal.ctx with presses := min (s.cal.ctx.presses + 1) 255 } ∧
         t.bsu = { s.bsu with call := ⟨true, 0⟩ } ∧ ((t.withBsu s.bsu).withCal s.cal).withSmp s.smp = s) ∧
     (s.bsu.call.level = false → x = .clearing →
       ∃ t, exec .callPress s = .next t ∧
         t.cal.ctx = { s.cal.ctx with flags := { s.cal.ctx.flags with pressHeld := true } } ∧
         t.bsu = { s.bsu with call := ⟨true, 0⟩ } ∧ ((t.withBsu s.bsu).withCal s.cal).withSmp s.smp = s) ∧
     (s.straps.hook = true → s.bsu.hook.level = false →
       (x = .hunting ∨ x = .locating ∨ x = .reestablishing ∧ s.cal.ctx.message = .pending ∨
           x = .talk ∧ s.cal.ctx.flags.masked = true →
         ∃ t, exec .hookOn s = .next t ∧
           t.cal.ctx = { s.cal.ctx with flags := { s.cal.ctx.flags with abandonPending := true } } ∧
           t.bsu = { s.bsu with hook := ⟨true, 0⟩ } ∧ ((t.withBsu s.bsu).withCal s.cal).withSmp s.smp = s) ∧
       (x = .idle ∨ x = .clearing ∨ x = .callbackWait →
         exec .hookOn s = .next (s.withBsu { s.bsu with hook := ⟨true, 0⟩ })))) ∧
  (∀ (s : State) (p : Pos), s.inbox = [] → s.straps.hook = true → s.bsu.hook.level = false →
     s.cal.ctx.state = .talk → s.cal.ctx.flags.masked = false → s.cal.ctx.flags.clearDeferred = false →
     servingPos s.cal.ctx.serving = some p → huntSettled s = true → s.wch.doze = false → flagsSound s = true →
     callPlaceFree p s = true →
     ∃ t, exec .hookOn s = .next t ∧ Clearing s t p .callerHungUp true ∧ t.bsu.hook = ⟨true, 0⟩) ∧
  (∀ s : State, calmPart s = true → s.straps.hook = true → s.bsu.hook.level = false →
     s.cal.ctx.state = .reestablishing → s.cal.ctx.message ≠ .pending → s.cal.ctx.huntLink = .active →
     s.hnt.state ≠ .idle → noRecord s = true → s.cal.ctx.serving = none → s.cal.ctx.flags.clearDeferred = false →
     s.wch.doze = false → flagsSound s = true →
     ((∃ p, s.cal.ctx.releases.get p = true) ∨ s.cal.ctx.answer.isSome = true →
       ∃ t, exec .hookOn s = .next t ∧ t.cal.ctx.state = .clearing ∧ t.cal.ctx.lastEnd = .callerHungUp ∧
         t.cal.destination = true ∧ t.cal.ctx.huntLink = .none ∧ t.hnt.state = .idle ∧ t.hnt.set = [] ∧
         t.vsw.conn = .none ∧ t.cal.ctx.releases = s.cal.ctx.releases ∧ t.mlc.queue = s.mlc.queue) ∧
     (s.cal.ctx.releases = ⟨false, false, false⟩ → s.cal.ctx.answer = none → s.cal.ctx.flags.pressHeld = false →
       s.cal.clear = none → 0 < s.pln.plan.call.callbackWindow →
       ∃ t, exec .hookOn s = .next t ∧ t.cal.ctx.state = .callbackWait ∧ t.cal.ctx.lastEnd = .callerHungUp ∧
         t.cal.ctx.callback = s.pln.plan.call.callbackWindow ∧ t.smp.causes.getLsbD 4 = true ∧
         t.cal.ctx.huntLink = .none ∧ t.hnt.state = .idle ∧ t.vsw.conn = .none ∧ t.mlc.queue = s.mlc.queue)) ∧
  (∀ (s : State) (p : Pos), s.inbox = [] → s.pln.phase = .released → s.bsu.call.level = false →
     s.cal.ctx.kind = .test → (s.cal.ctx.state = .talk ∨ s.cal.ctx.state = .locating ∧ s.lmu.current = none) →
     servingPos s.cal.ctx.serving = some p → huntSettled s = true → s.wch.doze = false → flagsSound s = true →
     callPlaceFree p s = true →
     ∃ t, exec .callPress s = .next t ∧ Clearing s t p .converted false ∧ t.cal.ctx.flags.pressHeld = true ∧
       t.cal.place = none ∧
       ∀ h kind, s.cal.place = some h → s.ord.slots.get h.slot = .taken kind h.take → Memory.wf s.smp.mem = true →
         Completed s t h .superseded (BitVec.ofNat 16 s.cal.ctx.attempts))

/-- A hook-off clears ABANDON_PENDING in every state, and changes nothing else in the context, nor anything of the hunt,
the delivery, the modules, the tones or the table: a hook-off in CALLBACK_WAIT starts no call (R75). -/
def Obligations.HookOffClearsAbandon : Prop :=
  ∀ s : State, s.inbox = [] → s.straps.hook = true → s.bsu.hook.level = true → clearingOver s = false →
    ∃ t, exec .hookOff s = .next t ∧
      t.cal.ctx = { s.cal.ctx with flags := { s.cal.ctx.flags with abandonPending := false } } ∧
      { t.cal with ctx := s.cal.ctx, fileGen := s.cal.fileGen } = s.cal ∧
      t.bsu = { s.bsu with hook := ⟨false, 0⟩ } ∧ ((t.withBsu s.bsu).withCal s.cal).withSmp s.smp = s ∧
      { t.smp with causes := s.smp.causes } = s.smp

/-- The expiries of the lamp, gap and tone timers: a blink's edge inverts the latch and starts the other half (R124); the
gap's end links the target, whose ports then carry speech under the mutes in force (R107, R110, R111); the end of a burst
closes the gate for the off time, and of a CHIME takes it from the requested set (R113, R115); the end of an off time
starts the cadence again (R113). A timer that does not run changes nothing (log entry 1). -/
def Obligations.LampGapAndToneTimers : Prop :=
  ∀ s : State, calmPart s = true →
    (∀ o a b, (s.bsu.outs.get o).timer.isSome = true → (s.bsu.outs.get o).pattern = .blink a b →
      exec (.patternTimerExpiry o) s =
        .next (s.withBsu { s.bsu with
          outs := s.bsu.outs.set o
            { s.bsu.outs.get o with
              latch := !(s.bsu.outs.get o).latch, firstHalf := !(s.bsu.outs.get o).firstHalf
              timer := some (if (s.bsu.outs.get o).firstHalf then b else a) } })) ∧
    (∀ o, (s.bsu.outs.get o).timer = none → exec (.patternTimerExpiry o) s = .next s) ∧
    (∀ p, s.vsw.conn = .gap p → s.vsw.gapTimer.isSome = true →
      ∃ t, exec .gapTimerExpiry s = .next t ∧ t = s.withVsw { s.vsw with conn := .linked p, gapTimer := none } ∧
        moduleInput t.vsw p = (if t.vsw.uplinkMute then .silence else .microphone) ∧
        (∀ q, q ≠ p → moduleInput t.vsw q = .silence) ∧
        (t.vsw.phaseOn = false → handsetDownlink t.vsw = if t.vsw.downlinkMute then .silence else .modulePort p)) ∧
    (s.vsw.gapTimer = none → exec .gapTimerExpiry s = .next s) ∧
    (∀ tone, s.vsw.active = some tone → s.vsw.phaseTimer.isSome = true → s.vsw.phaseOn = true → tone ≠ .chime →
      exec .phaseTimerExpiry s =
        .next (s.withVsw { s.vsw with phaseOn := false, phaseTimer := some s.vsw.cadenceOff })) ∧
    (s.vsw.active = some .chime → s.vsw.phaseTimer.isSome = true → s.vsw.phaseOn = true →
      ∃ t, exec .phaseTimerExpiry s = .next t ∧ t.vsw.requested = { s.vsw.requested with chime := false } ∧
        t.vsw.active = topTone { s.vsw.requested with chime := false } ∧ t.vsw.conn = s.vsw.conn ∧ t.withVsw s.vsw = s) ∧
    ∀ tone, s.vsw.active = some tone → s.vsw.phaseTimer.isSome = true → s.vsw.phaseOn = false →
      ∃ t, exec .phaseTimerExpiry s = .next t ∧ t.vsw.phaseOn = true ∧ t.vsw.active = some tone ∧
        t.vsw.phaseTimer = some (cadenceOf s.pln.plan tone).1 ∧ handsetDownlink t.vsw = .tone tone ∧ t.withVsw s.vsw = s

/-! ### The call's timers and the hunt -/

/-- The hook mask ends: without ABANDON_PENDING the mask alone is lifted, with it the caller hangs up (R73, R74). The
callback window ends: the call enters IDLE with WINDOW_EXPIRED, its times and its connection absent, and the
lamps follow (R85, R123). That the expiry of a timer that does not run changes nothing is the model's choice (log entry
1). -/
def Obligations.MaskAndCallbackExpiries : Prop :=
  ∀ s : State, s.inbox = [] → clearingOver s = false →
    (s.cal.mask = none → exec .hookMaskExpiry s = .next s) ∧
    (s.cal.callbackTimer = none → exec .callbackTimerExpiry s = .next s) ∧
    (s.cal.mask.isSome = true → s.cal.ctx.flags.abandonPending = false →
      ∃ t, exec .hookMaskExpiry s = .next t ∧
        t.cal.ctx = { s.cal.ctx with flags := { s.cal.ctx.flags with masked := false } } ∧ t.cal.mask = none ∧
        (t.withCal s.cal).withSmp s.smp = s) ∧
    (∀ p, s.cal.mask.isSome = true → s.cal.ctx.flags.abandonPending = true → s.cal.ctx.state = .talk →
      s.cal.ctx.flags.clearDeferred = false → servingPos s.cal.ctx.serving = some p → huntSettled s = true →
      s.wch.doze = false → flagsSound s = true → callPlaceFree p s = true →
      ∃ t, exec .hookMaskExpiry s = .next t ∧ Clearing s t p .callerHungUp true) ∧
    (s.cal.callbackTimer.isSome = true → s.cal.ctx.state = .callbackWait → s.cal.ctx.answer = none →
      flagsSound s = true → s.wch.dozePending = false → (∀ p, (s.module p).pendingRole = none) →
      ∃ t, exec .callbackTimerExpiry s = .next t ∧ t.cal.ctx.state = .idle ∧ t.cal.ctx.lastEnd = .windowExpired ∧
        t.cal.callbackTimer = none ∧ t.cal.ctx.callback = 0 ∧ t.cal.ctx.start = none ∧ t.cal.ctx.connect = none ∧
        t.cal.ctx.serving = none ∧ t.cal.ctx.sequence = s.cal.ctx.sequence ∧ t.vsw.conn = .none ∧
        LampsFollow s t .idle ∧
        t.wch.reported = .idle ∧ t.hnt = s.hnt ∧ t.ctu = s.ctu ∧ t.lmu = s.lmu ∧ t.mlc.queue = s.mlc.queue)

/-- The timers at which a hunt starts or fills a round: with no module to hunt or gather with and an empty table, the round
ends at once; the rounds completed rise, and the hunt pauses in BACKOFF for the pause of R30, which CAL is told (R30, R37,
R41, R43, R44, R61). -/
def Obligations.EmptyRoundsBackOff : Prop :=
  ∀ (c : Instr) (s : State), calmPart s = true → s.hnt.kind = .emergency → s.ctu.table = [] → usableCount s = 0 →
    noRecord s = true → s.cal.ctx.state ≠ .clearing →
    ((c = .wakeWaitExpiry ∧ s.hnt.wakeWait.isSome = true) ∨
      (c = .gatherTimerExpiry ∧ s.hnt.gather.isSome = true ∧ s.hnt.state = .gather ∧ s.hnt.wakeWait = none) ∨
      (c = .backoffTimerExpiry ∧ s.hnt.backoff.isSome = true ∧ s.hnt.state = .backoff ∧ s.hnt.wakeWait = none)) →
    let r := min (s.hnt.rounds + 1) 255
    let pause := min (s.pln.plan.hunt.backoffBase * 2 ^ (min r 9 - 1)) s.pln.plan.hunt.backoffCap
    ∃ t, exec c s = .next t ∧ t.hnt.state = .backoff ∧ t.hnt.rounds = r ∧
      t.hnt.backoff = some { left := 1000 * pause, fresh := true } ∧ t.hnt.set = [] ∧ t.hnt.wakeWait = none ∧
      noRecord t = true ∧ t.cal.ctx.rounds = r ∧ t.cal.ctx.backoff = pause ∧ t.cal.ctx.state = s.cal.ctx.state ∧
      t.mlc = s.mlc ∧ t.ctu = s.ctu ∧ t.wch = s.wch ∧ t.pln = s.pln ∧ t.vsw = s.vsw

/-- The launch stagger's end launches the next key of the set: a record in QUEUED with the next attempt number and the
round's dial form, its ORIGINATE in the queue, the entry in attempt, the stagger set again; CAL shows it (R32, R45, R46,
R47, R48). -/
def Obligations.StaggerEndLaunches : Prop :=
  ∀ (s : State) (k : Key), calmPart s = true → s.hnt.kind = .emergency → s.hnt.state = .round →
    s.hnt.wakeWait = none → s.hnt.stagger.isSome = true → s.hnt.set = [k] → freeForLaunch s k.pos = true →
    eligibleKey s.mlc.modules s.pln.plan s.ctu.table k = true → inFlightCount s < effectiveConcurrency s →
    callPlaceFree k.pos s = true → s.cal.ctx.state ≠ .clearing →
    let number := min (s.hnt.counter + 1) 65535
    let form := s.hnt.form % max s.pln.plan.lists.dialForms.length 1
    let dial := dialOf (s.pln.plan.lists.dialForms.getD form .category)
    ∃ t, exec .launchStaggerExpiry s = .next t ∧
      t.record k.pos = some
        { number := number, key := k, form := form, state := .queued, timer := none, outcome := .none,
          releaseOnReply := false, strayOnEnd := false, request := some (s.mlc.nextNumber + 1) } ∧
      (∀ p, p ≠ k.pos → t.record p = s.record p) ∧ t.hnt.set = [] ∧ t.hnt.counter = number ∧
      t.hnt.stagger = timerOf s.pln.plan.hunt.stagger ∧ t.hnt.state = .round ∧
      t.mlc.queue = s.mlc.queue ++ [nextRequest s .attempt k.pos .originate
        ([1] ++ bytes24 k.tag ++ bytes16 k.channel ++ [byteOf dial.length] ++ dial)] ∧
      t.ctu.table = s.ctu.table.map (fun e => if e.key == k then { e with inAttempt := true } else e) ∧
      t.cal.ctx.summaries.get k.pos = some ⟨number, .queued, .none, form⟩ ∧
      t.cal.ctx.attempts = max s.cal.ctx.attempts number ∧ t.cal.ctx.state = s.cal.ctx.state ∧ t.pln = s.pln ∧
      t.wch = s.wch ∧ t.vsw = s.vsw ∧ t.lmu = s.lmu

/-- A CALL_PROCEEDING moves a record from SENT to PROCEEDING, a CALL_ALERTING from SENT or PROCEEDING to ALERTING with the
answer timeout, and CAL shows it (R48, R49, R50). Where there is no such record, they change nothing.

The timer of an attempt that has been sent: the attempt is given up with TIMEOUT, a RELEASE is queued and the record
waits for its result (R49).

A CALL_ENDED with cause REFUSED_NETWORK or NUMBER_REJECTED ends a record in SENT, PROCEEDING or ALERTING with REFUSED, one
with another cause and a SERVICE_LOST end it with TIMEOUT: no RELEASE is sent, the carrier takes a failure with that last
outcome, and CAL's summary is absent (R15, R16, R50, R54). -/
def Obligations.AttemptsProgressAndTimeOut : Prop :=
  (∀ (s : State) (p : Pos), calmPart s = true → clearingOver s = false →
     (s.record p = none →
       exec (.callProceeding p) s = .next s ∧ exec (.callAlerting p) s = .next s) ∧
     ∀ a, s.record p = some a →
       (a.state = .sent → ∃ t, exec (.callProceeding p) s = .next t ∧
         t.record p = some { a with state := .proceeding } ∧
         t.cal.ctx.summaries.get p = some ⟨a.number, .proceeding, a.outcome, a.form⟩ ∧
         ((t.withHnt s.hnt).withCal s.cal).withSmp s.smp = s ∧
         { t.hnt with records := s.hnt.records } = s.hnt ∧ ∀ q, q ≠ p → t.record q = s.record q) ∧
       (a.state = .sent ∨ a.state = .proceeding → ∃ t, exec (.callAlerting p) s = .next t ∧
         t.record p = some { a with state := .alerting, timer := some (1000 * s.pln.plan.hunt.answerTimeout) } ∧
         t.cal.ctx.summaries.get p = some ⟨a.number, .alerting, a.outcome, a.form⟩ ∧
         ((t.withHnt s.hnt).withCal s.cal).withSmp s.smp = s ∧
         { t.hnt with records := s.hnt.records } = s.hnt ∧ ∀ q, q ≠ p → t.record q = s.record q)) ∧
  (∀ (s : State) (p : Pos) (a : Attempt), calmPart s = true → s.hnt.kind = .emergency → s.record p = some a →
     a.timer.isSome = true → (a.state = .sent ∨ a.state = .proceeding ∨ a.state = .alerting) → s.hnt.set = [] →
     callPlaceFree p s = true → s.cal.ctx.state ≠ .clearing →
     ∃ t, exec (.attemptTimerExpiry p) s = .next t ∧
       t.record p = some
         { a with
           state := .releasing, timer := none, outcome := .timeout, request := some (s.mlc.nextNumber + 1)
           strayOnEnd := false, releaseOnReply := false } ∧
       (∀ q, q ≠ p → t.record q = s.record q) ∧
       t.mlc.queue = s.mlc.queue ++ [nextRequest s .attempt p .release []] ∧ t.ctu = s.ctu ∧ t.wch = s.wch ∧
       t.vsw = s.vsw ∧ t.lmu = s.lmu ∧ t.cal.ctx.state = s.cal.ctx.state) ∧
  ∀ (s : State) (p : Pos) (a : Attempt) (e : Entry) (c : Instr) (last : LastOutcome), calmPart s = true →
    s.hnt.kind = .emergency → s.record p = some a →
    (a.state = .sent ∨ a.state = .proceeding ∨ a.state = .alerting) → a.strayOnEnd = false → s.hnt.set = [] →
    a.key.pos = p → findEntry s.ctu.table a.key = some e → lostState (s.module p).state = false →
    s.cal.ctx.state ≠ .clearing → servingPos s.cal.ctx.serving ≠ some p →
    ((∃ x, c = .callEnded p x ∧
        last = if x = .refusedNetwork ∨ x = .numberRejected then .refused else .timeout) ∨
      (c = .serviceLost p ∧ last = .timeout)) →
    ∃ t, exec c s = .next t ∧ t.record p = none ∧ (∀ q, q ≠ p → t.record q = s.record q) ∧
      (∃ x : Entry, findEntry t.ctu.table a.key = some x ∧ x = { e with
        failures := min (e.failures + 1) 7, last := last, inAttempt := false, score := scoreOf s.pln.plan x
        bench := if 6 ≤ e.failures then some s.pln.plan.hunt.benchTime else e.bench }) ∧
      t.cal.ctx.summaries.get p = none ∧ t.cal.ctx.state = s.cal.ctx.state ∧ t.mlc = s.mlc ∧ t.vsw = s.vsw ∧
      t.wch = s.wch ∧ t.lmu = s.lmu ∧ t.pln = s.pln

/-- The first CALL_ANSWERED wins: the hunt is WON, the carrier serves with its failures cleared, the call is in LOCATING on
it with a message PENDING, its delivery is SENDING, VSW is asked for the position, the lamps follow, and CALL_CONNECTED
is pending (R15, R55, R70, R87, R96, R123).

Another record is released as surplus (R55, R56): one in SENT, PROCEEDING or ALERTING waits in RELEASING with SURPLUS for its
RELEASE, its timer stopped; one in QUEUED ends with its ORIGINATE withdrawn, or, where that is in its transaction already,
waits for the result; one in RELEASING goes on.

The model's order (log entry 5): the RELEASE takes the next enqueue number, ahead of the DATA that CAL's taking of the winner
queues, though R55 hands the winner over at step 2 and releases the others at step 5. -/
def Obligations.FirstAnswerConnects : Prop :=
  (∀ (s : State) (p : Pos) (a : Attempt) (e : Entry), calmPart s = true → s.record p = some a →
    (a.state = .sent ∨ a.state = .proceeding ∨ a.state = .alerting) → (∀ q, q ≠ p → s.record q = none) →
    s.hnt.state = .round → a.key.pos = p → findEntry s.ctu.table a.key = some e →
    (s.cal.ctx.state = .hunting ∨ s.cal.ctx.state = .reestablishing) → flagsSound s = true → s.wch.doze = false →
    s.lmu.state = .idle → messagePlace s.mlc.queue p = none → roomFor 1 s = true →
    ∃ t, exec (.callAnswered p) s = .next t ∧ t.hnt.state = .won ∧ noRecord t = true ∧ t.hnt.set = [] ∧
      t.cal.ctx.state = .locating ∧ t.cal.ctx.serving = some (.hunted a.key) ∧ t.cal.ctx.connect = some s.clock ∧
      t.cal.ctx.message = .pending ∧ t.cal.ctx.flags.silent = (s.straps.hook && s.bsu.hook.level) ∧
      t.cal.ctx.summaries.get p = none ∧ t.smp.causes.getLsbD 3 = true ∧
      (∃ e', findEntry t.ctu.table a.key = some e' ∧ e'.serving = true ∧ e'.inAttempt = false ∧ e'.failures = 0 ∧
        e'.bench = none ∧ e'.last = .connected) ∧
      t.lmu.state = .sending ∧ t.lmu.pos = some p ∧ t.lmu.tries = 1 ∧ t.lmu.segment = 1 ∧
      t.mlc.queue.length = s.mlc.queue.length + 1 ∧
      (t.vsw.conn = .linked p ∨ t.vsw.conn = .gap p) ∧ t.vsw.uplinkMute = true ∧ t.vsw.downlinkMute = true ∧
      LampsFollow s t .locating) ∧
  ∀ (s : State) (p q : Pos) (a b : Attempt), calmPart s = true → s.record p = some a →
    (a.state = .sent ∨ a.state = .proceeding ∨ a.state = .alerting) → p ≠ q → s.record q = some b →
    (∀ x, x ≠ p → x ≠ q → s.record x = none) → s.hnt.state = .round → a.key.pos = p →
    s.cal.ctx.state = .hunting ∨ s.cal.ctx.state = .reestablishing → flagsSound s = true → s.wch.doze = false →
    s.lmu.state = .idle → messagePlace s.mlc.queue p = none → roomFor 2 s = true →
    ∃ t, exec (.callAnswered p) s = .next t ∧ t.hnt.state = .won ∧ t.hnt.set = [] ∧ t.record p = none ∧
      t.cal.ctx.state = .locating ∧ t.cal.ctx.serving = some (.hunted a.key) ∧
      (b.state = .releasing → t.record q = some b) ∧
      ((b.state = .sent ∨ b.state = .proceeding ∨ b.state = .alerting) → callPlace s.mlc.queue q = none →
        t.record q = some
          { b with
            state := .releasing, timer := none, outcome := .surplus, request := some (s.mlc.nextNumber + 1)
            strayOnEnd := false, releaseOnReply := false } ∧
        nextRequest s .attempt q .release [] ∈ t.mlc.queue) ∧
      ∀ n, b.state = .queued → b.request = some n → n ≤ s.mlc.nextNumber → b.strayOnEnd = false →
        ((∃ r ∈ s.mlc.queue, r.number = n) → (∀ r ∈ s.mlc.queue, r.number = n → r.owners = [.attempt]) →
          t.record q = none ∧ ∀ r ∈ t.mlc.queue, r.number ≠ n) ∧
        ((∀ r ∈ s.mlc.queue, r.number ≠ n) → t.record q = some { b with releaseOnReply := true })

/-- A CALL_ANSWERED for a record in SENT, PROCEEDING or ALERTING while the hunt is already WON makes that attempt surplus:
its timer stops, a RELEASE is queued and the record waits in RELEASING with SURPLUS; its carrier takes no failure, and the
winner is not affected (R58). -/
def Obligations.AnswerAfterTheWinnerIsSurplus : Prop :=
  ∀ (s : State) (p : Pos) (a : Attempt), calmPart s = true → s.record p = some a →
    (a.state = .sent ∨ a.state = .proceeding ∨ a.state = .alerting) → s.hnt.state = .won →
    callPlaceFree p s = true → clearingOver s = false →
    ∃ t, exec (.callAnswered p) s = .next t ∧
      t.record p = some
        { a with
          state := .releasing, timer := none, outcome := .surplus, request := some (s.mlc.nextNumber + 1)
          strayOnEnd := false, releaseOnReply := false } ∧
      t.mlc.queue = s.mlc.queue ++ [nextRequest s .attempt p .release []] ∧ t.ctu = s.ctu ∧ t.hnt.state = .won ∧
      (∀ q, q ≠ p → t.record q = s.record q) ∧ t.cal.ctx.serving = s.cal.ctx.serving ∧
      t.cal.ctx.state = s.cal.ctx.state ∧ t.lmu = s.lmu ∧ t.vsw = s.vsw ∧ t.wch = s.wch

/-! ### The location message -/

/-- An acknowledgement that does not come in time, and a DATA_RESULT REPEAT in AWAITING, fail the try: a new try sends
segment 1 again while the retries allow one (R97, R99, R100, R101). A delivery concluded in LOCATING: by ACCEPTED the message
is DELIVERED; by REJECTED, or by the failure of the last try, it is UNDELIVERED with MESSAGE_UNDELIVERED; its DATA still in
the queue is withdrawn; the call enters TALK with the hook mask, unmuted, under the chime, and the lamps follow. With a hold
of 0 the mask ends at once, and a caller who has hung up is cleared; a deferred CLEAR acts in place of TALK (R72, R73, R86,
R87, R100, R101, R102, R123). A DATA_RESULT without a delivery, from another position, or before a reply has been seen, and a
REPEAT in SENDING, are ignored (R100).

A message record (R94, R95): its bytes sum to 0 modulo 256 whatever they are; it is 44 bytes and the text long, starts with
format 1, the flags and the call sequence, then holds the location's fields, or zeros without one, the attempts and the
seconds since the start, the serving band class and tag, 255 and 0 for an incoming call, and the text; it fits one segment up
to 48 bytes, two beyond (R96, R97). -/
def Obligations.MessagesAreDelivered : Prop :=
  (∀ (s : State) (p : Pos) (record : List Byte), calmPart s = true → s.lmu.pos = some p → s.lmu.record = some record →
     (∀ c, s.lmu.state = .awaiting →
       (c = .acknowledgementTimerExpiry ∧ s.lmu.ackTimer.isSome = true ∨
         c = .dataResult p .repeated ∧ s.lmu.replySeen = true) →
       s.lmu.tries < s.pln.plan.hunt.messageRetries + 1 → messagePlace s.mlc.queue p = none → roomFor 1 s = true →
       ∃ t, exec c s = .next t ∧
         t.lmu = { s.lmu with
           state := .sending, segment := 1, tries := s.lmu.tries + 1, ackTimer := none
           current := some (s.mlc.nextNumber + 1) } ∧
         t.mlc.queue = s.mlc.queue ++ [nextRequest s .lmu p .data
           ([1, byteOf s.lmu.segments] ++ segmentBytes record 1)] ∧
         (t.withLmu s.lmu).withMlc s.mlc = s) ∧
     ∀ (c : Instr) (delivered : Bool),
       (c = .dataResult p .accepted ∧ delivered = true ∧ s.lmu.state ≠ .idle ∧ s.lmu.replySeen = true ∨
         c = .dataResult p .rejected ∧ delivered = false ∧ s.lmu.state ≠ .idle ∧ s.lmu.replySeen = true ∨
         c = .dataResult p .repeated ∧ delivered = false ∧ s.lmu.state = .awaiting ∧ s.lmu.replySeen = true ∧
           s.pln.plan.hunt.messageRetries + 1 ≤ s.lmu.tries ∨
         c = .acknowledgementTimerExpiry ∧ delivered = false ∧ s.lmu.state = .awaiting ∧ s.lmu.ackTimer.isSome = true ∧
           s.pln.plan.hunt.messageRetries + 1 ≤ s.lmu.tries) →
       s.cal.ctx.state = .locating → flagsSound s = true → s.wch.doze = false →
       (∀ r ∈ s.mlc.queue, s.lmu.current = some r.number → r.owners = [.lmu]) →
       let waiting := s.mlc.queue.filter (fun r => s.lmu.current != some r.number)
       let concluded := fun t : State =>
         t.cal.ctx.message = (if delivered then .delivered else .undelivered) ∧
           (delivered = false → t.smp.causes.getLsbD 6 = true) ∧ t.lmu.state = .idle ∧ t.lmu.pos = none ∧
           t.lmu.record = none ∧ t.lmu.current = none ∧ t.lmu.ackTimer = none ∧ t.vsw.uplinkMute = false ∧
           t.vsw.downlinkMute = false ∧ t.vsw.requested.wait = false ∧ t.pln = s.pln
       (s.cal.ctx.flags.clearDeferred = false →
         0 < s.pln.plan.call.holdAfter ∨ s.cal.ctx.flags.abandonPending = false →
         ∃ t, exec c s = .next t ∧ concluded t ∧ t.cal.ctx.state = .talk ∧ LampsFollow s t .talk ∧
           t.cal.ctx.flags.masked = decide (0 < s.pln.plan.call.holdAfter) ∧
           t.cal.mask = (if s.pln.plan.call.holdAfter = 0 then none else some (1000 * s.pln.plan.call.holdAfter)) ∧
           t.cal.ctx.serving = s.cal.ctx.serving ∧ t.vsw.requested.chime = true ∧ t.hnt = s.hnt ∧ t.ctu = s.ctu ∧
           t.mlc.queue = waiting) ∧
       (servingPos s.cal.ctx.serving = some p → huntSettled s = true → callPlaceFree p s = true →
         let cleared := fun (t : State) (cause : LastEnd) (toCallback : Bool) =>
           t.cal.ctx.state = .clearing ∧ t.cal.ctx.lastEnd = cause ∧ t.cal.destination = toCallback ∧
             t.cal.ctx.serving = none ∧ t.cal.ctx.releases = s.cal.ctx.releases.set p true ∧
             t.mlc.queue = waiting ++ [nextRequest s .calRelease p .release []] ∧ t.cal.mask = none ∧
             t.cal.ctx.flags.masked = false ∧ t.vsw.conn = .none ∧ t.cal.clear = s.cal.clear
         (s.cal.ctx.flags.clearDeferred = true →
           ∃ t, exec c s = .next t ∧ concluded t ∧ cleared t .hostCleared false ∧
             t.cal.ctx.flags.clearDeferred = false) ∧
         (s.cal.ctx.flags.clearDeferred = false → s.pln.plan.call.holdAfter = 0 →
           s.cal.ctx.flags.abandonPending = true →
           ∃ t, exec c s = .next t ∧ concluded t ∧ cleared t .callerHungUp true))) ∧
  (∀ (s : State) (p : Pos) (v : DataVerdict), s.inbox = [] →
     (s.lmu.state = .idle ∨ s.lmu.pos ≠ some p ∨ s.lmu.replySeen = false ∨ (v = .repeated ∧ s.lmu.state = .sending)) →
     exec (.dataResult p v) s = .next s) ∧
  (∀ (l : Option Location) (ctx : Context) (clock : BitVec 32) (table : List Entry),
     (∀ x, l = some x → x.boxId.length = 16) →
     let r := messageRecord l ctx clock table
     let b := fun i => r.getD i 0
     let w := fun i => wordOf (b i) (b (i + 1))
     let long := fun i => w (i + 2) ++ w i
     let text : List Byte := (l.map (·.text)).getD []
     byteSum r = 0 ∧ r.length = 44 + text.length ∧ b 0 = 1 ∧
       (List.range 8).map (b 1).getLsbD =
         [ctx.kind == .test, ctx.flags.reestablished, ctx.flags.silent, l.isNone, decide (1 ≤ ctx.presses), false, false
           , false] ∧
       w 2 = ctx.sequence ∧
       (∀ x, l = some x → (r.drop 4).take 16 = x.boxId ∧ long 20 = x.latitude ∧ long 24 = x.longitude ∧
         w 28 = x.route ∧ long 30 = x.along ∧ b 34 = x.direction) ∧
       (l = none → ∀ i, 4 ≤ i → i < 35 → b i = 0) ∧ b 35 = BitVec.ofNat 8 (min ctx.attempts 255) ∧
       (∀ u, ctx.start = some u → w 36 = BitVec.ofNat 16 (min (clock - u).toNat 65535)) ∧
       (∀ k e, ctx.serving = some (.hunted k) → findEntry table k = some e →
         [Band.low, .mid, .high][(b 38).toNat]? = some e.band ∧ b 41 ++ b 40 ++ b 39 = k.tag) ∧
       (∀ q, ctx.serving = some (.incoming q) → b 38 = 255 ∧ b 39 = 0 ∧ b 40 = 0 ∧ b 41 = 0) ∧
       b 42 = BitVec.ofNat 8 text.length ∧ (r.drop 43).take text.length = text ∧
       segmentCount r = (if r.length ≤ 48 then 1 else 2) ∧ segmentBytes r 1 ++ segmentBytes r 2 = r ∧
       (segmentBytes r 1).length ≤ 48)

/-! ### Connections that end, and incoming calls -/

/-- A connection that ends in LOCATING or TALK: by CALL_ENDED with another cause than NORMAL, or SERVICE_LOST, the call looks
for another in REESTABLISHING with the last end cause of the table of R76, and its carrier is reported DROPPED: its serving
flag is cleared and it takes a failure; by CALL_ENDED NORMAL the centre has cleared it, its carrier serves no more, and the
callback window opens. In LOCATING the delivery is stopped: at a loss the message stays PENDING, at a clear it is UNDELIVERED
with MESSAGE_UNDELIVERED. The lamps follow (R11, R15, R76, R77, R78, R85, R103, R123). -/
def Obligations.ConnectionEndsInTalk : Prop :=
  ∀ (s : State) (p : Pos), s.inbox = [] → s.pln.damaged = [] →
    (s.cal.ctx.state = .talk ∨ s.cal.ctx.state = .locating) →
    servingPos s.cal.ctx.serving = some p → s.record p = none → flagsSound s = true →
    (∀ (c : Instr) (cause : LastEnd), s.cal.ctx.kind = .emergency → s.hnt.kind = .emergency →
      s.cal.ctx.flags.clearDeferred = false →
      (s.cal.ctx.flags.abandonPending = false ∨ s.cal.ctx.message = .pending) →
      (c = .serviceLost p ∧ cause = .radioLost ∨ c = .callEnded p .refusedNetwork ∧ cause = .networkRefused ∨
        c = .callEnded p .numberRejected ∧ cause = .networkRefused ∨ c = .callEnded p .noService ∧ cause = .radioLost ∨
        c = .callEnded p .radioLost ∧ cause = .radioLost ∨ c = .callEnded p .other ∧ cause = .networkOther) →
      ∃ t, exec c s = .next t ∧ t.cal.ctx.state = .reestablishing ∧ t.cal.ctx.lastEnd = cause ∧
        t.cal.ctx.serving = none ∧ (s.cal.ctx.state = .talk → t.cal.mask = none) ∧
        t.cal.ctx.flags.reestablished = true ∧
        t.cal.ctx.reestablishes = min (s.cal.ctx.reestablishes + 1) 255 ∧ t.cal.ctx.message = s.cal.ctx.message ∧
        t.cal.ctx.start = s.cal.ctx.start ∧ t.cal.ctx.huntLink = .active ∧
        (s.cal.ctx.state = .locating → t.lmu.state = .idle ∧ (s.lmu.state ≠ .idle → t.vsw.requested.wait = false)) ∧
        (∀ k e, s.cal.ctx.serving = some (.hunted k) → findEntry s.ctu.table k = some e →
          lostState (s.module p).state = false →
          ∃ x, findEntry t.ctu.table k = some x ∧ x.serving = false ∧ x.failures = min (e.failures + 1) 7 ∧
            x.last = .dropped ∧ x.score = scoreOf s.pln.plan x ∧
            x.bench = (if 6 ≤ e.failures then some s.pln.plan.hunt.benchTime else e.bench)) ∧
        LampsFollow s t .reestablishing) ∧
    (huntSettled s = true → s.wch.doze = false → s.cal.ctx.flags.clearDeferred = false →
      0 < s.pln.plan.call.callbackWindow →
      ∃ t, exec (.callEnded p .normal) s = .next t ∧ t.cal.ctx.state = .callbackWait ∧
        t.cal.ctx.lastEnd = .centreCleared ∧ t.cal.ctx.serving = none ∧
        t.cal.callbackTimer = some { left := 1000 * s.pln.plan.call.callbackWindow, fresh := true } ∧
        t.cal.ctx.callback = s.pln.plan.call.callbackWindow ∧ t.smp.causes.getLsbD 4 = true ∧
        t.vsw.conn = .none ∧ (s.cal.ctx.huntLink = .none → t.hnt = s.hnt) ∧
        (s.cal.ctx.state = .talk → t.mlc.queue = s.mlc.queue ∧ t.cal.ctx.message = s.cal.ctx.message) ∧
        (s.cal.ctx.state = .locating → t.lmu.state = .idle ∧
          (s.cal.ctx.message = .pending → t.cal.ctx.message = .undelivered ∧ t.smp.causes.getLsbD 6 = true)) ∧
        (∀ k, s.cal.ctx.serving = some (.hunted k) → ∀ e ∈ t.ctu.table, e.key = k → e.serving = false) ∧
        t.pln = s.pln ∧ LampsFollow s t .callbackWait)

/-- An INCOMING with no answer in progress: in CALLBACK_WAIT, HUNTING and REESTABLISHING, and in IDLE where the plan lets
it, an ANSWER is queued and the position is the answer in progress; in IDLE where it does not, and in LOCATING, TALK and
CLEARING, a REJECT is queued. With an answer in progress, in every state, one at the same position changes nothing, and one
at another position is sent a REJECT (R80, R81). -/
def Obligations.IncomingCallsAreAnswered : Prop :=
  ∀ (s : State) (p : Pos) (caller : List Byte), calmPart s = true → clearingOver s = false →
    callPlaceFree p s = true →
    let answers : Bool := s.cal.ctx.state == .callbackWait || s.cal.ctx.state == .hunting ||
      s.cal.ctx.state == .reestablishing || (s.cal.ctx.state == .idle && s.pln.plan.call.idleAnswer)
    (s.cal.ctx.answer = some p → exec (.incoming p caller) s = .next s) ∧
    (∀ q, s.cal.ctx.answer = some q → q ≠ p →
      exec (.incoming p caller) s =
        .next (s.withMlc { s.mlc with
          queue := s.mlc.queue ++ [nextRequest s .calReject p .reject []], nextNumber := s.mlc.nextNumber + 1 })) ∧
    (s.cal.ctx.answer = none → answers = true →
      ∃ t, exec (.incoming p caller) s = .next t ∧ t.cal.ctx = { s.cal.ctx with answer := some p } ∧
        t.mlc = { s.mlc with
          queue := s.mlc.queue ++ [nextRequest s .calAnswer p .answer []], nextNumber := s.mlc.nextNumber + 1 } ∧
        t.vsw.requested = { s.vsw.requested with
          callbackRing := s.vsw.requested.callbackRing ||
            (!s.straps.hook && (s.cal.ctx.state == .idle || s.cal.ctx.state == .callbackWait)) } ∧
        t.hnt = s.hnt ∧ t.ctu = s.ctu ∧ t.lmu = s.lmu ∧ t.wch = s.wch ∧ t.pln = s.pln ∧ t.bsu = s.bsu) ∧
    (s.cal.ctx.answer = none → answers = false →
      exec (.incoming p caller) s =
        .next (s.withMlc { s.mlc with
          queue := s.mlc.queue ++ [nextRequest s .calReject p .reject []], nextNumber := s.mlc.nextNumber + 1 }))

/-! ### The module link -/

/-- The module timers: the poll timer queues a POLL with the last batch and is set to the interval in force (R143); the
boot timer's end queues a PROBE in phase PROBE, the end of a RESTART's pulse releases MRST for the boot time, and the probe
retry queues a PROBE again (R149). A timer that does not run changes nothing (log entry 1).

The end of a SUSPECT module's pulse: it enters BOOTING with its MRST released and the boot time running (R149, R150). -/
def Obligations.ModuleTimersRun : Prop :=
  (∀ (s : State) (p : Pos), s.inbox = [] → roomFor 1 s = true →
     let m := s.module p
     let interval := if s.cal.ctx.state ≠ .idle then 500 else if s.wch.doze then 30000 else 5000
     (m.poll = none → exec (.pollTimerExpiry p) s = .next s) ∧
     (m.boot = none → exec (.bootTimerExpiry p) s = .next s) ∧
     (m.pulse = none → exec (.pulseTimerExpiry p) s = .next s) ∧
     (m.probeRetry = none → exec (.probeRetryExpiry p) s = .next s) ∧
     (m.poll.isSome = true → m.sleepAgain = false →
       s.mlc.queue.any (fun r => r.pos == p && r.kind == .poll) = false →
       ∃ t, exec (.pollTimerExpiry p) s = .next t ∧
         t.module p = { m with poll := some { left := interval, fresh := true } } ∧
         (∀ q, q ≠ p → t.module q = s.module q) ∧
         t.mlc.queue = s.mlc.queue ++ [nextRequest s .mlc p .poll [m.lastBatch]] ∧ t.mlc.tx = s.mlc.tx ∧
         t.withMlc s.mlc = s) ∧
     (m.boot.isSome = true → m.state = .booting .boot →
       ∃ t, exec (.bootTimerExpiry p) s = .next t ∧ t.module p = { m with state := .booting .probe, boot := none } ∧
         (∀ q, q ≠ p → t.module q = s.module q) ∧
         t.mlc.queue = s.mlc.queue ++ [nextRequest s .mlc p .probe []] ∧ t.mlc.tx = s.mlc.tx ∧ t.withMlc s.mlc = s) ∧
     (m.pulse.isSome = true → m.state = .booting .reset →
       ∃ t, exec (.pulseTimerExpiry p) s = .next t ∧
         t.module p = { m with state := .booting .boot, pulse := none, boot := some 8000, lastBatch := 0 } ∧
         (∀ q, q ≠ p → t.module q = s.module q) ∧ mrstActive t p = false ∧ t.mlc.queue = s.mlc.queue ∧
         t.mlc.tx = s.mlc.tx ∧ t.withMlc s.mlc = s) ∧
     (m.probeRetry.isSome = true → m.state = .booting .probe →
       ∃ t, exec (.probeRetryExpiry p) s = .next t ∧ t.module p = { m with probeRetry := none } ∧
         (∀ q, q ≠ p → t.module q = s.module q) ∧
         t.mlc.queue = s.mlc.queue ++ [nextRequest s .mlc p .probe []] ∧ t.mlc.tx = s.mlc.tx ∧ t.withMlc s.mlc = s)) ∧
  (∀ (s : State) (p : Pos), calmPart s = true → (s.module p).state = .suspect → (s.module p).pulse.isSome = true →
     (s.module p).pendingRole = none → huntRests s = true → scansRest s = true → s.cal.ctx.state = .idle →
     ∃ t, exec (.pulseTimerExpiry p) s = .next t ∧ (t.module p).state = .booting .boot ∧
       (t.module p).boot = some 8000 ∧ (t.module p).pulse = none ∧ (t.module p).lastBatch = 0 ∧ mrstActive t p = false ∧
       (∀ q, q ≠ p → t.module q = s.module q) ∧ t.mlc.queue = s.mlc.queue ∧ t.cal = s.cal ∧ t.hnt = s.hnt ∧
       t.ctu = s.ctu ∧ t.vsw = s.vsw)

/-- A transaction step by step (R132, R133, R134, R141): the head of the queue is sent where its module's state can take it:
a PROBE in phase PROBE, a WAKE in ASLEEP, any other kind in IN_SERVICE. Otherwise its requester is answered NOT_READY and the
next head is taken in the same event: a REJECT and MLC's own PROBE or POLL have no further effect, MLC's own SLEEP is to be
queued again, and CAL's RELEASE leaves the pending releases (R79, R81, R149).

The deadline runs from the end of the frame; a try that the deadline, an error or a BAD_FRAME ends is followed by an idle
wait while tries remain, and the frame is sent again at its end; an idle wait that lasts too long fails the next try. A stray
character changes nothing (R129). -/
def Obligations.TransactionSteps : Prop :=
  ∀ s : State, s.inbox = [] →
    let ready := fun r : Request => match r.kind with
      | .probe => (s.module r.pos).state = .booting .probe
      | .wake => (s.module r.pos).state = .asleep
      | _ => (s.module r.pos).state = .inService
    let without := fun r : Request =>
      s.withMlc { s.mlc with queue := s.mlc.queue.filter (fun x => !(x.number == r.number)) }
    (∀ c, exec (.strayCharacter c) s = .next s) ∧
    (∀ r, s.mlc.tx = none → queueHead s.mlc.queue = some r →
      (ready r → exec .takeQueueHead s = .next (s.withMlc { (without r).mlc with tx := some ⟨r, 1, .sending⟩ })) ∧
      (¬ ready r →
        (r.owners = [.calReject] ∨ r.owners = [.mlc] ∧ r.kind ≠ .sleep →
          exec .takeQueueHead s = exec .takeQueueHead (without r)) ∧
        (r.owners = [.mlc] → r.kind = .sleep →
          exec .takeQueueHead s = exec .takeQueueHead
            ((without r).withModule r.pos { s.module r.pos with sleepAgain := true })) ∧
        (r.owners = [.calRelease] → s.mlc.queue = [r] → s.cal.ctx.state ≠ .clearing →
          ∃ t, exec .takeQueueHead s = .next t ∧ t.mlc = (without r).mlc ∧
            t.cal.ctx = { s.cal.ctx with releases := s.cal.ctx.releases.set r.pos false } ∧
            ((t.withMlc s.mlc).withCal s.cal).withSmp s.smp = s))) ∧
    (s.mlc.queue = [] → exec .takeQueueHead s = .next s) ∧
    (∀ r n, s.mlc.tx = some ⟨r, n, .sending⟩ →
      exec .requestFrameSent s = .next (s.withMlc { s.mlc with tx := some ⟨r, n, .waiting 250⟩ })) ∧
    (∀ r n d, s.mlc.tx = some ⟨r, n, .waiting d⟩ → n < 3 →
      let u := s.withMlc { s.mlc with tx := some ⟨r, n, .idleWait 25⟩ }
      exec .replyDeadlineExpiry s = .next u ∧ (∀ e, exec (.replyError e) s = .next u) ∧
        exec (.replyNak .badFrame) s = .next u) ∧
    (∀ r n d, s.mlc.tx = some ⟨r, n, .idleWait d⟩ →
      exec .idleWaitEnd s = .next (s.withMlc { s.mlc with tx := some ⟨r, n + 1, .sending⟩ }) ∧
      (n + 1 < 3 →
        exec .idleWaitTimeout s = .next (s.withMlc { s.mlc with tx := some ⟨r, n + 1, .idleWait 25⟩ })))

/-- The head of a queue is a request of the highest class present, the oldest of that class (R136, R141): class 1 are
ORIGINATE, RELEASE, ANSWER, REJECT and DATA, class 2 is POLL, class 3 the others.

Frames (R130): a request's characters are an address character, with the position in bits 7 to 5 and the code of its kind in
bits 4 to 0, and data characters: the payload's length, the payload and a check; the bytes of all sum to 0 modulo 256. A
reply frame without payload whose kind the request allows is read as that reply (R132, R133). -/
def Obligations.QueueHeadAndFrames : Prop :=
  (∀ (q : List Request) (r : Request), queueHead q = some r →
     let cls : ReqKind → Nat
       | .originate => 1
       | .release => 1
       | .answer => 1
       | .reject => 1
       | .data => 1
       | .poll => 2
       | _ => 3
     r ∈ q ∧ ∀ x ∈ q, cls r.kind < cls x.kind ∨ (cls r.kind = cls x.kind ∧ r.number ≤ x.number)) ∧
  ((∀ r : Request, r.payload.length ≤ 250 →
     let code : ReqKind → Nat
       | .probe => 1
       | .scan => 2
       | .scanFetch => 3
       | .originate => 4
       | .release => 5
       | .answer => 6
       | .reject => 7
       | .data => 8
       | .poll => 9
       | .sleep => 10
       | .wake => 11
     ∃ address check, requestFrame r =
         ⟨true, address⟩ :: ⟨false, BitVec.ofNat 8 r.payload.length⟩ :: (r.payload ++ [check]).map (⟨false, ·⟩) ∧
       (address.extractLsb' 5 3).toNat = r.pos.val ∧ (address.extractLsb' 0 5).toNat = code r.kind ∧
       byteSum ((requestFrame r).map (·.data)) = 0) ∧
     ∀ k : ReqKind, k ≠ .probe → k ≠ .scanFetch → k ≠ .poll →
       readReply k [some ⟨true, 0xF0⟩, some ⟨false, 0⟩, some ⟨false, 0x10⟩] = some .replyOk ∧
       readReply k [some ⟨true, 0xF0⟩, some ⟨false, 0⟩, some ⟨false, 0x11⟩] = some (.replyError .check) ∧
       readReply k [some ⟨true, 0x10⟩, some ⟨false, 0⟩, some ⟨false, 0xF0⟩] = some (.replyError .destination))

/-- A third failed try ends the transaction: the link is free, and LINK_ERROR is logged with the position and the error
kind of that try, or counted when the log is full (R134, R197).

The third LINK_FAILED in a row of a module IN_SERVICE or ASLEEP, of another request than a PROBE: it becomes SUSPECT under a
reset pulse, with its failure count 0 and its restart time, and MODULE_RESTARTED is logged, where it has not been restarted
in the last 300 s (R150); and FAILED with detail 2 where it has. A PROBE that fails makes its module FAILED at once, with
detail 1 (R149). In FAILED, MRST is held and every timer stopped, MODULE_FAILED is raised and logged, and the carriers of the
position are gone but for those in attempt or serving (R17, R151). For a FAILED module with the role ACTIVE, the
lowest-numbered SPARE that is not itself lost or ABSENT takes the role and the union of the bands, is woken if ASLEEP, and
keeps no SLEEP of MLC's if IN_SERVICE; where there is none, the roles stay (R156). LAMP_FAULT follows the module, and shows
in the end what the modules then give (R123). -/
def Obligations.ThirdFailureEndsTheTransaction : Prop :=
  ∀ (s : State) (c : Instr) (error : Nat) (r : Request) (d : Nat), s.inbox = [] → s.mlc.tx = some ⟨r, 3, .waiting d⟩ →
    ((c = .replyDeadlineExpiry ∧ error = 1) ∨ (c = .replyNak .badFrame ∧ error = 8) ∨
      ∃ e, c = .replyError e ∧ error = errorCode e) →
    (∃ t, exec c s = .next t ∧ t.mlc.tx = none ∧ (s.flt.tally < 255 → s.flt.tally < t.flt.tally) ∧
      (s.flt.log.length < 4 → s.flt.log ++ [⟨s.clock, .linkError, some r.pos, error, none⟩] <+: t.flt.log)) ∧
    (s.pln.damaged = [] → (r.owners = [.mlc] ∨ r.owners = [.wch] ∨ r.owners = [.calReject]) →
      (s.module r.pos).pendingRole = none → huntRests s = true → scansRest s = true → s.cal.ctx.state = .idle →
      let m := s.module r.pos
      let third : Bool := r.kind != .probe && m.failures == 2 && (m.state == .inService || m.state == .asleep)
      let recent : Bool := m.restart.any (fun u => decide ((s.clock - u).toNat < 300))
      (third = true → recent = false →
        ∃ t, exec c s = .next t ∧ (t.module r.pos).state = .suspect ∧ (t.module r.pos).failures = 0 ∧
          (t.module r.pos).pulse = some 100 ∧ (t.module r.pos).restart = some s.clock ∧ mrstActive t r.pos = true ∧
          (∀ q, q ≠ r.pos → (t.module q).state = (s.module q).state) ∧ t.ctu = s.ctu ∧
          LampFollows s t .idle .lampFault ∧
          (s.flt.log.length < 3 → s.flt.log ++
            [⟨s.clock, .linkError, some r.pos, error, none⟩, ⟨s.clock, .moduleRestarted, some r.pos, 0, none⟩]
              <+: t.flt.log)) ∧
      ∀ detail, (third = true ∧ recent = true ∧ detail = 2 ∨
          r.kind = .probe ∧ m.state = .booting .probe ∧ detail = 1) →
        ∃ t, exec c s = .next t ∧ (t.module r.pos).state = .failed ∧ (third = true → (t.module r.pos).failures = 0) ∧
          (t.module r.pos).poll = none ∧ (t.module r.pos).boot = none ∧ (t.module r.pos).pulse = none ∧
          (t.module r.pos).probeRetry = none ∧ mrstActive t r.pos = true ∧ t.smp.causes.getLsbD 5 = true ∧
          (s.flt.log.length < 3 → s.flt.log ++
            [⟨s.clock, .linkError, some r.pos, error, none⟩, ⟨s.clock, .moduleFailed, some r.pos, detail, none⟩]
              <+: t.flt.log) ∧
          t.ctu.table = s.ctu.table.filter (fun e => e.inAttempt || e.serving || e.key.pos != r.pos) ∧
          (∀ q, q ≠ r.pos → (t.module q).state = (s.module q).state) ∧
          (if (s.bsu.outs.get .lampFault).host then t.bsu.outs.get .lampFault = s.bsu.outs.get .lampFault
            else (t.bsu.outs.get .lampFault).pattern =
              selectPattern .idle (anyUsable t.mlc.modules) t.pln.source .lampFault) ∧
          let standsIn := fun q : Pos => (s.module q).role = .spare ∧ (s.module q).state ≠ .failed ∧
            (s.module q).state ≠ .outOfService ∧ (s.module q).state ≠ .absent
          (∀ q, m.role = .active → standsIn q → (∀ x, x < q → ¬ standsIn x) →
            (t.module q).role = .active ∧
            (t.module q).bands = ⟨(s.module q).bands.low || m.bands.low, (s.module q).bands.mid || m.bands.mid,
              (s.module q).bands.high || m.bands.high⟩ ∧
            (t.module r.pos).replaced = true ∧ (∀ x, x ≠ q → (t.module x).role = (s.module x).role) ∧
            ((s.module q).state = .asleep → roomFor 1 s = true →
              ∃ y ∈ t.mlc.queue, y.pos = q ∧ y.kind = .wake ∧ y.owners = [.mlc]) ∧
            ((s.module q).state = .inService → (t.module q).sleepAgain = false ∧
              ∀ y ∈ t.mlc.queue, y.pos = q → y.kind = .sleep → .mlc ∉ y.owners)) ∧
          ((m.role ≠ .active ∨ ∀ q, ¬ standsIn q) →
            (∀ q, (t.module q).role = (s.module q).role) ∧ (t.module r.pos).replaced = m.replaced ∧
            LampFollows s t .idle .lampFault))

/-- The replies to an ORIGINATE: REPLY_OK moves its record to SENT with the setup timeout (R49, R51); a REPLY_NAK ends it
REFUSED, and its carrier takes a failure (R15, R51, R54). Either frees the link and clears the module's failure count
(R134). A reply to a REJECT has no further effect (R81).

A SLEEP with REPLY_OK puts its module to sleep; a WAKE with REPLY_OK makes it BOOTING with the wake time; a SLEEP or
WAKE with REPLY_NAK leaves the module's state (R152). That of two SLEEPs of one position each ends with its own result is
log entry 45. A SCAN with REPLY_OK waits for its SCAN_READY; with REPLY_NAK its scan ends (R165).

Any reply to a RELEASE ends what it was for: a record in RELEASING with its outcome (R51, R54), a stray release's mark (R59),
a pending release of CAL's (R79); with the last of them a clearing ends in its destination, and completes a held CLEAR (R83,
R85, R86). A REPLY_OK to the ANSWER connects the call in TALK from CALLBACK_WAIT and IDLE, in LOCATING from HUNTING and
REESTABLISHING, and is released again in LOCATING, TALK and CLEARING; a REPLY_NAK ends the answer in progress (R60, R82). A
REPLY_OK to a DATA sends the next segment or awaits the acknowledgement; a REPLY_NAK fails the try (R98, R99, R101). -/
def Obligations.RepliesAreTaken : Prop :=
  (∀ (s : State) (r : Request) (n d : Nat), calmPart s = true → s.mlc.tx = some ⟨r, n, .waiting d⟩ →
     let u := (s.withMlc { s.mlc with tx := none }).withModule r.pos { s.module r.pos with failures := 0 }
     (r.kind = .reject → r.owners = [.calReject] →
       exec .replyOk s = .next u ∧ ∀ x, x ≠ .badFrame → exec (.replyNak x) s = .next u) ∧
     ∀ a e, r.kind = .originate → r.owners = [.attempt] → s.record r.pos = some a → a.request = some r.number →
       a.key.pos = r.pos → a.releaseOnReply = false → a.strayOnEnd = false → s.hnt.set = [] → s.hnt.kind = .emergency →
       s.cal.ctx.state ≠ .clearing → findEntry s.ctu.table a.key = some e → (s.module r.pos).state = .inService →
       (a.state = .queued → ∃ t, exec .replyOk s = .next t ∧
         t.record r.pos = some
           { a with state := .sent, request := none, timer := some (1000 * s.pln.plan.hunt.setupTimeout) } ∧
         t.mlc = u.mlc ∧ t.ctu = s.ctu ∧ t.cal.ctx.summaries.get r.pos = some ⟨a.number, .sent, a.outcome, a.form⟩ ∧
         t.vsw = s.vsw ∧ t.wch = s.wch) ∧
       ∀ x, x ≠ .badFrame → ∃ t, exec (.replyNak x) s = .next t ∧ t.record r.pos = none ∧ t.mlc = u.mlc ∧
         (∃ e', findEntry t.ctu.table a.key = some e' ∧ e'.failures = min (e.failures + 1) 7 ∧ e'.inAttempt = false ∧
           e'.last = .refused ∧ (6 ≤ e.failures → e'.bench = some s.pln.plan.hunt.benchTime)) ∧
         t.cal.ctx.summaries.get r.pos = none ∧ t.vsw = s.vsw ∧ t.wch = s.wch) ∧
  (∀ (s : State) (r : Request) (n d : Nat), calmPart s = true → s.mlc.tx = some ⟨r, n, .waiting d⟩ →
     r.owners = [.wch] → huntRests s = true → scansRest s = true → s.cal.ctx.state = .idle →
     (s.module r.pos).pendingRole = none → s.mlc.wait = none →
     (r.kind = .sleep → (s.module r.pos).state = .inService →
       ∃ t, exec .replyOk s = .next t ∧ (t.module r.pos).state = .asleep ∧ (t.module r.pos).poll = none ∧
         (t.watch r.pos).sleeps = (s.watch r.pos).sleeps.filter (fun n => n != r.number) ∧ t.mlc.tx = none ∧
         (∀ q, q ≠ r.pos → t.module q = s.module q)) ∧
     (r.kind = .wake → (s.module r.pos).state = .asleep → (s.watch r.pos).wakeRequest = some r.number →
       ∃ t, exec .replyOk s = .next t ∧ (t.module r.pos).state = .booting .boot ∧ (t.module r.pos).boot = some 3000 ∧
         (t.watch r.pos).wakeRequest = none ∧ t.mlc.tx = none ∧ (∀ q, q ≠ r.pos → t.module q = s.module q)) ∧
     ∀ x, x ≠ .badFrame → (r.kind = .sleep ∨ r.kind = .wake) →
       ∃ t, exec (.replyNak x) s = .next t ∧ (t.module r.pos).state = (s.module r.pos).state ∧ t.mlc.tx = none ∧
         (t.module r.pos).failures = 0) ∧
  ∀ (s : State) (r : Request) (n d : Nat), calmPart s = true → s.mlc.tx = some ⟨r, n, .waiting d⟩ →
    let p := r.pos
    let u := (s.withMlc { s.mlc with tx := none }).withModule p { s.module p with failures := 0 }
    (∀ c, (c = .replyOk ∨ ∃ x, x ≠ .badFrame ∧ c = .replyNak x) → r.kind = .release →
      (r.owners = [.stray] → s.hnt.stray.get p = some r.number → (s.hnt.state = .idle ∨ s.hnt.state = .won) →
        exec c s = .next (u.withHnt { s.hnt with stray := s.hnt.stray.set p none })) ∧
      (∀ a, r.owners = [.attempt] → s.record p = some a → a.state = .releasing → a.request = some r.number →
        a.key.pos = p → a.strayOnEnd = false → s.hnt.state = .won → clearingOver s = false →
        ∃ t, exec c s = .next t ∧ t.record p = none ∧ (∀ q, q ≠ p → t.record q = s.record q) ∧ t.mlc = u.mlc ∧
          t.cal.ctx = { s.cal.ctx with summaries := s.cal.ctx.summaries.set p none } ∧
          (∀ e, findEntry s.ctu.table a.key = some e → lostState (s.module p).state = false →
            (a.outcome = .surplus → findEntry t.ctu.table a.key = some { e with inAttempt := false }) ∧
            (a.outcome = .timeout → ∃ x : Entry, findEntry t.ctu.table a.key = some x ∧ x = { e with
              failures := min (e.failures + 1) 7, last := .timeout, inAttempt := false, score := scoreOf s.pln.plan x
              bench := if 6 ≤ e.failures then some s.pln.plan.hunt.benchTime else e.bench })) ∧
          t.vsw = s.vsw ∧ t.lmu = s.lmu ∧ t.wch = s.wch) ∧
      (r.owners = [.calRelease] →
        let left := s.cal.ctx.releases.set p false
        (s.cal.ctx.state ≠ .clearing ∨ left ≠ ⟨false, false, false⟩ ∨ s.cal.ctx.huntLink ≠ .none ∨
            s.cal.ctx.answer.isSome = true →
          ∃ t, exec c s = .next t ∧ t.cal.ctx = { s.cal.ctx with releases := left } ∧ t.mlc = u.mlc ∧
            ((t.withMlc s.mlc).withCal s.cal).withSmp s.smp = s) ∧
        (s.cal.ctx.state = .clearing → left = ⟨false, false, false⟩ → s.cal.ctx.huntLink = .none →
          s.cal.ctx.answer = none → flagsSound s = true → s.cal.ctx.flags.pressHeld = false →
          s.cal.ctx.flags.clearDeferred = false → s.wch.doze = false → s.wch.dozePending = false →
          (∀ q, (s.module q).pendingRole = none) → s.cal.place = none →
          let ended := fun t : State => t.cal.ctx.lastEnd = s.cal.ctx.lastEnd ∧ t.smp.causes.getLsbD 4 = true ∧
            t.cal.ctx.releases = left ∧ t.cal.clear = none ∧ t.hnt = s.hnt ∧ t.ctu = s.ctu ∧ t.mlc.queue = s.mlc.queue ∧
            t.mlc.tx = none ∧
            ∀ h kind, s.cal.clear = some h → s.ord.slots.get h.slot = .taken kind h.take →
              Memory.wf s.smp.mem = true → Completed s t h .cleared s.cal.ctx.sequence
          (s.cal.destination = false →
            ∃ t, exec c s = .next t ∧ ended t ∧ t.cal.ctx.state = .idle ∧ t.cal.ctx.start = none ∧
              t.cal.ctx.connect = none ∧ t.cal.ctx.serving = none ∧ LampsFollow s t .idle) ∧
          (s.cal.destination = true → 0 < s.pln.plan.call.callbackWindow →
            ∃ t, exec c s = .next t ∧ ended t ∧ t.cal.ctx.state = .callbackWait ∧ t.cal.ctx.start = s.cal.ctx.start ∧
              t.cal.callbackTimer = some { left := 1000 * s.pln.plan.call.callbackWindow, fresh := true } ∧
              t.cal.ctx.callback = s.pln.plan.call.callbackWindow ∧ LampsFollow s t .callbackWait)))) ∧
    (r.kind = .answer → r.owners = [.calAnswer] → s.cal.ctx.answer = some p → flagsSound s = true →
      s.wch.doze = false →
      let connected := fun (t : State) (x : CallState) =>
        t.cal.ctx.state = x ∧ t.cal.ctx.serving = some (.incoming p) ∧ t.cal.ctx.connect = some s.clock ∧
          t.cal.ctx.answer = none ∧ t.vsw.requested.callbackRing = false ∧
          t.cal.ctx.flags.silent = (s.straps.hook && s.bsu.hook.level) ∧ t.smp.causes.getLsbD 3 = true ∧
          (t.vsw.conn = .linked p ∨ t.vsw.conn = .gap p) ∧ t.vsw.uplinkMute = decide (x = .locating) ∧
          t.vsw.downlinkMute = decide (x = .locating) ∧ LampsFollow s t x ∧ t.mlc.tx = none
      (∀ x, x ≠ .badFrame → s.cal.ctx.state ≠ .clearing →
        (s.cal.ctx.state = .callbackWait → s.cal.callbackTimer.isSome = true) →
        ∃ t, exec (.replyNak x) s = .next t ∧ t.cal.ctx = { s.cal.ctx with answer := none } ∧ t.mlc = u.mlc ∧
          t.vsw.requested = { s.vsw.requested with callbackRing := false } ∧ t.hnt = s.hnt ∧ t.ctu = s.ctu ∧
          t.lmu = s.lmu ∧ t.wch = s.wch ∧ t.pln = s.pln ∧ t.bsu = s.bsu) ∧
      (s.cal.ctx.state = .callbackWait →
        ∃ t, exec .replyOk s = .next t ∧ connected t .talk ∧ t.cal.ctx.message = .notRequired ∧
          t.cal.callbackTimer = none ∧ t.cal.ctx.callback = 0 ∧ t.cal.mask = s.cal.mask ∧
          t.cal.ctx.flags.masked = s.cal.ctx.flags.masked ∧ t.cal.ctx.sequence = s.cal.ctx.sequence ∧
          t.cal.ctx.start = s.cal.ctx.start ∧ t.vsw.requested.chime = true ∧ t.hnt = s.hnt ∧
          t.mlc.queue = s.mlc.queue) ∧
      (s.cal.ctx.state = .idle →
        ∃ t, exec .replyOk s = .next t ∧ connected t .talk ∧ t.cal.ctx.message = .notRequired ∧
          t.cal.ctx.kind = .emergency ∧ t.cal.ctx.sequence = s.cal.counter + 1 ∧ t.cal.counter = s.cal.counter + 1 ∧
          t.cal.ctx.start = some s.clock ∧ t.cal.ctx.huntLink = s.cal.ctx.huntLink ∧ t.smp.causes.getLsbD 2 = true ∧
          t.vsw.requested.chime = true ∧ t.hnt = s.hnt ∧ t.mlc.queue = s.mlc.queue) ∧
      (s.cal.ctx.state = .hunting ∨ s.cal.ctx.state = .reestablishing → s.hnt.state = .round → noRecord s = true →
        s.lmu.state = .idle → messagePlace s.mlc.queue p = none → roomFor 1 s = true →
        ∃ t, exec .replyOk s = .next t ∧ connected t .locating ∧ t.cal.ctx.message = .pending ∧ t.hnt.state = .won ∧
          t.hnt.set = [] ∧ t.lmu.state = .sending ∧ t.lmu.pos = some p ∧ t.cal.ctx.sequence = s.cal.ctx.sequence ∧
          t.cal.ctx.huntLink = s.cal.ctx.huntLink) ∧
      (s.cal.ctx.state = .locating ∨ s.cal.ctx.state = .talk ∨ s.cal.ctx.state = .clearing →
        callPlaceFree p s = true →
        ∃ t, exec .replyOk s = .next t ∧
          t.cal.ctx = { s.cal.ctx with answer := none, releases := s.cal.ctx.releases.set p true } ∧
          t.mlc.queue = s.mlc.queue ++ [nextRequest s .calRelease p .release []] ∧ t.hnt = s.hnt ∧ t.ctu = s.ctu ∧
          t.lmu = s.lmu)) ∧
    (∀ record, r.kind = .data → r.owners = [.lmu] → s.lmu.state = .sending → s.lmu.current = some r.number →
      s.lmu.pos = some p → s.lmu.record = some record → messagePlace s.mlc.queue p = none → roomFor 1 s = true →
      let sends := fun (t : State) (segment : Nat) =>
        t.mlc.queue = s.mlc.queue ++ [nextRequest s .lmu p .data
            ([byteOf segment, byteOf s.lmu.segments] ++ segmentBytes record segment)] ∧
          t.mlc.tx = none ∧ t.mlc.modules = u.mlc.modules ∧ (t.withLmu s.lmu).withMlc s.mlc = s
      (s.lmu.segment < s.lmu.segments →
        ∃ t, exec .replyOk s = .next t ∧ sends t (s.lmu.segment + 1) ∧
          t.lmu = { s.lmu with
            segment := s.lmu.segment + 1, replySeen := true, current := some (s.mlc.nextNumber + 1) }) ∧
      (s.lmu.segments ≤ s.lmu.segment →
        exec .replyOk s = .next (u.withLmu { s.lmu with
          state := .awaiting, replySeen := true, current := none
          ackTimer := some (1000 * s.pln.plan.call.ackTimeout) })) ∧
      ∀ x, x ≠ .badFrame → s.lmu.tries < s.pln.plan.hunt.messageRetries + 1 →
        ∃ t, exec (.replyNak x) s = .next t ∧ sends t 1 ∧
          t.lmu = { s.lmu with
            segment := 1, tries := s.lmu.tries + 1, ackTimer := none, current := some (s.mlc.nextNumber + 1) }) ∧
    (r.kind = .scan → r.owners = [.wch] → (s.watch p).scanRequest = some r.number →
      exec .replyOk s = .next (u.withWatch p { s.watch p with scanRequest := none, phase := .awaitReady }) ∧
      ∀ x, x ≠ .badFrame → (s.watch p).requested = false → s.wch.order = none → s.wch.gatherReport = false →
        s.wch.doze = false → s.wch.stagger.isSome = true → (∀ q, (s.module q).state ≠ .asleep) →
        (s.module p).role = .active →
        exec (.replyNak x) s = .next (u.withWch { s.wch with
          gather := s.wch.gather.set p false
          watch := s.wch.watch.set p
            { s.watch p with
              scanRequest := none, phase := .none, limit := none, again := false, due := false
              interval := some (1000 * s.pln.plan.hunt.scanInterval) } }))

/-- A STATUS ends its PROBE: the module enters IN_SERVICE with a POLL queued and its poll timer set, a SPARE with its SLEEP
queued too, LAMP_FAULT follows, and its report is taken in (R123, R143, R147, R149). A SCAN_LIST is taken in, its reports in
their order, and a LEVEL_REPORT in any state of the call whose hunt is IDLE or WON, and changes nothing else (R3, R8, R147).

The intake, in `ReportTaken`: a report with tag 0 or without a band class is discarded, its level is brought into −130 to −40
and its quality to 15 at most (R4); a known key's entry takes level, quality, barred flag, age 0 and score, and is re-placed
(R5); a new key makes an entry with the next insertion sequence (R6); in a full table it takes the place of the lowest-ranked
unprotected entry if it scores strictly more, and is dropped otherwise (R7). In `LevelTaken`: the serving entry of the position
takes level, present quality, age 0 and score, and is re-placed (R8). One event publishes the table once: for a changed table
the mirror's generation word moves and TABLE_CHANGED is pending; for an unchanged one both stay as they were (R9, R19). That a
table is unchanged where the event's end equals its beginning, also when reports undo one another, is the model's choice (log
entry 64). -/
def Obligations.CellReportsAreTakenIn : Prop :=
  (∀ s : State, calmPart s = true → huntRests s = true → s.cal.ctx.state = .idle → tableOk s.ctu.table = true →
    (∀ (r : Request) (n d : Nat) (payload : List Byte) (x : CellReport), s.mlc.tx = some ⟨r, n, .waiting d⟩ →
      r.kind = .probe → parseStatus payload = some x → (s.module r.pos).state = .booting .probe →
      (s.module r.pos).pendingRole = none → s.mlc.wait = none → (s.module r.pos).role ≠ .absent →
      scansRest s = true → roomFor 3 s = true →
      ∃ t, exec (.status payload) s = .next t ∧ (t.module r.pos).state = .inService ∧ (t.module r.pos).failures = 0 ∧
        (t.module r.pos).poll = some { left := if s.wch.doze then 30000 else 5000, fresh := true } ∧
        (∃ q ∈ t.mlc.queue, q.pos = r.pos ∧ q.kind = .poll) ∧ t.mlc.tx = none ∧ LampFollows s t .idle .lampFault ∧
        ((s.module r.pos).role = .spare → (t.module r.pos).sleepAgain = false ∧
          ∃ q ∈ t.mlc.queue, q.pos = r.pos ∧ q.kind = .sleep ∧ q.owners = [.mlc]) ∧
        (∃ d, ReportTaken s.pln.plan r.pos x s.ctu d ∧ TablePublished s t d) ∧ t.cal = s.cal ∧ t.vsw = s.vsw) ∧
    (∀ (r : Request) (n d : Nat) (payload : List Byte) (xs : List CellReport), s.mlc.tx = some ⟨r, n, .waiting d⟩ →
      r.kind = .scanFetch → parseScanList payload = some xs →
      ∃ t, exec (.scanList payload) s = .next t ∧ t.mlc.tx = none ∧
        (∃ d, ReportsTaken s.pln.plan r.pos xs s.ctu d ∧ TablePublished s t d) ∧
        t.cal = s.cal ∧ t.vsw = s.vsw ∧ t.pln = s.pln)) ∧
  ∀ (s : State) (p : Pos) (level : BitVec 16) (quality : Option Byte), calmPart s = true → tableOk s.ctu.table = true →
    s.hnt.state = .idle ∨ s.hnt.state = .won →
    ∃ t, exec (.levelReport p level quality) s = .next t ∧
      (∃ d, LevelTaken s.pln.plan p level.toInt (quality.map (·.toNat)) s.ctu d ∧ TablePublished s t d) ∧
      (t.withCtu s.ctu).withSmp s.smp = s ∧ { t.smp with causes := s.smp.causes } = s.smp

/-- An EVENTS reply ends its POLL. A new batch becomes the last batch taken, and its one event acts as that module event
does; a batch already taken, and a batch of no event, dispatch nothing (R145, R146). Where ATN is still active in IN_SERVICE, a
further POLL is queued, with the batch just taken, unless one stands in the queue (R139, R144). The events of a longer batch act
one after another in their order, stated for CALL_PROCEEDING, CALL_ALERTING, SCAN_READY and LEVEL_REPORT (R146).

ATN turning active in IN_SERVICE queues a POLL and sets the poll timer again, in another state it is only read; turning
inactive changes nothing else (R144). That an ATN_ASSERTED with ATN active already, which cannot occur, changes nothing is the
model's choice (log entry 1). -/
def Obligations.EventBatchesAndAtn : Prop :=
  ∀ (s : State), s.inbox = [] →
    (∀ (r : Request) (n d : Nat) (payload : List Byte) (batch : Byte) (records : List EventRecord),
      s.mlc.tx = some ⟨r, n, .waiting d⟩ → r.kind = .poll → parseEvents payload = some (batch, records) →
      let still : Bool := (s.module r.pos).atn && (s.module r.pos).state == .inService
        && !s.mlc.queue.any (fun x => x.pos == r.pos && x.kind == .poll)
      (still = true → roomFor 1 s = true) →
      let u := (s.withMlc { s.mlc with
        tx := none
        queue := if still then s.mlc.queue ++ [nextRequest s .mlc r.pos .poll [batch]] else s.mlc.queue
        nextNumber := if still then s.mlc.nextNumber + 1 else s.mlc.nextNumber }).withModule r.pos
          { s.module r.pos with failures := 0, lastBatch := batch }
      (batch = (s.module r.pos).lastBatch → exec (.events payload) s = .next u) ∧
      (records = [] → exec (.events payload) s = .next u) ∧
      (∀ x e, batch ≠ (s.module r.pos).lastBatch → records = [x] → eventOf x = some e →
        exec (.events payload) s = exec (eventCommand r.pos e) u) ∧
      (batch ≠ (s.module r.pos).lastBatch → s.pln.damaged = [] → s.hnt.state = .idle ∨ s.hnt.state = .won →
        s.cal.ctx.state ≠ .clearing → (∀ e ∈ records.filterMap eventOf, quietEvent e = true) →
        exec (.events payload) s = actInTurn r.pos (records.filterMap eventOf) u)) ∧
    ∀ p : Pos,
      ((s.module p).atn = true → exec (.atnAsserted p) s = .next s) ∧
      ((s.module p).atn = false → (s.module p).state ≠ .inService →
        exec (.atnAsserted p) s = .next (s.withModule p { s.module p with atn := true })) ∧
      ((s.module p).atn = false → (s.module p).state = .inService → roomFor 1 s = true →
        s.mlc.queue.any (fun r => r.pos == p && r.kind == .poll) = false →
        ∃ t, exec (.atnAsserted p) s = .next t ∧
          t.module p = { s.module p with
            atn := true
            poll := some
              { left := if s.cal.ctx.state ≠ .idle then 500 else if s.wch.doze then 30000 else 5000, fresh := true } } ∧
          (∀ q, q ≠ p → t.module q = s.module q) ∧
          t.mlc.queue = s.mlc.queue ++ [nextRequest s .mlc p .poll [(s.module p).lastBatch]] ∧
          t.withMlc s.mlc = s) ∧
      exec (.atnInactive p) s = .next (s.withModule p { s.module p with atn := false })

/-! ### Scans, the seconds clock, the plan -/

/-- The end of the scan stagger and the expiry of a scan interval let the next waiting scan start: its SCAN is queued, its
limit timer set, its due mark cleared and the stagger set again (R33, R164, R165).

A scan that reaches its limit ends: its position leaves the scan with its request withdrawn, its limit timer stopped
and, for an ACTIVE module, its interval set again (R165). A SCAN_READY with a count queues the SCAN_FETCH; one for no
awaited scan changes nothing (R165). That the expiry of a scan limit that does not run changes nothing is the model's choice
(log entry 1). -/
def Obligations.ScansStartEndAndFetch : Prop :=
  (∀ (s : State) (p : Pos) (c : Instr) (u : State), calmPart s = true →
     (c = .scanStaggerExpiry ∧ s.wch.stagger.isSome = true ∧ u = s.withWch { s.wch with stagger := none } ∨
       c = .scanIntervalExpiry p ∧ (s.watch p).interval.isSome = true ∧ s.wch.stagger = none ∧
         u = s.withWatch p { s.watch p with interval := none, due := true }) →
     (∀ q, wakesForScan u q = false) → nextWaiting u [] = some p → (u.watch p).phase = .none →
     busyWithCall u p = false → 0 < s.pln.plan.hunt.stagger → roomFor 1 s = true →
     ∃ t, exec c s = .next t ∧
       t.watch p = { u.watch p with
         phase := .scanQueued, limit := some 20000, due := false, scanRequest := some (s.mlc.nextNumber + 1) } ∧
       (∀ q, q ≠ p → t.watch q = u.watch q) ∧ t.wch.stagger = some s.pln.plan.hunt.stagger ∧
       t.mlc.queue = s.mlc.queue ++ [nextRequest s .wch p .scan []] ∧ (t.withWch s.wch).withMlc s.mlc = s) ∧
  (∀ (s : State) (p : Pos), calmPart s = true →
     ((s.watch p).limit = none → exec (.scanLimitExpiry p) s = .next s) ∧
     ((s.watch p).limit.isSome = true → (s.watch p).requested = false → s.wch.order = none → s.wch.gatherReport = false →
       s.wch.doze = false → s.wch.stagger.isSome = true →
       (∀ q, (s.module q).state ≠ .asleep) → (s.module p).role = .active →
       ∃ t, exec (.scanLimitExpiry p) s = .next t ∧
         t.watch p = { s.watch p with
           phase := .none, limit := none, scanRequest := none, again := false, due := false, requested := false
           interval := some (1000 * s.pln.plan.hunt.scanInterval) } ∧
         (∀ q, q ≠ p → t.watch q = s.watch q) ∧
         (∀ n, (s.watch p).scanRequest = some n → ∀ r ∈ t.mlc.queue, r.owners = [.wch] → r.number ≠ n) ∧
         t.hnt = s.hnt ∧ t.cal = s.cal ∧ t.ctu = s.ctu ∧ t.pln = s.pln ∧ t.mlc.modules = s.mlc.modules) ∧
     (∀ count, (s.watch p).phase ≠ .awaitReady → exec (.scanReady p count) s = .next s) ∧
     ∀ count, (s.watch p).phase = .awaitReady → count ≠ 0 → roomFor 1 s = true →
       ∃ t, exec (.scanReady p count) s = .next t ∧
         t.watch p = { s.watch p with
           phase := .fetching, scanRequest := some (s.mlc.nextNumber + 1), again := false } ∧
         t.mlc.queue = s.mlc.queue ++ [nextRequest s .wch p .scanFetch []] ∧ (t.withWch s.wch).withMlc s.mlc = s)

/-- An advance of the seconds clock: the clock and its record (R186); every entry a second older, its bench a second shorter
and at its end gone with failure count 4, its score afresh where its age comes to a multiple of 16 or its bench ends (R13,
R16); the table in rank order (R29). An entry neither in attempt nor serving whose age reaches the stale limit is gone, and no
other (R14). The mirror's generation word moves where the table has changed, and TABLE_CHANGED is raised where an entry has
gone, the order has changed, a failure count has changed or a bench has ended, and not otherwise (R19).

BENCH_EXPIRY as an advance of the clock at which a bench ends, and as nothing where none ends, is the model's reading of the
table (log entry 8). -/
def Obligations.SecondsPass : Prop :=
  ∀ s : State, calmPart s = true → s.wch.gatherReport = false → tableOk s.ctu.table = true →
    (∀ c, c = .secondsClockAdvance ∨ c = .benchExpiry ∧ s.ctu.table.any benchEnds = true →
      let goes := fun e : Entry => e.inAttempt = false ∧ e.serving = false ∧
        s.pln.plan.hunt.staleLimit ≤ min (e.age + 1) 65535
      let seen := fun table : List Entry => table.map (fun e => (e.key, e.failures, e.bench.isSome))
      ∃ t, exec c s = .next t ∧ t.clock = s.clock + 1 ∧ t.smp.clockGen = s.smp.clockGen + 2 ∧
        (∀ x ∈ t.ctu.table, ∃ e ∈ s.ctu.table, ¬ goes e ∧ Ticked s.pln.plan e x) ∧
        (∀ e ∈ s.ctu.table, ¬ goes e → ∃ x ∈ t.ctu.table, Ticked s.pln.plan e x) ∧
        (∀ e ∈ s.ctu.table, goes e → ∀ x ∈ t.ctu.table, x.key ≠ e.key) ∧
        inRankOrder t.ctu.table = true ∧ t.ctu.seq = s.ctu.seq ∧
        t.ctu.mirrorGen = (if t.ctu.table = s.ctu.table then s.ctu.mirrorGen else s.ctu.mirrorGen + 2) ∧
        (seen t.ctu.table ≠ seen s.ctu.table → t.smp.causes.getLsbD 9 = true) ∧
        (seen t.ctu.table = seen s.ctu.table → t.smp.causes.getLsbD 9 = s.smp.causes.getLsbD 9)) ∧
    (s.ctu.table.any benchEnds = false → exec .benchExpiry s = .next s)

/-- The start-up grace ends HOLDING with the built-in plan, source DEFAULT, and releases the modules: every HELD module
boots (R159, R180). In RELEASED the grace timer changes nothing. -/
def Obligations.GraceEndsHolding : Prop :=
  ∀ s : State, calmPart s = true →
    (s.pln.phase = .released → exec .graceTimerExpiry s = .next s) ∧
    (s.pln.phase = .holding → s.pln.grace.isSome = true → huntRests s = true → scansRest s = true →
      s.cal.ctx.state = .idle → s.cal.ctx.serving = none → s.mlc.wait = none →
      ∃ t, exec .graceTimerExpiry s = .next t ∧ t.pln.phase = .released ∧ t.pln.grace = none ∧
        t.pln.plan = builtInPlan ∧ t.pln.source = .default ∧ t.cal = s.cal ∧
        ∀ p, (s.module p).state = .held → (t.module p).state = .booting .boot ∧ (t.module p).boot = some 8000 ∧
          mrstActive t p = false)

/-- A completed copy: in a call the order completes BUSY; an image that fails a check of R174 completes INVALID_PLAN with the
index of the first that fails, and installs nothing; an image that passes them all is installed with source HOST, HOLDING
ends, and the order completes LOADED with the clamp count and TRESPASS_SEEN, or with PERSIST waits while a store starts in
phase MARKER (R173, R174, R175, R177). The plan area is released from protection.

The plan installed has every field as the image's bytes give it (R171), the clamp fields at the nearer end of their ranges,
the times of 10 ms lowered to a multiple, the backoff cap not below the base; the clamp count is how many of them changed
(R175, in `ImageLoaded`). The table is rescored under it, and every key keeps its entry (R18). That the dial characters of
R174 are ASCII codes, in `imageFails`, is presumed (log entry 70). -/
def Obligations.CopiesComplete : Prop :=
  ∀ (s : State) (c : Copy) (raw : List Byte) (h : Held) (kind : Nat), calmPart s = true →
    Memory.wf s.smp.mem = true → s.pln.copy = some c → s.pln.staged = .bytes raw → s.pln.held = some h →
    s.ord.slots.get h.slot = .taken kind h.take →
    let done := fun (t : State) (o : OrderOutcome) (detail : Word) =>
      Completed s t h o detail ∧ t.pln.held = none ∧ t.pln.staged = .none
    (s.cal.ctx.state ≠ .idle →
      ∃ t, exec .copyCompletion s = .next t ∧ done t .busy 0 ∧ t.pln.copy = none ∧ t.smp.planProtected = false ∧
        t.pln.plan = s.pln.plan) ∧
    (∀ i, s.cal.ctx.state = .idle → imageFails s.straps raw i = true → (∀ j, j < i → imageFails s.straps raw j = false) →
      ∃ t, exec .copyCompletion s = .next t ∧ done t .invalidPlan (BitVec.ofNat 16 i) ∧ t.pln.copy = none ∧
        t.smp.planProtected = false ∧ t.pln.plan = s.pln.plan ∧ t.pln.phase = s.pln.phase) ∧
    (s.cal.ctx.state = .idle → (∀ i, i < 45 → imageFails s.straps raw i = false) → huntRests s = true →
      scansRest s = true → s.mlc.wait = none →
      ∃ t, exec .copyCompletion s = .next t ∧ t.pln.copy = none ∧ t.smp.planProtected = false ∧ t.pln.damaged = [] ∧
        t.pln.source = .host ∧ t.pln.phase = .released ∧
        (∃ count, ImageLoaded raw t.pln.plan count ∧
          let detail := BitVec.ofNat 16 (count + if c.trespassSeen then 0x8000 else 0)
          (c.persist = false → done t .loaded detail) ∧
          (c.persist = true → t.pln.storeState = .storing ∧ t.pln.storePhase = some .marker ∧
            t.pln.staged = .plan t.pln.plan ∧ t.pln.held = some h ∧ t.pln.detail = detail ∧
            t.ord.slots = s.ord.slots)) ∧
        (tableOk s.ctu.table = true → TableReplanned t.pln.plan s.ctu.table t.ctu.table))

/-- A store's phases in order: the BEGUN marker; erase passes, at most four, until the area is blank; program passes, at
most three, until the read-back matches; the COMPLETE marker, at which the store is VALID and a held order completes
LOADED. A phase that uses up its passes ends the store DAMAGED, its marker left as it stands: STORE_FAILED is logged, with
detail 1 for erase and 2 for program, or counted when the log is full, and a held order completes STORE_FAILED. The detail of
both outcomes is the one kept from the loading. At either end the staged image is discarded, and the status block is rewritten
for a store state that has changed (R177, R178, R186, R191, R197).

What stands in the image area while a phase is under way or has failed (neither blank nor an image), and that the commands of
a store change nothing while no store is under way, are the model's choices (log entries 16 and 1). -/
def Obligations.StorePhasesRun : Prop :=
  ∀ s : State, s.inbox = [] →
    let ended := fun (t : State) (x : StoreState) (o : OrderOutcome) =>
      t.pln.storeState = x ∧ t.pln.storePhase = none ∧ t.pln.staged = .none ∧ t.pln.held = none ∧
        t.pln.plan = s.pln.plan ∧
        t.smp.statusGen = (if s.pln.storeState = x then s.smp.statusGen else s.smp.statusGen + 2) ∧
        ∀ h kind, s.pln.held = some h → s.ord.slots.get h.slot = .taken kind h.take → Memory.wf s.smp.mem = true →
          Completed s t h o s.pln.detail
    let failed := fun (t : State) (detail : Nat) =>
      ended t .damaged .storeFailed ∧ t.pln.store.marker = s.pln.store.marker ∧
        t.flt.tally = min (s.flt.tally + 1) 255 ∧
        t.flt.log = (if s.flt.log.length < 4 then s.flt.log ++ [⟨s.clock, .storeFailed, none, detail, none⟩]
          else s.flt.log) ∧
        (s.flt.log.length < 4 → t.smp.causes.getLsbD 10 = true)
    (s.pln.storePhase = some .marker → exec .storeMarkerDone s =
      .next (s.withPln { s.pln with store := ⟨.begun, .partly⟩, storePhase := some (.erase 1) })) ∧
    (∀ n, s.pln.storePhase = some (.erase n) →
      exec (.erasePassDone true) s = .next (s.withPln { s.pln with
        store := ⟨s.pln.store.marker, .blank⟩, storePhase := some (.program 1) }) ∧
      (n < 4 → exec (.erasePassDone false) s = .next (s.withPln { s.pln with
        store := ⟨s.pln.store.marker, .partly⟩, storePhase := some (.erase (n + 1)) })) ∧
      (4 ≤ n → ∃ t, exec (.erasePassDone false) s = .next t ∧ failed t 1)) ∧
    (∀ n plan, s.pln.storePhase = some (.program n) → s.pln.staged = .plan plan →
      exec (.programPassDone true) s = .next (s.withPln { s.pln with
        store := ⟨s.pln.store.marker, .image plan true⟩, storePhase := some .complete }) ∧
      (n < 3 → exec (.programPassDone false) s = .next (s.withPln { s.pln with
        store := ⟨s.pln.store.marker, .partly⟩, storePhase := some (.program (n + 1)) })) ∧
      (3 ≤ n → ∃ t, exec (.programPassDone false) s = .next t ∧ failed t 2)) ∧
    (s.pln.storePhase = some .complete → ∃ t, exec .storeCompleteDone s = .next t ∧
      t.pln.store = ⟨.complete, s.pln.store.area⟩ ∧ ended t .valid .loaded ∧ t.flt = s.flt) ∧
    (s.pln.storePhase = none → exec .storeMarkerDone s = .next s ∧ exec (.erasePassDone true) s = .next s ∧
      exec (.programPassDone true) s = .next s ∧ exec .storeCompleteDone s = .next s)

/-- Damage waits to be found: a damaged plan word is remembered until a read of its field, and damaged call state flags
until the next change of state (R181, R200). That parity is kept by field, and that the safe levels of field 35 are being read
while QUIET is on, so that their damage is found at once (R127), is the model's reading (log entry 17); the command that
damages the flags gives them as they then stand (log entry 11).

A read of a damaged field re-establishes the plan in the same event, with INTERNAL_FAULT, PLAN_REPLACED and a PLAN_CHECK fault
whose detail is the field's index; a read of a sound field changes nothing. The stored plan is taken where the store is VALID,
its image and check word match and some wired position is ACTIVE in it; otherwise the built-in plan with source DEFAULT, and a
VALID store whose image does not match becomes DAMAGED (R181). The table is rescored under the plan (R18).

An event that would change the call's state and finds other than one flag set recovers in its place (R200): the call is
REESTABLISHING, CALLBACK_WAIT or IDLE by the start time and the message status, with last end STATE_CHECK; the serving
connection, and a winner handed over, are let go with a RELEASE; STATE_CHECK is logged with the flags as read, INTERNAL_FAULT
and CALL_STATE are raised, the flags are those of the new state, and the call file is published (R90). A held PLACE completes
CLEARED in IDLE and CALLBACK_WAIT and stays in REESTABLISHING, a held CLEAR acts, a held press is taken (R201). That the check
comes before any effect of the event (no new call counted at a press or a PLACE, a loss not counted beside the recovery) is
the model's reading (log entry 12); that a recovered call stays in REESTABLISHING with ABANDON_PENDING set and its message
settled, R77's clearing being for a loss alone, is its choice (log entry 71). -/
def Obligations.DamageIsFoundAtTheRead : Prop :=
  (∀ (s : State) (i : Nat), s.inbox = [] → 1 ≤ i → i ≤ 44 → s.pln.damaged.contains i = false →
    (i ≠ 35 ∨ s.bsu.quiet.level = false) →
    exec (.planWordDamaged i) s = .next (s.withPln { s.pln with damaged := i :: s.pln.damaged })) ∧
  (∀ s : State, s.inbox = [] → s.bsu.quiet.level = true →
    ∃ t, exec (.planWordDamaged 35) s = .next t ∧ 35 ∉ t.pln.damaged ∧ t.smp.causes.getLsbD 0 = true ∧
      t.smp.causes.getLsbD 1 = true ∧
      (s.flt.log.length < 4 → s.flt.log ++ [⟨s.clock, .planCheck, none, 35, none⟩] <+: t.flt.log)) ∧
  (∀ (s : State) (f : BitVec 7), s.inbox = [] → flagsSet f ≠ 1 →
    exec (.callStateFlagsDamaged f) s = .next (s.withCal { s.cal with held7 := f })) ∧
  (∀ (s : State) (i : Nat),
    (s.pln.damaged.contains i = false → touch i s = s) ∧
    (s.pln.damaged.contains i = true →
      let t := touch i s
      t.pln.damaged = [] ∧ t.smp.causes.getLsbD 0 = true ∧ t.smp.causes.getLsbD 1 = true ∧
        (s.flt.log.length < 4 → s.flt.log ++ [⟨s.clock, .planCheck, none, i, none⟩] <+: t.flt.log) ∧
        (∀ plan, s.pln.storeState = .valid → s.pln.store.area = .image plan true →
          (∃ p, isWired s.straps p = true ∧ plan.roles.get p = .active) →
          t.pln.plan = plan ∧ t.pln.source = .store ∧ t.pln.storeState = .valid) ∧
        (∀ plan, s.pln.storeState = .valid → s.pln.store.area = .image plan true →
          (∀ p, isWired s.straps p = true → plan.roles.get p ≠ .active) →
          t.pln.plan = builtInPlan ∧ t.pln.source = .default ∧ t.pln.storeState = .valid) ∧
        (s.pln.storeState = .valid → (∀ plan, s.pln.store.area ≠ .image plan true) →
          t.pln.plan = builtInPlan ∧ t.pln.source = .default ∧ t.pln.storeState = .damaged) ∧
        (s.pln.storeState ≠ .valid →
          t.pln.plan = builtInPlan ∧ t.pln.source = .default ∧ t.pln.storeState = s.pln.storeState) ∧
        (tableOk s.ctu.table = true → TableReplanned t.pln.plan s.ctu.table t.ctu.table))) ∧
  ∀ s : State, calmPart s = true → flagsSound s = false → s.wch.doze = false → s.wch.dozePending = false →
    let found := fun t : State =>
      callFlagsOk t.cal = true ∧ t.smp.causes.getLsbD 0 = true ∧ t.smp.causes.getLsbD 8 = true ∧
        t.cal.fileGen ≠ s.cal.fileGen ∧
        (s.flt.log.length < 4 →
          s.flt.log ++ [⟨s.clock, .stateCheck, none, s.cal.held7.toNat, none⟩] <+: t.flt.log)
    let recovered := fun (t : State) (state : CallState) =>
      t.cal.ctx.state = state ∧ t.cal.ctx.lastEnd = .stateCheck ∧ t.cal.ctx.serving = none ∧ found t
    let answered := fun (t : State) (held : Option Held) (detail : Word) =>
      ∀ h kind, held = some h → s.ord.slots.get h.slot = .taken kind h.take → Memory.wf s.smp.mem = true →
        Completed s t h .cleared detail
    let placeCleared := fun t : State =>
      t.cal.place = none ∧ answered t s.cal.place (BitVec.ofNat 16 s.cal.ctx.attempts)
    let free := s.cal.clear = none ∧ s.cal.ctx.flags.clearDeferred = false ∧ s.cal.ctx.flags.pressHeld = false
    (s.cal.ctx.state = .idle → s.cal.ctx.start = none → s.cal.ctx.serving = none → s.cal.ctx.huntLink = .none →
      (∀ p, (s.module p).pendingRole = none) → free → s.cal.place = none →
      (s.bsu.call.level = false → s.pln.phase = .released →
        ∃ t, exec .callPress s = .next t ∧ recovered t .idle ∧ t.hnt = s.hnt ∧ t.cal.counter = s.cal.counter ∧
          t.mlc.queue = s.mlc.queue) ∧
      ∀ k, orderReady s k 1 = true → firstParameter s k = 0 → Memory.wf s.smp.mem = true →
        ∃ t, exec .placeOrder s = .next t ∧ recovered t .idle ∧ t.hnt = s.hnt ∧ t.cal.counter = s.cal.counter ∧
          t.cal.place = none ∧ Completed s t (nextHeld s k) .cleared (BitVec.ofNat 16 s.cal.ctx.attempts)) ∧
    (∀ p, (s.cal.ctx.state = .talk ∨ s.cal.ctx.state = .locating) → servingPos s.cal.ctx.serving = some p →
      s.record p = none → s.cal.ctx.start.isSome = true → huntSettled s = true → callPlaceFree p s = true →
      (s.cal.ctx.state = .talk → free → s.cal.ctx.message = .delivered →
        0 < s.pln.plan.call.callbackWindow →
        ∃ t, exec (.serviceLost p) s = .next t ∧ recovered t .callbackWait ∧
          t.cal.ctx.releases = s.cal.ctx.releases.set p true ∧
          t.mlc.queue = s.mlc.queue ++ [nextRequest s .calRelease p .release []] ∧
          t.cal.ctx.callback = s.pln.plan.call.callbackWindow ∧ t.cal.ctx.huntLink = .none ∧ placeCleared t) ∧
      (free → s.cal.ctx.message ≠ .delivered → s.cal.ctx.kind = .emergency → s.hnt.kind = .emergency →
        ∃ t, exec (.serviceLost p) s = .next t ∧ recovered t .reestablishing ∧
          nextRequest s .calRelease p .release [] ∈ t.mlc.queue ∧ t.cal.ctx.huntLink = .active ∧
          t.cal.ctx.flags.reestablished = true ∧
          t.cal.ctx.reestablishes = min (s.cal.ctx.reestablishes + 1) 255 ∧ t.cal.ctx.message = s.cal.ctx.message ∧
          t.cal.place = s.cal.place ∧ t.ord = s.ord ∧ (s.cal.ctx.state = .locating → t.lmu.state = .idle)) ∧
      (s.cal.clear.isSome = true → s.cal.ctx.flags.pressHeld = false → s.cal.ctx.message ≠ .delivered →
        ∃ t, exec (.serviceLost p) s = .next t ∧ found t ∧ t.cal.ctx.state = .clearing ∧
          t.cal.ctx.lastEnd = .hostCleared ∧ t.cal.destination = false ∧ t.cal.clear = s.cal.clear ∧
          t.cal.ctx.flags.clearDeferred = false ∧ t.cal.ctx.releases.get p = true ∧ t.hnt.state = .idle)) ∧
    (∀ p a, s.cal.ctx.state = .hunting → s.cal.ctx.start.isSome = true → s.cal.ctx.message ≠ .delivered →
      s.cal.ctx.serving = none → s.cal.ctx.kind = .emergency → s.hnt.kind = .emergency →
      s.cal.ctx.huntLink = .active → s.hnt.state = .round → s.record p = some a → a.key.pos = p →
      (a.state = .sent ∨ a.state = .proceeding ∨ a.state = .alerting) → (∀ q, q ≠ p → s.record q = none) →
      callPlaceFree p s = true → free →
      ∃ t, exec (.callAnswered p) s = .next t ∧ recovered t .reestablishing ∧
        nextRequest s .calRelease p .release [] ∈ t.mlc.queue ∧ t.cal.ctx.releases = s.cal.ctx.releases.set p true ∧
        t.cal.ctx.huntLink = .active ∧ t.cal.place = s.cal.place ∧ t.ord = s.ord) ∧
    ∀ p x, s.cal.ctx.state = .clearing → s.cal.ctx.releases.set p false = ⟨false, false, false⟩ →
      s.cal.ctx.huntLink = .none → s.cal.ctx.answer = none → s.cal.ctx.serving = none → s.record p = none →
      s.cal.ctx.start.isSome = true → s.cal.ctx.message = .delivered → 0 < s.pln.plan.call.callbackWindow →
      (∀ q, (s.module q).pendingRole = none) →
      (free → ∃ t, exec (.callEnded p x) s = .next t ∧ recovered t .callbackWait ∧
        t.cal.ctx.callback = s.pln.plan.call.callbackWindow ∧ t.smp.causes.getLsbD 4 = true ∧ t.hnt = s.hnt ∧
        t.mlc.queue = s.mlc.queue ∧ placeCleared t) ∧
      (s.cal.clear.isSome = true → s.cal.ctx.flags.clearDeferred = false → s.cal.ctx.flags.pressHeld = false →
        s.cal.place = none →
        ∃ t, exec (.callEnded p x) s = .next t ∧ found t ∧ t.cal.ctx.state = .idle ∧
          t.cal.ctx.lastEnd = .hostCleared ∧ t.cal.clear = none ∧ answered t s.cal.clear s.cal.ctx.sequence ∧
          t.hnt = s.hnt ∧ t.mlc.queue = s.mlc.queue) ∧
      (s.cal.clear = none → s.cal.ctx.flags.clearDeferred = false → s.cal.ctx.flags.pressHeld = true →
        ∃ t, exec (.callEnded p x) s = .next t ∧ found t ∧ t.cal.ctx.state = .hunting ∧
          t.cal.ctx.kind = .emergency ∧ t.cal.ctx.sequence = s.cal.counter + 1 ∧ t.cal.ctx.start = some s.clock ∧
          t.cal.ctx.huntLink = .active ∧ t.cal.ctx.flags.pressHeld = false ∧ t.smp.causes.getLsbD 2 = true)

/-! ### Arithmetic -/

/-- The score of an entry is the raw sum of the six terms, floored at 0 (R22 to R25), with the bias 12, 10, 8, 6, 4, 3, 2, 1
of the eight places of the preferred list and 0 for a tag not in it; the rank order compares score, position, channel and
insertion sequence (R28).

The backoff pause (R30): base times a power of 2 that stops growing at the ninth round, at most the cap; under a clamped
plan it is the base after one round, and always between 1 s and 300 s. -/
def Obligations.ScoresRanksAndPauses : Prop :=
  ((∀ (plan : Plan) (e : Entry), -130 ≤ e.level → e.failures ≤ 7 →
     let bias : Int := match plan.lists.preferred.findIdx? (· == e.key.tag) with
       | some i => ([12, 10, 8, 6, 4, 3, 2, 1] : List Int).getD i 0
       | none => 0
     let raw : Int := (e.level + 130) * 4 + (match e.quality with
         | some q => (q : Int) * 8
         | none => 56)
       + (match e.band with
         | .low => plan.hunt.weightLow
         | .mid => plan.hunt.weightMid
         | .high => plan.hunt.weightHigh : Nat) * 4
       + bias * 5 - (e.failures : Int) * 40 - (min (e.age / 16) 100 : Nat)
     (scoreOf plan e : Int) = max raw 0) ∧
     ∀ a b : Entry, ranksAbove a b = true ↔
       b.score < a.score ∨ a.score = b.score ∧ (a.key.pos < b.key.pos ∨ a.key.pos = b.key.pos ∧
         (a.key.channel.toNat < b.key.channel.toNat ∨ a.key.channel = b.key.channel ∧ a.seq < b.seq))) ∧
  (∀ (plan : Plan) (r : Nat), 1 ≤ r →
     let h := (clampPlan plan).hunt
     backoffPause (clampPlan plan) r = min (h.backoffBase * 2 ^ (min r 9 - 1)) h.backoffCap ∧
       backoffPause (clampPlan plan) 1 = h.backoffBase ∧ 1 ≤ backoffPause (clampPlan plan) r ∧
       backoffPause (clampPlan plan) r ≤ 300 ∧ (9 ≤ r → backoffPause (clampPlan plan) r = backoffPause (clampPlan plan) 9))
end

