-- ==== Sys2Proof/Laws/Memory.lean ====
section
/-! SUPPORT. The memory list: what a write changes and what it leaves, and that the canonical form is kept. -/

namespace Sys2Proof.Machine

/-- A canonical list holds nothing below its bound. -/
theorem memRead_below {lo : Nat} {m : List Host.Cell} (h : memoryWfFrom lo m = true) {a : Nat} (ha : a < lo) :
    memRead m a = 0 := by
  induction m generalizing lo with
  | nil => rfl
  | cons c rest ih =>
    obtain ⟨x, b⟩ := c
    simp only [memoryWfFrom, Bool.and_eq_true, decide_eq_true_eq] at h
    have hx : x ≠ a := by omega
    simp only [memRead, hx, if_false]
    exact ih h.2 (by omega)

/-- A canonical list from a bound is canonical from a lower one. -/
theorem memoryWfFrom_mono {lo lo' : Nat} (hl : lo' ≤ lo) {m : List Host.Cell} (h : memoryWfFrom lo m = true) :
    memoryWfFrom lo' m = true := by
  cases m with
  | nil => rfl
  | cons c rest =>
    simp only [memoryWfFrom, Bool.and_eq_true, decide_eq_true_eq] at h ⊢
    exact ⟨⟨⟨by omega, h.1.1.2⟩, h.1.2⟩, h.2⟩

/-- Reading another address than the one written. -/
theorem memRead_memWrite_ne {m : List Host.Cell} {a b : Nat} {v : Byte} (h : b ≠ a) :
    memRead (memWrite m a v) b = memRead m b := by
  have h' : a ≠ b := Ne.symm h
  induction m with
  | nil => by_cases hv : v = 0#8 <;> simp [memWrite, memRead, hv, h']
  | cons c rest ih =>
    obtain ⟨x, y⟩ := c
    by_cases h1 : a < x
    · by_cases hv : v = 0#8 <;> simp [memWrite, memRead, h1, hv, h']
    · by_cases h2 : a = x
      · subst h2
        by_cases hv : v = 0#8 <;> simp [memWrite, memRead, hv, h']
      · by_cases h3 : x = b
        · subst h3
          simp [memWrite, memRead, h1, h2]
        · simp [memWrite, memRead, h1, h2, h3, ih]

/-- Reading the address written, in a canonical list. -/
theorem memRead_memWrite_self {lo : Nat} {m : List Host.Cell} (h : memoryWfFrom lo m = true) {a : Nat} {v : Byte} :
    memRead (memWrite m a v) a = v := by
  induction m generalizing lo with
  | nil => by_cases hv : v = 0#8 <;> simp [memWrite, memRead, hv]
  | cons c rest ih =>
    obtain ⟨x, y⟩ := c
    simp only [memoryWfFrom, Bool.and_eq_true, decide_eq_true_eq] at h
    by_cases h1 : a < x
    · by_cases hv : v = 0#8
      · have hx : x ≠ a := by omega
        simp [memWrite, memRead, h1, hv, hx, memRead_below h.2 (show a < x + 1 by omega)]
      · simp [memWrite, memRead, h1, hv]
    · by_cases h2 : a = x
      · subst h2
        by_cases hv : v = 0#8
        · simp [memWrite, hv, memRead_below h.2 (show a < a + 1 by omega)]
        · simp [memWrite, memRead, hv]
      · have hx : x ≠ a := fun e => h2 e.symm
        simp [memWrite, memRead, h1, h2, hx, ih h.2]

/-- A write inside the 4 KiB keeps the canonical form. -/
theorem memoryWfFrom_memWrite {lo : Nat} {m : List Host.Cell} (h : memoryWfFrom lo m = true) {a : Nat} {v : Byte}
    (hlo : lo ≤ a) (ha : a < 4096) : memoryWfFrom lo (memWrite m a v) = true := by
  induction m generalizing lo with
  | nil => by_cases hv : v = 0#8 <;> simp [memWrite, memoryWfFrom, hv, hlo, ha]
  | cons c rest ih =>
    obtain ⟨x, y⟩ := c
    simp only [memoryWfFrom, Bool.and_eq_true, decide_eq_true_eq, bne_iff_ne] at h
    have hy : ¬y = 0#8 := h.1.2
    by_cases h1 : a < x
    · by_cases hv : v = 0#8
      · simp [memWrite, memoryWfFrom, h1, hv, hy, h]
      · simp [memWrite, memoryWfFrom, h1, hv, hlo, ha, hy, h, Nat.succ_le_of_lt h1]
    · by_cases h2 : a = x
      · subst h2
        by_cases hv : v = 0#8
        · simpa [memWrite, hv] using memoryWfFrom_mono (by omega) h.2
        · simp [memWrite, memoryWfFrom, hv, hlo, ha, h.2]
      · have := ih h.2 (show x + 1 ≤ a by omega)
        simp [memWrite, memoryWfFrom, h1, h2, hy, h, this]

/-- One byte written keeps the canonical form. -/
theorem wf_memWrite {m : List Host.Cell} (h : Memory.wf m = true) {a : Nat} {v : Byte} (ha : a < 4096) :
    Memory.wf (memWrite m a v) = true := memoryWfFrom_memWrite h (Nat.zero_le _) ha

/-- Reading outside a run of bytes written. -/
theorem memRead_memWriteAll_ne {bs : List Byte} {m : List Host.Cell} {a b : Nat} (h : b < a ∨ a + bs.length ≤ b) :
    memRead (memWriteAll m a bs) b = memRead m b := by
  induction bs generalizing m a with
  | nil => rfl
  | cons v rest ih =>
    simp only [List.length_cons] at h
    simp only [memWriteAll]
    rw [ih (by omega), memRead_memWrite_ne (by omega)]

/-- A run of bytes written inside the 4 KiB keeps the canonical form. -/
theorem wf_memWriteAll {bs : List Byte} {m : List Host.Cell} (h : Memory.wf m = true) {a : Nat}
    (ha : a + bs.length ≤ 4096) : Memory.wf (memWriteAll m a bs) = true := by
  induction bs generalizing m a with
  | nil => exact h
  | cons v rest ih =>
    simp only [List.length_cons] at ha
    exact ih (wf_memWrite h (by omega)) (by omega)

/-- Reading inside a run of bytes written, in a canonical list. -/
theorem memRead_memWriteAll {bs : List Byte} {m : List Host.Cell} (h : Memory.wf m = true) {a i : Nat}
    (ha : a + bs.length ≤ 4096) (hi : i < bs.length) : memRead (memWriteAll m a bs) (a + i) = bs.getD i 0 := by
  induction bs generalizing m a i with
  | nil => simp at hi
  | cons v rest ih =>
    simp only [List.length_cons] at ha hi
    simp only [memWriteAll]
    cases i with
    | zero =>
      rw [memRead_memWriteAll_ne (by omega)]
      simpa using memRead_memWrite_self h
    | succ j =>
      have := ih (m := memWrite m a v) (wf_memWrite h (by omega)) (a := a + 1) (i := j) (by omega) (by omega)
      rw [show a + (j + 1) = a + 1 + j by omega, this]
      simp

/-- Dropping entries from a canonical list by address keeps the canonical form. -/
theorem memoryWfFrom_filter {lo : Nat} {m : List Host.Cell} (h : memoryWfFrom lo m = true) (q : Host.Cell → Bool) :
    memoryWfFrom lo (m.filter q) = true := by
  induction m generalizing lo with
  | nil => rfl
  | cons c rest ih =>
    obtain ⟨x, y⟩ := c
    simp only [memoryWfFrom, Bool.and_eq_true, decide_eq_true_eq] at h
    by_cases hq : q (x, y) = true
    · simp only [List.filter_cons, hq, if_true, memoryWfFrom, Bool.and_eq_true, decide_eq_true_eq]
      exact ⟨h.1, ih h.2⟩
    · simp only [List.filter_cons, hq]
      exact memoryWfFrom_mono (by omega) (ih h.2)

/-- The memory that a pin reset keeps is canonical. -/
theorem wf_keptMemory {m : List Host.Cell} (h : Memory.wf m = true) : Memory.wf (keptMemory m) = true :=
  memoryWfFrom_filter h _

/-- The memory of `State.reset` is canonical. -/
theorem wf_reset : Memory.wf State.reset.smp.mem = true := rfl

/-- The result fields of a slot stand inside the slot region. -/
theorem slotBase_lt (k : Fin 8) : slotBase k + 64 ≤ 0x380 := by
  have := k.isLt
  simp only [slotBase]
  omega

end Sys2Proof.Machine
end

