-- ==== Sys2Proof/Laws/State.lean ====
section
/-! SUPPORT. One lemma for each field under each update of State. -/

namespace Sys2Proof.Machine.State

@[simp] theorem withPending_pending (s : State) (x : List Instr) : (s.withPending x).pending = x := rfl
@[simp] theorem withPending_inbox (s : State) (x : List Instr) : (s.withPending x).inbox = s.inbox := rfl
@[simp] theorem withPending_clock (s : State) (x : List Instr) : (s.withPending x).clock = s.clock := rfl
@[simp] theorem withPending_straps (s : State) (x : List Instr) : (s.withPending x).straps = s.straps := rfl
@[simp] theorem withPending_smp (s : State) (x : List Instr) : (s.withPending x).smp = s.smp := rfl
@[simp] theorem withPending_ord (s : State) (x : List Instr) : (s.withPending x).ord = s.ord := rfl
@[simp] theorem withPending_flt (s : State) (x : List Instr) : (s.withPending x).flt = s.flt := rfl
@[simp] theorem withPending_ctu (s : State) (x : List Instr) : (s.withPending x).ctu = s.ctu := rfl
@[simp] theorem withPending_hnt (s : State) (x : List Instr) : (s.withPending x).hnt = s.hnt := rfl
@[simp] theorem withPending_cal (s : State) (x : List Instr) : (s.withPending x).cal = s.cal := rfl
@[simp] theorem withPending_lmu (s : State) (x : List Instr) : (s.withPending x).lmu = s.lmu := rfl
@[simp] theorem withPending_vsw (s : State) (x : List Instr) : (s.withPending x).vsw = s.vsw := rfl
@[simp] theorem withPending_bsu (s : State) (x : List Instr) : (s.withPending x).bsu = s.bsu := rfl
@[simp] theorem withPending_mlc (s : State) (x : List Instr) : (s.withPending x).mlc = s.mlc := rfl
@[simp] theorem withPending_wch (s : State) (x : List Instr) : (s.withPending x).wch = s.wch := rfl
@[simp] theorem withPending_pln (s : State) (x : List Instr) : (s.withPending x).pln = s.pln := rfl
@[simp] theorem withInbox_pending (s : State) (x : List Msg) : (s.withInbox x).pending = s.pending := rfl
@[simp] theorem withInbox_inbox (s : State) (x : List Msg) : (s.withInbox x).inbox = x := rfl
@[simp] theorem withInbox_clock (s : State) (x : List Msg) : (s.withInbox x).clock = s.clock := rfl
@[simp] theorem withInbox_straps (s : State) (x : List Msg) : (s.withInbox x).straps = s.straps := rfl
@[simp] theorem withInbox_smp (s : State) (x : List Msg) : (s.withInbox x).smp = s.smp := rfl
@[simp] theorem withInbox_ord (s : State) (x : List Msg) : (s.withInbox x).ord = s.ord := rfl
@[simp] theorem withInbox_flt (s : State) (x : List Msg) : (s.withInbox x).flt = s.flt := rfl
@[simp] theorem withInbox_ctu (s : State) (x : List Msg) : (s.withInbox x).ctu = s.ctu := rfl
@[simp] theorem withInbox_hnt (s : State) (x : List Msg) : (s.withInbox x).hnt = s.hnt := rfl
@[simp] theorem withInbox_cal (s : State) (x : List Msg) : (s.withInbox x).cal = s.cal := rfl
@[simp] theorem withInbox_lmu (s : State) (x : List Msg) : (s.withInbox x).lmu = s.lmu := rfl
@[simp] theorem withInbox_vsw (s : State) (x : List Msg) : (s.withInbox x).vsw = s.vsw := rfl
@[simp] theorem withInbox_bsu (s : State) (x : List Msg) : (s.withInbox x).bsu = s.bsu := rfl
@[simp] theorem withInbox_mlc (s : State) (x : List Msg) : (s.withInbox x).mlc = s.mlc := rfl
@[simp] theorem withInbox_wch (s : State) (x : List Msg) : (s.withInbox x).wch = s.wch := rfl
@[simp] theorem withInbox_pln (s : State) (x : List Msg) : (s.withInbox x).pln = s.pln := rfl
@[simp] theorem withClock_pending (s : State) (x : BitVec 32) : (s.withClock x).pending = s.pending := rfl
@[simp] theorem withClock_inbox (s : State) (x : BitVec 32) : (s.withClock x).inbox = s.inbox := rfl
@[simp] theorem withClock_clock (s : State) (x : BitVec 32) : (s.withClock x).clock = x := rfl
@[simp] theorem withClock_straps (s : State) (x : BitVec 32) : (s.withClock x).straps = s.straps := rfl
@[simp] theorem withClock_smp (s : State) (x : BitVec 32) : (s.withClock x).smp = s.smp := rfl
@[simp] theorem withClock_ord (s : State) (x : BitVec 32) : (s.withClock x).ord = s.ord := rfl
@[simp] theorem withClock_flt (s : State) (x : BitVec 32) : (s.withClock x).flt = s.flt := rfl
@[simp] theorem withClock_ctu (s : State) (x : BitVec 32) : (s.withClock x).ctu = s.ctu := rfl
@[simp] theorem withClock_hnt (s : State) (x : BitVec 32) : (s.withClock x).hnt = s.hnt := rfl
@[simp] theorem withClock_cal (s : State) (x : BitVec 32) : (s.withClock x).cal = s.cal := rfl
@[simp] theorem withClock_lmu (s : State) (x : BitVec 32) : (s.withClock x).lmu = s.lmu := rfl
@[simp] theorem withClock_vsw (s : State) (x : BitVec 32) : (s.withClock x).vsw = s.vsw := rfl
@[simp] theorem withClock_bsu (s : State) (x : BitVec 32) : (s.withClock x).bsu = s.bsu := rfl
@[simp] theorem withClock_mlc (s : State) (x : BitVec 32) : (s.withClock x).mlc = s.mlc := rfl
@[simp] theorem withClock_wch (s : State) (x : BitVec 32) : (s.withClock x).wch = s.wch := rfl
@[simp] theorem withClock_pln (s : State) (x : BitVec 32) : (s.withClock x).pln = s.pln := rfl
@[simp] theorem withStraps_pending (s : State) (x : Straps) : (s.withStraps x).pending = s.pending := rfl
@[simp] theorem withStraps_inbox (s : State) (x : Straps) : (s.withStraps x).inbox = s.inbox := rfl
@[simp] theorem withStraps_clock (s : State) (x : Straps) : (s.withStraps x).clock = s.clock := rfl
@[simp] theorem withStraps_straps (s : State) (x : Straps) : (s.withStraps x).straps = x := rfl
@[simp] theorem withStraps_smp (s : State) (x : Straps) : (s.withStraps x).smp = s.smp := rfl
@[simp] theorem withStraps_ord (s : State) (x : Straps) : (s.withStraps x).ord = s.ord := rfl
@[simp] theorem withStraps_flt (s : State) (x : Straps) : (s.withStraps x).flt = s.flt := rfl
@[simp] theorem withStraps_ctu (s : State) (x : Straps) : (s.withStraps x).ctu = s.ctu := rfl
@[simp] theorem withStraps_hnt (s : State) (x : Straps) : (s.withStraps x).hnt = s.hnt := rfl
@[simp] theorem withStraps_cal (s : State) (x : Straps) : (s.withStraps x).cal = s.cal := rfl
@[simp] theorem withStraps_lmu (s : State) (x : Straps) : (s.withStraps x).lmu = s.lmu := rfl
@[simp] theorem withStraps_vsw (s : State) (x : Straps) : (s.withStraps x).vsw = s.vsw := rfl
@[simp] theorem withStraps_bsu (s : State) (x : Straps) : (s.withStraps x).bsu = s.bsu := rfl
@[simp] theorem withStraps_mlc (s : State) (x : Straps) : (s.withStraps x).mlc = s.mlc := rfl
@[simp] theorem withStraps_wch (s : State) (x : Straps) : (s.withStraps x).wch = s.wch := rfl
@[simp] theorem withStraps_pln (s : State) (x : Straps) : (s.withStraps x).pln = s.pln := rfl
@[simp] theorem withSmp_pending (s : State) (x : Smp) : (s.withSmp x).pending = s.pending := rfl
@[simp] theorem withSmp_inbox (s : State) (x : Smp) : (s.withSmp x).inbox = s.inbox := rfl
@[simp] theorem withSmp_clock (s : State) (x : Smp) : (s.withSmp x).clock = s.clock := rfl
@[simp] theorem withSmp_straps (s : State) (x : Smp) : (s.withSmp x).straps = s.straps := rfl
@[simp] theorem withSmp_smp (s : State) (x : Smp) : (s.withSmp x).smp = x := rfl
@[simp] theorem withSmp_ord (s : State) (x : Smp) : (s.withSmp x).ord = s.ord := rfl
@[simp] theorem withSmp_flt (s : State) (x : Smp) : (s.withSmp x).flt = s.flt := rfl
@[simp] theorem withSmp_ctu (s : State) (x : Smp) : (s.withSmp x).ctu = s.ctu := rfl
@[simp] theorem withSmp_hnt (s : State) (x : Smp) : (s.withSmp x).hnt = s.hnt := rfl
@[simp] theorem withSmp_cal (s : State) (x : Smp) : (s.withSmp x).cal = s.cal := rfl
@[simp] theorem withSmp_lmu (s : State) (x : Smp) : (s.withSmp x).lmu = s.lmu := rfl
@[simp] theorem withSmp_vsw (s : State) (x : Smp) : (s.withSmp x).vsw = s.vsw := rfl
@[simp] theorem withSmp_bsu (s : State) (x : Smp) : (s.withSmp x).bsu = s.bsu := rfl
@[simp] theorem withSmp_mlc (s : State) (x : Smp) : (s.withSmp x).mlc = s.mlc := rfl
@[simp] theorem withSmp_wch (s : State) (x : Smp) : (s.withSmp x).wch = s.wch := rfl
@[simp] theorem withSmp_pln (s : State) (x : Smp) : (s.withSmp x).pln = s.pln := rfl
@[simp] theorem withOrd_pending (s : State) (x : Ord) : (s.withOrd x).pending = s.pending := rfl
@[simp] theorem withOrd_inbox (s : State) (x : Ord) : (s.withOrd x).inbox = s.inbox := rfl
@[simp] theorem withOrd_clock (s : State) (x : Ord) : (s.withOrd x).clock = s.clock := rfl
@[simp] theorem withOrd_straps (s : State) (x : Ord) : (s.withOrd x).straps = s.straps := rfl
@[simp] theorem withOrd_smp (s : State) (x : Ord) : (s.withOrd x).smp = s.smp := rfl
@[simp] theorem withOrd_ord (s : State) (x : Ord) : (s.withOrd x).ord = x := rfl
@[simp] theorem withOrd_flt (s : State) (x : Ord) : (s.withOrd x).flt = s.flt := rfl
@[simp] theorem withOrd_ctu (s : State) (x : Ord) : (s.withOrd x).ctu = s.ctu := rfl
@[simp] theorem withOrd_hnt (s : State) (x : Ord) : (s.withOrd x).hnt = s.hnt := rfl
@[simp] theorem withOrd_cal (s : State) (x : Ord) : (s.withOrd x).cal = s.cal := rfl
@[simp] theorem withOrd_lmu (s : State) (x : Ord) : (s.withOrd x).lmu = s.lmu := rfl
@[simp] theorem withOrd_vsw (s : State) (x : Ord) : (s.withOrd x).vsw = s.vsw := rfl
@[simp] theorem withOrd_bsu (s : State) (x : Ord) : (s.withOrd x).bsu = s.bsu := rfl
@[simp] theorem withOrd_mlc (s : State) (x : Ord) : (s.withOrd x).mlc = s.mlc := rfl
@[simp] theorem withOrd_wch (s : State) (x : Ord) : (s.withOrd x).wch = s.wch := rfl
@[simp] theorem withOrd_pln (s : State) (x : Ord) : (s.withOrd x).pln = s.pln := rfl
@[simp] theorem withFlt_pending (s : State) (x : Flt) : (s.withFlt x).pending = s.pending := rfl
@[simp] theorem withFlt_inbox (s : State) (x : Flt) : (s.withFlt x).inbox = s.inbox := rfl
@[simp] theorem withFlt_clock (s : State) (x : Flt) : (s.withFlt x).clock = s.clock := rfl
@[simp] theorem withFlt_straps (s : State) (x : Flt) : (s.withFlt x).straps = s.straps := rfl
@[simp] theorem withFlt_smp (s : State) (x : Flt) : (s.withFlt x).smp = s.smp := rfl
@[simp] theorem withFlt_ord (s : State) (x : Flt) : (s.withFlt x).ord = s.ord := rfl
@[simp] theorem withFlt_flt (s : State) (x : Flt) : (s.withFlt x).flt = x := rfl
@[simp] theorem withFlt_ctu (s : State) (x : Flt) : (s.withFlt x).ctu = s.ctu := rfl
@[simp] theorem withFlt_hnt (s : State) (x : Flt) : (s.withFlt x).hnt = s.hnt := rfl
@[simp] theorem withFlt_cal (s : State) (x : Flt) : (s.withFlt x).cal = s.cal := rfl
@[simp] theorem withFlt_lmu (s : State) (x : Flt) : (s.withFlt x).lmu = s.lmu := rfl
@[simp] theorem withFlt_vsw (s : State) (x : Flt) : (s.withFlt x).vsw = s.vsw := rfl
@[simp] theorem withFlt_bsu (s : State) (x : Flt) : (s.withFlt x).bsu = s.bsu := rfl
@[simp] theorem withFlt_mlc (s : State) (x : Flt) : (s.withFlt x).mlc = s.mlc := rfl
@[simp] theorem withFlt_wch (s : State) (x : Flt) : (s.withFlt x).wch = s.wch := rfl
@[simp] theorem withFlt_pln (s : State) (x : Flt) : (s.withFlt x).pln = s.pln := rfl
@[simp] theorem withCtu_pending (s : State) (x : Ctu) : (s.withCtu x).pending = s.pending := rfl
@[simp] theorem withCtu_inbox (s : State) (x : Ctu) : (s.withCtu x).inbox = s.inbox := rfl
@[simp] theorem withCtu_clock (s : State) (x : Ctu) : (s.withCtu x).clock = s.clock := rfl
@[simp] theorem withCtu_straps (s : State) (x : Ctu) : (s.withCtu x).straps = s.straps := rfl
@[simp] theorem withCtu_smp (s : State) (x : Ctu) : (s.withCtu x).smp = s.smp := rfl
@[simp] theorem withCtu_ord (s : State) (x : Ctu) : (s.withCtu x).ord = s.ord := rfl
@[simp] theorem withCtu_flt (s : State) (x : Ctu) : (s.withCtu x).flt = s.flt := rfl
@[simp] theorem withCtu_ctu (s : State) (x : Ctu) : (s.withCtu x).ctu = x := rfl
@[simp] theorem withCtu_hnt (s : State) (x : Ctu) : (s.withCtu x).hnt = s.hnt := rfl
@[simp] theorem withCtu_cal (s : State) (x : Ctu) : (s.withCtu x).cal = s.cal := rfl
@[simp] theorem withCtu_lmu (s : State) (x : Ctu) : (s.withCtu x).lmu = s.lmu := rfl
@[simp] theorem withCtu_vsw (s : State) (x : Ctu) : (s.withCtu x).vsw = s.vsw := rfl
@[simp] theorem withCtu_bsu (s : State) (x : Ctu) : (s.withCtu x).bsu = s.bsu := rfl
@[simp] theorem withCtu_mlc (s : State) (x : Ctu) : (s.withCtu x).mlc = s.mlc := rfl
@[simp] theorem withCtu_wch (s : State) (x : Ctu) : (s.withCtu x).wch = s.wch := rfl
@[simp] theorem withCtu_pln (s : State) (x : Ctu) : (s.withCtu x).pln = s.pln := rfl
@[simp] theorem withHnt_pending (s : State) (x : Hnt) : (s.withHnt x).pending = s.pending := rfl
@[simp] theorem withHnt_inbox (s : State) (x : Hnt) : (s.withHnt x).inbox = s.inbox := rfl
@[simp] theorem withHnt_clock (s : State) (x : Hnt) : (s.withHnt x).clock = s.clock := rfl
@[simp] theorem withHnt_straps (s : State) (x : Hnt) : (s.withHnt x).straps = s.straps := rfl
@[simp] theorem withHnt_smp (s : State) (x : Hnt) : (s.withHnt x).smp = s.smp := rfl
@[simp] theorem withHnt_ord (s : State) (x : Hnt) : (s.withHnt x).ord = s.ord := rfl
@[simp] theorem withHnt_flt (s : State) (x : Hnt) : (s.withHnt x).flt = s.flt := rfl
@[simp] theorem withHnt_ctu (s : State) (x : Hnt) : (s.withHnt x).ctu = s.ctu := rfl
@[simp] theorem withHnt_hnt (s : State) (x : Hnt) : (s.withHnt x).hnt = x := rfl
@[simp] theorem withHnt_cal (s : State) (x : Hnt) : (s.withHnt x).cal = s.cal := rfl
@[simp] theorem withHnt_lmu (s : State) (x : Hnt) : (s.withHnt x).lmu = s.lmu := rfl
@[simp] theorem withHnt_vsw (s : State) (x : Hnt) : (s.withHnt x).vsw = s.vsw := rfl
@[simp] theorem withHnt_bsu (s : State) (x : Hnt) : (s.withHnt x).bsu = s.bsu := rfl
@[simp] theorem withHnt_mlc (s : State) (x : Hnt) : (s.withHnt x).mlc = s.mlc := rfl
@[simp] theorem withHnt_wch (s : State) (x : Hnt) : (s.withHnt x).wch = s.wch := rfl
@[simp] theorem withHnt_pln (s : State) (x : Hnt) : (s.withHnt x).pln = s.pln := rfl
@[simp] theorem withCal_pending (s : State) (x : Cal) : (s.withCal x).pending = s.pending := rfl
@[simp] theorem withCal_inbox (s : State) (x : Cal) : (s.withCal x).inbox = s.inbox := rfl
@[simp] theorem withCal_clock (s : State) (x : Cal) : (s.withCal x).clock = s.clock := rfl
@[simp] theorem withCal_straps (s : State) (x : Cal) : (s.withCal x).straps = s.straps := rfl
@[simp] theorem withCal_smp (s : State) (x : Cal) : (s.withCal x).smp = s.smp := rfl
@[simp] theorem withCal_ord (s : State) (x : Cal) : (s.withCal x).ord = s.ord := rfl
@[simp] theorem withCal_flt (s : State) (x : Cal) : (s.withCal x).flt = s.flt := rfl
@[simp] theorem withCal_ctu (s : State) (x : Cal) : (s.withCal x).ctu = s.ctu := rfl
@[simp] theorem withCal_hnt (s : State) (x : Cal) : (s.withCal x).hnt = s.hnt := rfl
@[simp] theorem withCal_cal (s : State) (x : Cal) : (s.withCal x).cal = x := rfl
@[simp] theorem withCal_lmu (s : State) (x : Cal) : (s.withCal x).lmu = s.lmu := rfl
@[simp] theorem withCal_vsw (s : State) (x : Cal) : (s.withCal x).vsw = s.vsw := rfl
@[simp] theorem withCal_bsu (s : State) (x : Cal) : (s.withCal x).bsu = s.bsu := rfl
@[simp] theorem withCal_mlc (s : State) (x : Cal) : (s.withCal x).mlc = s.mlc := rfl
@[simp] theorem withCal_wch (s : State) (x : Cal) : (s.withCal x).wch = s.wch := rfl
@[simp] theorem withCal_pln (s : State) (x : Cal) : (s.withCal x).pln = s.pln := rfl
@[simp] theorem withLmu_pending (s : State) (x : Lmu) : (s.withLmu x).pending = s.pending := rfl
@[simp] theorem withLmu_inbox (s : State) (x : Lmu) : (s.withLmu x).inbox = s.inbox := rfl
@[simp] theorem withLmu_clock (s : State) (x : Lmu) : (s.withLmu x).clock = s.clock := rfl
@[simp] theorem withLmu_straps (s : State) (x : Lmu) : (s.withLmu x).straps = s.straps := rfl
@[simp] theorem withLmu_smp (s : State) (x : Lmu) : (s.withLmu x).smp = s.smp := rfl
@[simp] theorem withLmu_ord (s : State) (x : Lmu) : (s.withLmu x).ord = s.ord := rfl
@[simp] theorem withLmu_flt (s : State) (x : Lmu) : (s.withLmu x).flt = s.flt := rfl
@[simp] theorem withLmu_ctu (s : State) (x : Lmu) : (s.withLmu x).ctu = s.ctu := rfl
@[simp] theorem withLmu_hnt (s : State) (x : Lmu) : (s.withLmu x).hnt = s.hnt := rfl
@[simp] theorem withLmu_cal (s : State) (x : Lmu) : (s.withLmu x).cal = s.cal := rfl
@[simp] theorem withLmu_lmu (s : State) (x : Lmu) : (s.withLmu x).lmu = x := rfl
@[simp] theorem withLmu_vsw (s : State) (x : Lmu) : (s.withLmu x).vsw = s.vsw := rfl
@[simp] theorem withLmu_bsu (s : State) (x : Lmu) : (s.withLmu x).bsu = s.bsu := rfl
@[simp] theorem withLmu_mlc (s : State) (x : Lmu) : (s.withLmu x).mlc = s.mlc := rfl
@[simp] theorem withLmu_wch (s : State) (x : Lmu) : (s.withLmu x).wch = s.wch := rfl
@[simp] theorem withLmu_pln (s : State) (x : Lmu) : (s.withLmu x).pln = s.pln := rfl
@[simp] theorem withVsw_pending (s : State) (x : Vsw) : (s.withVsw x).pending = s.pending := rfl
@[simp] theorem withVsw_inbox (s : State) (x : Vsw) : (s.withVsw x).inbox = s.inbox := rfl
@[simp] theorem withVsw_clock (s : State) (x : Vsw) : (s.withVsw x).clock = s.clock := rfl
@[simp] theorem withVsw_straps (s : State) (x : Vsw) : (s.withVsw x).straps = s.straps := rfl
@[simp] theorem withVsw_smp (s : State) (x : Vsw) : (s.withVsw x).smp = s.smp := rfl
@[simp] theorem withVsw_ord (s : State) (x : Vsw) : (s.withVsw x).ord = s.ord := rfl
@[simp] theorem withVsw_flt (s : State) (x : Vsw) : (s.withVsw x).flt = s.flt := rfl
@[simp] theorem withVsw_ctu (s : State) (x : Vsw) : (s.withVsw x).ctu = s.ctu := rfl
@[simp] theorem withVsw_hnt (s : State) (x : Vsw) : (s.withVsw x).hnt = s.hnt := rfl
@[simp] theorem withVsw_cal (s : State) (x : Vsw) : (s.withVsw x).cal = s.cal := rfl
@[simp] theorem withVsw_lmu (s : State) (x : Vsw) : (s.withVsw x).lmu = s.lmu := rfl
@[simp] theorem withVsw_vsw (s : State) (x : Vsw) : (s.withVsw x).vsw = x := rfl
@[simp] theorem withVsw_bsu (s : State) (x : Vsw) : (s.withVsw x).bsu = s.bsu := rfl
@[simp] theorem withVsw_mlc (s : State) (x : Vsw) : (s.withVsw x).mlc = s.mlc := rfl
@[simp] theorem withVsw_wch (s : State) (x : Vsw) : (s.withVsw x).wch = s.wch := rfl
@[simp] theorem withVsw_pln (s : State) (x : Vsw) : (s.withVsw x).pln = s.pln := rfl
@[simp] theorem withBsu_pending (s : State) (x : Bsu) : (s.withBsu x).pending = s.pending := rfl
@[simp] theorem withBsu_inbox (s : State) (x : Bsu) : (s.withBsu x).inbox = s.inbox := rfl
@[simp] theorem withBsu_clock (s : State) (x : Bsu) : (s.withBsu x).clock = s.clock := rfl
@[simp] theorem withBsu_straps (s : State) (x : Bsu) : (s.withBsu x).straps = s.straps := rfl
@[simp] theorem withBsu_smp (s : State) (x : Bsu) : (s.withBsu x).smp = s.smp := rfl
@[simp] theorem withBsu_ord (s : State) (x : Bsu) : (s.withBsu x).ord = s.ord := rfl
@[simp] theorem withBsu_flt (s : State) (x : Bsu) : (s.withBsu x).flt = s.flt := rfl
@[simp] theorem withBsu_ctu (s : State) (x : Bsu) : (s.withBsu x).ctu = s.ctu := rfl
@[simp] theorem withBsu_hnt (s : State) (x : Bsu) : (s.withBsu x).hnt = s.hnt := rfl
@[simp] theorem withBsu_cal (s : State) (x : Bsu) : (s.withBsu x).cal = s.cal := rfl
@[simp] theorem withBsu_lmu (s : State) (x : Bsu) : (s.withBsu x).lmu = s.lmu := rfl
@[simp] theorem withBsu_vsw (s : State) (x : Bsu) : (s.withBsu x).vsw = s.vsw := rfl
@[simp] theorem withBsu_bsu (s : State) (x : Bsu) : (s.withBsu x).bsu = x := rfl
@[simp] theorem withBsu_mlc (s : State) (x : Bsu) : (s.withBsu x).mlc = s.mlc := rfl
@[simp] theorem withBsu_wch (s : State) (x : Bsu) : (s.withBsu x).wch = s.wch := rfl
@[simp] theorem withBsu_pln (s : State) (x : Bsu) : (s.withBsu x).pln = s.pln := rfl
@[simp] theorem withMlc_pending (s : State) (x : Mlc) : (s.withMlc x).pending = s.pending := rfl
@[simp] theorem withMlc_inbox (s : State) (x : Mlc) : (s.withMlc x).inbox = s.inbox := rfl
@[simp] theorem withMlc_clock (s : State) (x : Mlc) : (s.withMlc x).clock = s.clock := rfl
@[simp] theorem withMlc_straps (s : State) (x : Mlc) : (s.withMlc x).straps = s.straps := rfl
@[simp] theorem withMlc_smp (s : State) (x : Mlc) : (s.withMlc x).smp = s.smp := rfl
@[simp] theorem withMlc_ord (s : State) (x : Mlc) : (s.withMlc x).ord = s.ord := rfl
@[simp] theorem withMlc_flt (s : State) (x : Mlc) : (s.withMlc x).flt = s.flt := rfl
@[simp] theorem withMlc_ctu (s : State) (x : Mlc) : (s.withMlc x).ctu = s.ctu := rfl
@[simp] theorem withMlc_hnt (s : State) (x : Mlc) : (s.withMlc x).hnt = s.hnt := rfl
@[simp] theorem withMlc_cal (s : State) (x : Mlc) : (s.withMlc x).cal = s.cal := rfl
@[simp] theorem withMlc_lmu (s : State) (x : Mlc) : (s.withMlc x).lmu = s.lmu := rfl
@[simp] theorem withMlc_vsw (s : State) (x : Mlc) : (s.withMlc x).vsw = s.vsw := rfl
@[simp] theorem withMlc_bsu (s : State) (x : Mlc) : (s.withMlc x).bsu = s.bsu := rfl
@[simp] theorem withMlc_mlc (s : State) (x : Mlc) : (s.withMlc x).mlc = x := rfl
@[simp] theorem withMlc_wch (s : State) (x : Mlc) : (s.withMlc x).wch = s.wch := rfl
@[simp] theorem withMlc_pln (s : State) (x : Mlc) : (s.withMlc x).pln = s.pln := rfl
@[simp] theorem withWch_pending (s : State) (x : Wch) : (s.withWch x).pending = s.pending := rfl
@[simp] theorem withWch_inbox (s : State) (x : Wch) : (s.withWch x).inbox = s.inbox := rfl
@[simp] theorem withWch_clock (s : State) (x : Wch) : (s.withWch x).clock = s.clock := rfl
@[simp] theorem withWch_straps (s : State) (x : Wch) : (s.withWch x).straps = s.straps := rfl
@[simp] theorem withWch_smp (s : State) (x : Wch) : (s.withWch x).smp = s.smp := rfl
@[simp] theorem withWch_ord (s : State) (x : Wch) : (s.withWch x).ord = s.ord := rfl
@[simp] theorem withWch_flt (s : State) (x : Wch) : (s.withWch x).flt = s.flt := rfl
@[simp] theorem withWch_ctu (s : State) (x : Wch) : (s.withWch x).ctu = s.ctu := rfl
@[simp] theorem withWch_hnt (s : State) (x : Wch) : (s.withWch x).hnt = s.hnt := rfl
@[simp] theorem withWch_cal (s : State) (x : Wch) : (s.withWch x).cal = s.cal := rfl
@[simp] theorem withWch_lmu (s : State) (x : Wch) : (s.withWch x).lmu = s.lmu := rfl
@[simp] theorem withWch_vsw (s : State) (x : Wch) : (s.withWch x).vsw = s.vsw := rfl
@[simp] theorem withWch_bsu (s : State) (x : Wch) : (s.withWch x).bsu = s.bsu := rfl
@[simp] theorem withWch_mlc (s : State) (x : Wch) : (s.withWch x).mlc = s.mlc := rfl
@[simp] theorem withWch_wch (s : State) (x : Wch) : (s.withWch x).wch = x := rfl
@[simp] theorem withWch_pln (s : State) (x : Wch) : (s.withWch x).pln = s.pln := rfl
@[simp] theorem withPln_pending (s : State) (x : Pln) : (s.withPln x).pending = s.pending := rfl
@[simp] theorem withPln_inbox (s : State) (x : Pln) : (s.withPln x).inbox = s.inbox := rfl
@[simp] theorem withPln_clock (s : State) (x : Pln) : (s.withPln x).clock = s.clock := rfl
@[simp] theorem withPln_straps (s : State) (x : Pln) : (s.withPln x).straps = s.straps := rfl
@[simp] theorem withPln_smp (s : State) (x : Pln) : (s.withPln x).smp = s.smp := rfl
@[simp] theorem withPln_ord (s : State) (x : Pln) : (s.withPln x).ord = s.ord := rfl
@[simp] theorem withPln_flt (s : State) (x : Pln) : (s.withPln x).flt = s.flt := rfl
@[simp] theorem withPln_ctu (s : State) (x : Pln) : (s.withPln x).ctu = s.ctu := rfl
@[simp] theorem withPln_hnt (s : State) (x : Pln) : (s.withPln x).hnt = s.hnt := rfl
@[simp] theorem withPln_cal (s : State) (x : Pln) : (s.withPln x).cal = s.cal := rfl
@[simp] theorem withPln_lmu (s : State) (x : Pln) : (s.withPln x).lmu = s.lmu := rfl
@[simp] theorem withPln_vsw (s : State) (x : Pln) : (s.withPln x).vsw = s.vsw := rfl
@[simp] theorem withPln_bsu (s : State) (x : Pln) : (s.withPln x).bsu = s.bsu := rfl
@[simp] theorem withPln_mlc (s : State) (x : Pln) : (s.withPln x).mlc = s.mlc := rfl
@[simp] theorem withPln_wch (s : State) (x : Pln) : (s.withPln x).wch = s.wch := rfl
@[simp] theorem withPln_pln (s : State) (x : Pln) : (s.withPln x).pln = x := rfl

end Sys2Proof.Machine.State
end

