-- ==== Sys2Proof/Laws/Evolves.lean ====
section
/-! SUPPORT. What the blocks' own doing can change outside themselves: the relation `Evolves`, and the operations at the
bottom of the model that keep it. Every operation that runs inside a cascade evolves the state in this sense, so whatever
`Evolves` says is unchanged is unchanged by a whole cascade, and whatever it says is kept is kept by it. -/

namespace Sys2Proof.Machine

/-- Whether a slot is TAKEN. -/
def isTaken : SlotState → Bool
  | .taken _ _ => true
  | _ => false

/-- A slot changes only from TAKEN to DONE. -/
def SlotStep (x y : SlotState) : Prop := y = x ∨ (isTaken x = true ∧ y = .done)

/-- An output under the host's hand is left alone, no output changes hands, and a pattern timer that is as its mode and
pattern have it stays so. -/
def OutStep (x y : OutputState) : Prop :=
  y.host = x.host ∧ (x.host = true → y = x) ∧ (outputOk x = true → outputOk y = true)

/-- Every plan PLN holds is in range, and so is every field of the carrier table. -/
def Bounded (s : State) : Prop :=
  plansInRange s.pln = true ∧ tableOk s.ctu.table = true ∧ tableBounded s.ctu.table = true

/-- What `t` keeps of `s` when blocks act of their own accord. -/
structure Evolves (s t : State) : Prop where
  pending : t.pending = s.pending
  clock : t.clock = s.clock
  straps : t.straps = s.straps
  tx : t.mlc.tx = s.mlc.tx
  takeNumber : t.ord.takeNumber = s.ord.takeNumber
  planProtected : t.smp.planProtected = s.smp.planProtected
  enables : t.smp.enables = s.smp.enables
  clockGen : t.smp.clockGen = s.smp.clockGen
  causes : ∀ i, s.smp.causes.getLsbD i = true → t.smp.causes.getLsbD i = true
  slots : ∀ k, SlotStep (s.ord.slots.get k) (t.ord.slots.get k)
  mem : ∀ a, memRead t.smp.mem a = memRead s.smp.mem a ∨
    ∃ k, slotBase k + 44 ≤ a ∧ a < slotBase k + 52 ∧ isTaken (s.ord.slots.get k) = true ∧ t.ord.slots.get k = .done
  memWf : Memory.wf s.smp.mem = true → Memory.wf t.smp.mem = true
  log : s.flt.log <+: t.flt.log
  tally : s.flt.tally ≤ 255 → s.flt.tally ≤ t.flt.tally ∧ t.flt.tally ≤ 255
  faults : faultsOk s.flt = true → faultsOk t.flt = true
  call : t.bsu.call = s.bsu.call
  hook : t.bsu.hook = s.bsu.hook
  door : t.bsu.door = s.bsu.door
  quiet : t.bsu.quiet = s.bsu.quiet
  outs : ∀ o, OutStep (s.bsu.outs.get o) (t.bsu.outs.get o)
  switch : switchOk s.vsw = true → switchOk t.vsw = true
  tones : tonesOk s.vsw = true → tonesOk t.vsw = true
  queue : queueOk s.mlc.queue = true → queueOk t.mlc.queue = true
  table : tableOk s.ctu.table = true → tableOk t.ctu.table = true
  bounded : Bounded s → Bounded t
  statusGen : t.smp.statusGen.getLsbD 0 = s.smp.statusGen.getLsbD 0
  mirrorGen : t.ctu.mirrorGen.getLsbD 0 = s.ctu.mirrorGen.getLsbD 0
  fileGen : t.cal.fileGen.getLsbD 0 = s.cal.fileGen.getLsbD 0

theorem SlotStep.refl (x : SlotState) : SlotStep x x := Or.inl rfl

theorem SlotStep.trans {x y z : SlotState} (h : SlotStep x y) (g : SlotStep y z) : SlotStep x z := by
  rcases h with rfl | ⟨hx, rfl⟩
  · exact g
  · rcases g with rfl | ⟨hy, _⟩
    · exact Or.inr ⟨hx, rfl⟩
    · simp [isTaken] at hy

theorem OutStep.refl (x : OutputState) : OutStep x x := ⟨rfl, fun _ => rfl, id⟩

theorem OutStep.trans {x y z : OutputState} (h : OutStep x y) (g : OutStep y z) : OutStep x z := by
  refine ⟨g.1.trans h.1, fun hx => ?_, fun hx => g.2.2 (h.2.2 hx)⟩
  have hy : y.host = true := h.1.trans hx
  rw [g.2.1 hy, h.2.1 hx]

theorem Evolves.refl (s : State) : Evolves s s where
  pending := rfl
  clock := rfl
  straps := rfl
  tx := rfl
  takeNumber := rfl
  planProtected := rfl
  enables := rfl
  clockGen := rfl
  causes _ h := h
  slots _ := SlotStep.refl _
  mem _ := Or.inl rfl
  memWf h := h
  log := List.prefix_refl _
  tally x := ⟨Nat.le_refl _, x⟩
  faults h := h
  call := rfl
  hook := rfl
  door := rfl
  quiet := rfl
  outs _ := OutStep.refl _
  switch h := h
  tones h := h
  queue h := h
  table h := h
  bounded h := h
  statusGen := rfl
  mirrorGen := rfl
  fileGen := rfl

theorem Evolves.trans {s t u : State} (h : Evolves s t) (g : Evolves t u) : Evolves s u where
  pending := g.pending.trans h.pending
  clock := g.clock.trans h.clock
  straps := g.straps.trans h.straps
  tx := g.tx.trans h.tx
  takeNumber := g.takeNumber.trans h.takeNumber
  planProtected := g.planProtected.trans h.planProtected
  enables := g.enables.trans h.enables
  clockGen := g.clockGen.trans h.clockGen
  causes i x := g.causes i (h.causes i x)
  slots k := (h.slots k).trans (g.slots k)
  mem a := by
    rcases g.mem a with e | ⟨k, h1, h2, h3, h4⟩
    · rcases h.mem a with e' | ⟨k, h1, h2, h3, h4⟩
      · exact Or.inl (e.trans e')
      · refine Or.inr ⟨k, h1, h2, h3, ?_⟩
        rcases g.slots k with e'' | ⟨x, _⟩
        · rw [e'', h4]
        · rw [h4] at x
          simp [isTaken] at x
    · rcases h.slots k with e' | ⟨x, y⟩
      · exact Or.inr ⟨k, h1, h2, e' ▸ h3, h4⟩
      · rw [y] at h3
        simp [isTaken] at h3
  memWf x := g.memWf (h.memWf x)
  log := h.log.trans g.log
  tally x := ⟨(h.tally x).1.trans (g.tally (h.tally x).2).1, (g.tally (h.tally x).2).2⟩
  faults x := g.faults (h.faults x)
  call := g.call.trans h.call
  hook := g.hook.trans h.hook
  door := g.door.trans h.door
  quiet := g.quiet.trans h.quiet
  outs o := (h.outs o).trans (g.outs o)
  switch x := g.switch (h.switch x)
  tones x := g.tones (h.tones x)
  queue x := g.queue (h.queue x)
  table x := g.table (h.table x)
  bounded x := g.bounded (h.bounded x)
  statusGen := g.statusGen.trans h.statusGen
  mirrorGen := g.mirrorGen.trans h.mirrorGen
  fileGen := g.fileGen.trans h.fileGen

/-- A generation word that moves on by 2 keeps its lowest bit. -/
@[simp] theorem getLsbD_add_two (x : Word) : (x + 2).getLsbD 0 = x.getLsbD 0 := by
  simp only [BitVec.getLsbD, BitVec.toNat_add, Nat.testBit_zero]
  congr 1
  simp

/-! ### Updates of one component -/

theorem Evolves.withInbox {s0 s : State} (h : Evolves s0 s) {x : List Msg} : Evolves s0 (s.withInbox x) := { h with }

theorem Evolves.withHnt {s0 s : State} (h : Evolves s0 s) {x : Hnt} : Evolves s0 (s.withHnt x) := { h with }

theorem Evolves.withCal {s0 s : State} (h : Evolves s0 s) {x : Cal}
    (hg : x.fileGen.getLsbD 0 = s.cal.fileGen.getLsbD 0) : Evolves s0 (s.withCal x) :=
  { h with fileGen := hg.trans h.fileGen }

theorem Evolves.withLmu {s0 s : State} (h : Evolves s0 s) {x : Lmu} : Evolves s0 (s.withLmu x) := { h with }

theorem Evolves.withWch {s0 s : State} (h : Evolves s0 s) {x : Wch} : Evolves s0 (s.withWch x) := { h with }

theorem Evolves.withPln {s0 s : State} (h : Evolves s0 s) {x : Pln}
    (hp : plansInRange s.pln = true → plansInRange x = true) : Evolves s0 (s.withPln x) :=
  { h with bounded := fun a => ⟨hp (h.bounded a).1, (h.bounded a).2⟩ }

theorem Evolves.withMlc {s0 s : State} (h : Evolves s0 s) {x : Mlc} (ht : x.tx = s.mlc.tx)
    (hq : queueOk s.mlc.queue = true → queueOk x.queue = true) : Evolves s0 (s.withMlc x) :=
  { h with tx := ht.trans h.tx, queue := fun a => hq (h.queue a) }

theorem Evolves.withQueue {s0 s : State} (h : Evolves s0 s) {q : List Request}
    (hq : queueOk s.mlc.queue = true → queueOk q = true) : Evolves s0 (s.withQueue q) := h.withMlc rfl hq

theorem Evolves.withModule {s0 s : State} (h : Evolves s0 s) {p : Pos} {m : Module} : Evolves s0 (s.withModule p m) :=
  h.withMlc rfl id

theorem Evolves.withCtu {s0 s : State} (h : Evolves s0 s) {x : Ctu}
    (hx : tableOk s.ctu.table = true → tableOk x.table = true)
    (hb : plansInRange s.pln = true → tableOk s.ctu.table = true → tableBounded s.ctu.table = true →
      tableBounded x.table = true)
    (hg : x.mirrorGen.getLsbD 0 = s.ctu.mirrorGen.getLsbD 0) : Evolves s0 (s.withCtu x) :=
  { h with
    table := fun a => hx (h.table a)
    bounded := fun a =>
      have b := h.bounded a
      ⟨b.1, hx b.2.1, hb b.1 b.2.1 b.2.2⟩
    mirrorGen := hg.trans h.mirrorGen }

theorem Evolves.withVsw {s0 s : State} (h : Evolves s0 s) {x : Vsw} (hs : switchOk s.vsw = true → switchOk x = true)
    (ht : tonesOk s.vsw = true → tonesOk x = true) : Evolves s0 (s.withVsw x) :=
  { h with switch := fun a => hs (h.switch a), tones := fun a => ht (h.tones a) }

theorem Evolves.withOuts {s0 s : State} (h : Evolves s0 s) {x : PerOut OutputState}
    (hx : ∀ o, OutStep (s.bsu.outs.get o) (x.get o)) : Evolves s0 (s.withBsu { s.bsu with outs := x }) :=
  { h with outs := fun o => (h.outs o).trans (hx o) }

theorem Evolves.withFlt {s0 s : State} (h : Evolves s0 s) {x : Flt} (hl : s.flt.log <+: x.log)
    (ht : s.flt.tally ≤ 255 → s.flt.tally ≤ x.tally ∧ x.tally ≤ 255) (hf : faultsOk s.flt = true → faultsOk x = true) :
    Evolves s0 (s.withFlt x) :=
  { h with
    log := h.log.trans hl
    tally := fun a => ⟨(h.tally a).1.trans (ht (h.tally a).2).1, (ht (h.tally a).2).2⟩
    faults := fun a => hf (h.faults a) }

/-! ### The operations of Ops -/

theorem post_evolves {s0 s : State} {m : Msg} (h : Evolves s0 s) : Evolves s0 (post m s) := h.withInbox

theorem postAll_evolves {s0 s : State} {ms : List Msg} (h : Evolves s0 s) : Evolves s0 (postAll ms s) := h.withInbox

theorem raise_evolves {s0 s : State} {c : Cause} (h : Evolves s0 s) : Evolves s0 (raise c s) :=
  { h with
    causes := fun i a => by
      have := h.causes i a
      simp [raise, causeSet, this] }

theorem publishStatus_evolves {s0 s : State} (h : Evolves s0 s) : Evolves s0 (publishStatus s) :=
  { h with statusGen := (getLsbD_add_two _).trans h.statusGen }

theorem reportFault_evolves {s0 s : State} {kind : FaultKind} {pos : Option Pos} {detail : Nat}
    {address : Option (BitVec 12)} (h : Evolves s0 s) : Evolves s0 (reportFault kind pos detail address s) := by
  unfold reportFault
  dsimp only
  split
  · rename_i hl
    refine raise_evolves (h.withFlt ?_ ?_ ?_)
    · exact List.prefix_append _ _
    · intro; constructor <;> simp <;> omega
    · intro a
      simp only [faultsOk, Bool.and_eq_true, decide_eq_true_eq] at a ⊢
      simp only [List.length_append, List.length_cons, List.length_nil]
      omega
  · refine h.withFlt (List.prefix_refl _) ?_ ?_
    · intro; constructor <;> simp <;> omega
    · intro a
      simp only [faultsOk, Bool.and_eq_true, decide_eq_true_eq] at a ⊢
      omega

theorem get_set_slot {α : Type} (v : PerSlot α) (j k : Fin 8) (x : α) :
    (v.set k x).get j = if j = k then x else v.get j := by
  fin_cases k <;> fin_cases j <;> rfl

/-- A slot that was TAKEN becomes DONE with its result written. -/
theorem finish_evolves {s0 s : State} {k : Fin 8} {outcome : Nat} {detail : Word} {time : BitVec 32}
    (h : Evolves s0 s) (hk : isTaken (s.ord.slots.get k) = true) :
    Evolves s0 (setSlot k .done (writeResult k outcome detail time s)) := by
  refine h.trans ?_
  have hb := slotBase_lt k
  have hn : (resultBytes outcome detail time).length = 8 := rfl
  have hs : ∀ j, (setSlot k .done (writeResult k outcome detail time s)).ord.slots.get j
      = if j = k then .done else s.ord.slots.get j := fun j => get_set_slot _ _ _ _
  refine { Evolves.refl s with slots := fun j => ?_, mem := fun a => ?_, memWf := fun w => ?_ }
  · rw [hs j]
    by_cases e : j = k
    · subst e
      exact Or.inr ⟨hk, by simp⟩
    · simp [e, SlotStep]
  · by_cases e : slotBase k + 44 ≤ a ∧ a < slotBase k + 52
    · exact Or.inr ⟨k, e.1, e.2, hk, by rw [hs k]; simp⟩
    · exact Or.inl (memRead_memWriteAll_ne (by omega))
  · exact wf_memWriteAll w (by omega)

theorem complete_evolves {s0 s : State} {x : Held} {o : OrderOutcome} {d : Word} (h : Evolves s0 s) :
    Evolves s0 (complete x o d s) := by
  unfold complete
  split
  · rename_i ht
    refine raise_evolves (finish_evolves h ?_)
    cases e : s.ord.slots.get x.slot <;> simp [e, isTakenBy, isTaken] at ht ⊢
  · exact h

theorem completeIfHeld_evolves {s0 s : State} {x : Option Held} {o : OrderOutcome} {d : Word} (h : Evolves s0 s) :
    Evolves s0 (completeIfHeld x o d s) := by
  cases x with
  | none => exact h
  | some y => exact complete_evolves h

end Sys2Proof.Machine
end

