-- ==== Sys2Proof/Laws/Table.lean ====
section
/-! SUPPORT. The carrier table: the rank order is an order, and every operation on the table keeps `tableOk` (at most 24
entries, no key twice, in rank order, every field in its range). -/

namespace Sys2Proof.Machine

/-! ### The rank order -/

/-- The rank order as a comparison of numbers. -/
theorem ranksAbove_iff (a b : Entry) : ranksAbove a b = true ↔
    b.score < a.score ∨ (a.score = b.score ∧ (a.key.pos.val < b.key.pos.val ∨ (a.key.pos.val = b.key.pos.val ∧
      (a.key.channel.toNat < b.key.channel.toNat ∨
        (a.key.channel.toNat = b.key.channel.toNat ∧ a.seq < b.seq))))) := by
  unfold ranksAbove
  split
  · split
    · split
      · simp_all
      · rename_i h
        have : a.key.channel.toNat ≠ b.key.channel.toNat := fun e => h (BitVec.eq_of_toNat_eq e)
        simp_all
    · rename_i h
      have : a.key.pos.val ≠ b.key.pos.val := fun e => h (Fin.ext e)
      simp_all
  · simp_all

/-- No entry ranks above one that ranks above it. -/
theorem ranksAbove_asymm {a b : Entry} (h : ranksAbove a b = true) : ranksAbove b a = false := by
  rw [← Bool.not_eq_true, ranksAbove_iff]
  rw [ranksAbove_iff] at h
  omega

/-- The rank order is transitive. -/
theorem ranksAbove_trans {a b c : Entry} (h : ranksAbove a b = true) (g : ranksAbove b c = true) :
    ranksAbove a c = true := by
  rw [ranksAbove_iff] at h g ⊢
  omega

/-- Two entries neither of which ranks above the other agree in all four ordering fields. -/
theorem ranksAbove_total {a b : Entry} (h : ranksAbove a b = false) (g : ranksAbove b a = false) :
    a.score = b.score ∧ a.key.pos = b.key.pos ∧ a.key.channel = b.key.channel ∧ a.seq = b.seq := by
  rw [← Bool.not_eq_true, ranksAbove_iff] at h g
  refine ⟨by omega, Fin.ext (by omega), BitVec.eq_of_toNat_eq (by omega), by omega⟩

/-! ### `tableOk` as a proposition -/

/-- The condition that `tableOk` decides. -/
structure TableOk (t : List Entry) : Prop where
  length : t.length ≤ 24
  keys : t.Pairwise (fun a b => b.key ≠ a.key)
  rank : t.Pairwise (fun a b => ranksAbove b a = false)
  range : ∀ e ∈ t, entryInRange e = true

theorem distinctKeys_iff (t : List Entry) : distinctKeys t = true ↔ t.Pairwise (fun a b => b.key ≠ a.key) := by
  induction t with
  | nil => simp [distinctKeys]
  | cons e rest ih => simp [distinctKeys, List.pairwise_cons, ih]

theorem inRankOrder_iff (t : List Entry) : inRankOrder t = true ↔ t.Pairwise (fun a b => ranksAbove b a = false) := by
  induction t with
  | nil => simp [inRankOrder]
  | cons e rest ih => simp [inRankOrder, List.pairwise_cons, ih]

theorem tableOk_iff (t : List Entry) : tableOk t = true ↔ TableOk t := by
  simp only [tableOk, Bool.and_eq_true, decide_eq_true_eq, distinctKeys_iff, inRankOrder_iff, List.all_eq_true]
  exact ⟨fun h => ⟨h.1.1.1, h.1.1.2, h.1.2, h.2⟩, fun h => ⟨⟨⟨h.length, h.keys⟩, h.rank⟩, h.range⟩⟩

/-! ### Placing and taking out -/

theorem mem_placeEntry {e x : Entry} {t : List Entry} : x ∈ placeEntry e t ↔ x = e ∨ x ∈ t := by
  induction t with
  | nil => simp [placeEntry]
  | cons y rest ih =>
    unfold placeEntry
    split
    · simp
    · simp only [List.mem_cons, ih]
      tauto

theorem length_placeEntry (e : Entry) (t : List Entry) : (placeEntry e t).length = t.length + 1 := by
  induction t with
  | nil => rfl
  | cons y rest ih =>
    unfold placeEntry
    split <;> simp [ih]

theorem mem_dropKey {k : Key} {x : Entry} {t : List Entry} : x ∈ dropKey k t ↔ x ∈ t ∧ x.key ≠ k := by
  simp [dropKey]

theorem length_dropKey_lt {k : Key} {x : Entry} {t : List Entry} (h : x ∈ t) (hk : x.key = k) :
    (dropKey k t).length < t.length :=
  List.length_filter_lt_length_iff_exists.mpr ⟨x, h, by simp [hk]⟩

theorem TableOk.filter {t : List Entry} (h : TableOk t) (q : Entry → Bool) : TableOk (t.filter q) where
  length := (List.length_filter_le _ _).trans h.length
  keys := h.keys.filter _
  rank := h.rank.filter _
  range e he := h.range e (List.mem_of_mem_filter he)

theorem rank_placeEntry {e : Entry} {t : List Entry} (h : t.Pairwise (fun a b => ranksAbove b a = false)) :
    (placeEntry e t).Pairwise (fun a b => ranksAbove b a = false) := by
  induction t with
  | nil => simp [placeEntry]
  | cons y rest ih =>
    rw [List.pairwise_cons] at h
    unfold placeEntry
    split
    · rename_i hy
      refine List.pairwise_cons.mpr ⟨fun x hx => ?_, List.pairwise_cons.mpr h⟩
      rcases List.mem_cons.mp hx with rfl | hx
      · exact ranksAbove_asymm hy
      · by_contra c
        have := ranksAbove_trans (by simpa using c) hy
        rw [h.1 x hx] at this
        cases this
    · rename_i hy
      refine List.pairwise_cons.mpr ⟨fun x hx => ?_, ih h.2⟩
      rcases mem_placeEntry.mp hx with rfl | hx
      · simpa using hy
      · exact h.1 x hx

theorem keys_placeEntry {e : Entry} {t : List Entry} (h : t.Pairwise (fun a b => b.key ≠ a.key))
    (he : ∀ x ∈ t, x.key ≠ e.key) : (placeEntry e t).Pairwise (fun a b => b.key ≠ a.key) := by
  induction t with
  | nil => simp [placeEntry]
  | cons y rest ih =>
    unfold placeEntry
    split
    · exact List.pairwise_cons.mpr ⟨he, h⟩
    · rw [List.pairwise_cons] at h
      refine List.pairwise_cons.mpr ⟨fun x hx => ?_, ih h.2 fun x hx => he x (List.mem_cons_of_mem _ hx)⟩
      rcases mem_placeEntry.mp hx with rfl | hx
      · exact (he y List.mem_cons_self).symm
      · exact h.1 x hx

/-- Placing an entry of a new key, in its ranges, where there is room. -/
theorem TableOk.placeEntry {t : List Entry} {e : Entry} (h : TableOk t) (hk : ∀ x ∈ t, x.key ≠ e.key)
    (hl : t.length < 24) (hr : entryInRange e = true) : TableOk (placeEntry e t) where
  length := by rw [length_placeEntry]; omega
  keys := keys_placeEntry h.keys hk
  rank := rank_placeEntry h.rank
  range x hx := by
    rcases mem_placeEntry.mp hx with rfl | hx
    · exact hr
    · exact h.range x hx

theorem findEntry_some {t : List Entry} {k : Key} {e : Entry} (h : findEntry t k = some e) : e ∈ t ∧ e.key = k :=
  ⟨List.mem_of_find?_eq_some h, by simpa using List.find?_some h⟩

theorem findEntry_none {t : List Entry} {k : Key} (h : findEntry t k = none) : ∀ x ∈ t, x.key ≠ k := by
  simpa [findEntry, List.find?_eq_none] using h

theorem rescored_range {plan : Plan} {e : Entry} (h : entryInRange e = true) : entryInRange (rescored plan e) = true := h

/-- Re-placing an entry of the table under a new value with the same key. -/
theorem TableOk.replaceEntry {t : List Entry} {e e' : Entry} (h : TableOk t) (he : e ∈ t) (hk : e'.key = e.key)
    (hr : entryInRange e' = true) : TableOk (replaceEntry e' t) := by
  refine TableOk.placeEntry (h.filter _) (fun x hx => (mem_dropKey.mp hx).2) ?_ hr
  exact lt_of_lt_of_le (length_dropKey_lt he hk.symm) h.length

/-- Rescoring the entry of a key after a change that keeps its key and its ranges. -/
theorem TableOk.rescoreKey {t : List Entry} {plan : Plan} {k : Key} {f : Entry → Entry} (h : TableOk t)
    (hf : ∀ e, (f e).key = e.key) (hr : ∀ e, entryInRange e = true → entryInRange (f e) = true) :
    TableOk (rescoreKey plan k f t) := by
  unfold Machine.rescoreKey
  split
  · rename_i e he
    have hm := findEntry_some he
    exact h.replaceEntry hm.1 (hf e) (rescored_range (hr e (h.range e hm.1)))
  · exact h

theorem TableOk.rescoreKeys {plan : Plan} {f : Entry → Entry} (hf : ∀ e, (f e).key = e.key)
    (hr : ∀ e, entryInRange e = true → entryInRange (f e) = true) {ks : List Key} {t : List Entry} (h : TableOk t) :
    TableOk (rescoreKeys plan f ks t) := by
  induction ks generalizing t with
  | nil => exact h
  | cons k rest ih => exact ih (h.rescoreKey hf hr)

/-- A change of every entry that keeps what the order and the keys look at. -/
theorem TableOk.map {t : List Entry} {g : Entry → Entry} (h : TableOk t) (hk : ∀ e, (g e).key = e.key)
    (hs : ∀ e, (g e).score = e.score) (hq : ∀ e, (g e).seq = e.seq)
    (hr : ∀ e, entryInRange e = true → entryInRange (g e) = true) : TableOk (t.map g) where
  length := by simpa using h.length
  keys := List.pairwise_map.mpr (h.keys.imp fun {a b} x => by rw [hk, hk]; exact x)
  rank := List.pairwise_map.mpr (h.rank.imp fun {a b} x => by
    simp only [ranksAbove, hk, hs, hq] at x ⊢
    exact x)
  range e he := by
    obtain ⟨x, hx, rfl⟩ := List.mem_map.mp he
    exact hr x (h.range x hx)

theorem TableOk.updateInPlace {t : List Entry} {k : Key} {f : Entry → Entry} (h : TableOk t)
    (hk : ∀ e, (f e).key = e.key) (hs : ∀ e, (f e).score = e.score) (hq : ∀ e, (f e).seq = e.seq)
    (hr : ∀ e, entryInRange e = true → entryInRange (f e) = true) : TableOk (updateInPlace k f t) := by
  refine h.map (fun e => ?_) (fun e => ?_) (fun e => ?_) (fun e he => ?_)
  · split <;> simp [hk]
  · split <;> simp [hs]
  · split <;> simp [hq]
  · split
    · exact hr e he
    · exact he

/-- Placing a list of entries of new and distinct keys. -/
theorem TableOk.placeAll {es t : List Entry} (h : TableOk t) (hk : es.Pairwise (fun a b => b.key ≠ a.key))
    (hd : ∀ e ∈ es, ∀ x ∈ t, x.key ≠ e.key) (hl : es.length + t.length ≤ 24)
    (hr : ∀ e ∈ es, entryInRange e = true) : TableOk (placeAll es t) := by
  induction es generalizing t with
  | nil => exact h
  | cons e rest ih =>
    rw [List.pairwise_cons] at hk
    simp only [List.length_cons] at hl
    refine ih (h.placeEntry (hd e List.mem_cons_self) (by omega) (hr e List.mem_cons_self)) hk.2 (fun y hy x hx => ?_)
      (by rw [length_placeEntry]; omega) (fun y hy => hr y (List.mem_cons_of_mem _ hy))
    rcases mem_placeEntry.mp hx with rfl | hx
    · exact (hk.1 y hy).symm
    · exact hd y (List.mem_cons_of_mem _ hy) x hx

/-! ### The events of CTU -/

theorem clampLevel_range (l : Int) : -130 ≤ clampLevel l ∧ clampLevel l ≤ -40 := by
  unfold clampLevel
  omega

theorem clampQuality_range (q : Option Nat) : (clampQuality q).getD 0 ≤ 15 := by
  cases q <;> simp [clampQuality]

theorem entryInRange_iff (e : Entry) : entryInRange e = true ↔
    -130 ≤ e.level ∧ e.level ≤ -40 ∧ e.quality.getD 0 ≤ 15 ∧ e.failures ≤ 7 ∧ e.age ≤ 65535 ∧ e.key.tag ≠ 0 := by
  simp only [entryInRange, Bool.and_eq_true, decide_eq_true_eq, bne_iff_ne]
  tauto

theorem TableOk.createEntry {plan : Plan} {k : Key} {b : Band} {r : CellReport} {c : Ctu} (h : TableOk c.table)
    (hk : ∀ x ∈ c.table, x.key ≠ k) (hl : c.table.length < 24) (ht : k.tag ≠ 0) :
    TableOk (createEntry plan k b r c).table := by
  refine TableOk.placeEntry h hk hl ?_
  rw [entryInRange_iff]
  have := clampLevel_range r.level
  have := clampQuality_range r.quality
  simp only [newEntry, rescored]
  exact ⟨by omega, by omega, by omega, by omega, by omega, ht⟩

theorem takeReport_tableOk {plan : Plan} {p : Pos} {r : CellReport} {c : Ctu} (h : tableOk c.table = true) :
    tableOk (takeReport plan p r c).table = true := by
  rw [tableOk_iff] at h ⊢
  unfold takeReport
  split
  · exact h
  · split
    · exact h
    · rename_i ht
      dsimp only
      split
      · refine TableOk.rescoreKey h (fun _ => rfl) (fun e he => ?_)
        rw [entryInRange_iff] at he ⊢
        exact ⟨(clampLevel_range _).1, (clampLevel_range _).2, clampQuality_range _, he.2.2.2.1, Nat.zero_le _,
          he.2.2.2.2.2⟩
      · rename_i hf
        have hk := findEntry_none hf
        split
        · rename_i hl
          exact h.createEntry hk hl ht
        · split
          · exact h
          · rename_i low hlow
            split
            · have hm : low ∈ c.table := by simpa using List.mem_of_find?_eq_some hlow
              refine TableOk.createEntry (c := { c with table := dropKey low.key c.table }) (h.filter _) ?_ ?_ ht
              · exact fun x hx => hk x (mem_dropKey.mp hx).1
              · exact lt_of_lt_of_le (length_dropKey_lt hm rfl) h.length
            · exact h

theorem takeLevel_tableOk {plan : Plan} {p : Pos} {level : Int} {q : Option Nat} {c : Ctu}
    (h : tableOk c.table = true) : tableOk (takeLevel plan p level q c).table = true := by
  rw [tableOk_iff] at h ⊢
  unfold takeLevel
  split
  · exact h
  · refine TableOk.rescoreKey h (fun _ => rfl) (fun e he => ?_)
    rw [entryInRange_iff] at he ⊢
    refine ⟨(clampLevel_range _).1, (clampLevel_range _).2, ?_, he.2.2.2.1, Nat.zero_le _, he.2.2.2.2.2⟩
    cases q with
    | none => exact he.2.2.1
    | some x => simp

theorem recordFailure_range {plan : Plan} {l : LastOutcome} {e : Entry} (h : entryInRange e = true) :
    entryInRange (recordFailure plan l e) = true := by
  rw [entryInRange_iff] at h ⊢
  exact ⟨by simp only [recordFailure]; omega, by simp only [recordFailure]; omega, by simp only [recordFailure]; omega,
    by simp only [recordFailure]; omega, by simp only [recordFailure]; omega, h.2.2.2.2.2⟩

theorem outcomeEffect_range {plan : Plan} {o : Outcome} {e : Entry} (h : entryInRange e = true) :
    entryInRange (outcomeEffect plan o e) = true := by
  cases o
  case refused => exact recordFailure_range (e := { e with inAttempt := false }) h
  case timeout => exact recordFailure_range (e := { e with inAttempt := false }) h
  case connected =>
    rw [entryInRange_iff] at h ⊢
    exact ⟨h.1, h.2.1, h.2.2.1, Nat.zero_le _, h.2.2.2.2.1, h.2.2.2.2.2⟩
  all_goals exact h

theorem outcomeEffect_key {plan : Plan} {o : Outcome} {e : Entry} : (outcomeEffect plan o e).key = e.key := by
  cases o <;> rfl

theorem outcomeTable_tableOk {plan : Plan} {o : Outcome} {k : Key} {t : List Entry} (h : tableOk t = true) :
    tableOk (outcomeTable plan o k t) = true := by
  rw [tableOk_iff] at h ⊢
  unfold outcomeTable
  cases o
  case refused => exact h.rescoreKey (fun _ => outcomeEffect_key) (fun _ => outcomeEffect_range)
  case timeout => exact h.rescoreKey (fun _ => outcomeEffect_key) (fun _ => outcomeEffect_range)
  case connected => exact h.rescoreKey (fun _ => outcomeEffect_key) (fun _ => outcomeEffect_range)
  all_goals exact h.updateInPlace (fun _ => rfl) (fun _ => rfl) (fun _ => rfl) (fun _ x => x)

theorem removeIfLost_tableOk {modules : PerPos Module} {k : Key} {t : List Entry} (h : tableOk t = true) :
    tableOk (removeIfLost modules k t) = true := by
  rw [tableOk_iff] at h ⊢
  unfold removeIfLost
  split
  · exact h.filter _
  · exact h

theorem dropServing_tableOk {plan : Plan} {k : Key} {t : List Entry} (h : tableOk t = true) :
    tableOk (rescoreKey plan k (dropServing plan) t) = true := by
  rw [tableOk_iff] at h ⊢
  exact h.rescoreKey (fun _ => rfl) (fun e he => recordFailure_range (e := { e with serving := false }) he)

theorem benchTick_key (e : Entry) : (benchTick e).key = e.key := by
  unfold benchTick
  split
  · rfl
  · split <;> rfl

theorem benchTick_score (e : Entry) : (benchTick e).score = e.score := by
  unfold benchTick
  split
  · rfl
  · split <;> rfl

theorem benchTick_seq (e : Entry) : (benchTick e).seq = e.seq := by
  unfold benchTick
  split
  · rfl
  · split <;> rfl

theorem benchTick_range {e : Entry} (h : entryInRange e = true) : entryInRange (benchTick e) = true := by
  unfold benchTick
  split
  · exact h
  · split
    · rw [entryInRange_iff] at h ⊢
      exact ⟨h.1, h.2.1, h.2.2.1, (by decide : 4 ≤ 7), h.2.2.2.2.1, h.2.2.2.2.2⟩
    · exact h

theorem ageTick_tableOk {plan : Plan} {t : List Entry} (h : tableOk t = true) : tableOk (ageTick plan t) = true := by
  rw [tableOk_iff] at h ⊢
  have h1 : TableOk (t.map ageEntry) := by
    refine h.map (fun _ => rfl) (fun _ => rfl) (fun _ => rfl) (fun e he => ?_)
    rw [entryInRange_iff] at he ⊢
    exact ⟨he.1, he.2.1, he.2.2.1, he.2.2.2.1, by simp only [ageEntry]; omega, he.2.2.2.2.2⟩
  have h2 : TableOk (ageStep2 plan t (t.map ageEntry)) := TableOk.rescoreKeys (fun _ => rfl) (fun _ x => x) h1
  have h3 : TableOk (ageStep3 plan (ageStep2 plan t (t.map ageEntry))) := by
    refine TableOk.rescoreKeys (fun _ => rfl) (fun _ x => x) (h2.map benchTick_key benchTick_score benchTick_seq ?_)
    exact fun e => benchTick_range
  exact h3.filter _

theorem replanTable_tableOk {plan : Plan} {t : List Entry} (h : tableOk t = true) :
    tableOk (replanTable plan t) = true := by
  rw [tableOk_iff] at h ⊢
  refine TableOk.placeAll ⟨by simp, by simp, by simp, by simp⟩ (List.pairwise_map.mpr h.keys) (by simp) ?_ ?_
  · simpa using h.length
  · intro e he
    obtain ⟨x, hx, rfl⟩ := List.mem_map.mp he
    exact rescored_range (h.range x hx)

theorem updateFlags_tableOk {k : Key} {f : Entry → Entry} {t : List Entry} (h : tableOk t = true)
    (hk : ∀ e, (f e).key = e.key) (hs : ∀ e, (f e).score = e.score) (hq : ∀ e, (f e).seq = e.seq)
    (hr : ∀ e, entryInRange e = true → entryInRange (f e) = true) : tableOk (updateInPlace k f t) = true := by
  rw [tableOk_iff] at h ⊢
  exact h.updateInPlace hk hs hq hr

theorem filter_tableOk {t : List Entry} (h : tableOk t = true) (q : Entry → Bool) : tableOk (t.filter q) = true := by
  rw [tableOk_iff] at h ⊢
  exact h.filter q

/-! ### The other fields' ranges, under a plan in range -/

/-- The bench time and the insertion sequence of an entry are in range. -/
def RestBounded (e : Entry) : Prop := 1 ≤ e.bench.getD 1 ∧ e.bench.getD 1 ≤ 600 ∧ 1 ≤ e.seq ∧ e.seq ≤ 4294967295

theorem entryBounded_iff (e : Entry) : entryBounded e = true ↔ e.score ≤ 600 ∧ RestBounded e := by
  simp only [entryBounded, RestBounded, Bool.and_eq_true, decide_eq_true_eq]
  tauto

theorem tableBounded_iff (t : List Entry) : tableBounded t = true ↔ ∀ e ∈ t, entryBounded e = true := by
  simp [tableBounded]

theorem biasFrom_le (tag : BitVec 24) (i : Nat) (l : List (BitVec 24)) : biasFrom tag i l ≤ 12 := by
  induction l generalizing i with
  | nil => simp [biasFrom]
  | cons x rest ih =>
    unfold biasFrom
    split
    · unfold biasAt
      split <;> omega
    · exact ih _

theorem inRange_iff (lo hi x : Nat) : inRange lo hi x = true ↔ lo ≤ x ∧ x ≤ hi := by
  simp [inRange]

/-- A score never exceeds 600 (R22): the terms are at most 360, 120, 60 and 60. -/
theorem scoreOf_le {plan : Plan} {e : Entry} (hp : planInRange plan = true) (he : entryInRange e = true) :
    scoreOf plan e ≤ 600 := by
  rw [entryInRange_iff] at he
  have hw : bandWeight plan e.band ≤ 15 := by
    simp only [planInRange, huntInRange, Bool.and_eq_true, inRange_iff] at hp
    unfold bandWeight
    split <;> omega
  have hb := biasFrom_le e.key.tag 0 plan.lists.preferred
  have hq : qualityTerm e.quality ≤ 120 := by
    have := he.2.2.1
    unfold qualityTerm
    split
    · simp_all only [Option.getD_some]
      omega
    · omega
  simp only [scoreOf, rawScore, levelTerm, bandTerm, preferenceTerm, failureTerm, ageTerm]
  omega

theorem rescored_bounded {plan : Plan} {e : Entry} (hp : planInRange plan = true) (he : entryInRange e = true)
    (hr : RestBounded e) : entryBounded (rescored plan e) = true := by
  rw [entryBounded_iff]
  exact ⟨scoreOf_le hp he, hr⟩

theorem placeEntry_bounded {e : Entry} {t : List Entry} (h : tableBounded t = true) (he : entryBounded e = true) :
    tableBounded (placeEntry e t) = true := by
  rw [tableBounded_iff] at h ⊢
  intro x hx
  rcases mem_placeEntry.mp hx with rfl | hx
  · exact he
  · exact h x hx

theorem filter_bounded {t : List Entry} (h : tableBounded t = true) (q : Entry → Bool) :
    tableBounded (t.filter q) = true := by
  rw [tableBounded_iff] at h ⊢
  exact fun x hx => h x (List.mem_of_mem_filter hx)

theorem map_bounded {t : List Entry} {g : Entry → Entry} (h : tableBounded t = true)
    (hg : ∀ e, entryBounded e = true → entryBounded (g e) = true) : tableBounded (t.map g) = true := by
  rw [tableBounded_iff] at h ⊢
  intro x hx
  obtain ⟨y, hy, rfl⟩ := List.mem_map.mp hx
  exact hg y (h y hy)

theorem updateFlags_bounded {k : Key} {f : Entry → Entry} {t : List Entry} (h : tableBounded t = true)
    (hf : ∀ e, entryBounded e = true → entryBounded (f e) = true) : tableBounded (updateInPlace k f t) = true :=
  map_bounded h fun e he => by
    split
    · exact hf e he
    · exact he

theorem rescoreKey_bounded {plan : Plan} {k : Key} {f : Entry → Entry} {t : List Entry} (hp : planInRange plan = true)
    (ht : TableOk t) (h : tableBounded t = true) (hr : ∀ e, entryInRange e = true → entryInRange (f e) = true)
    (hf : ∀ e, RestBounded e → RestBounded (f e)) : tableBounded (rescoreKey plan k f t) = true := by
  unfold rescoreKey
  split
  · rename_i e he
    have hm := (findEntry_some he).1
    refine placeEntry_bounded (filter_bounded h _) (rescored_bounded hp (hr e (ht.range e hm)) (hf e ?_))
    exact ((entryBounded_iff e).mp ((tableBounded_iff t).mp h e hm)).2
  · exact h

theorem rescoreKeys_bounded {plan : Plan} (hp : planInRange plan = true) {ks : List Key} {t : List Entry}
    (ht : TableOk t) (h : tableBounded t = true) : tableBounded (rescoreKeys plan id ks t) = true := by
  induction ks generalizing t with
  | nil => exact h
  | cons k rest ih =>
    exact ih (ht.rescoreKey (fun _ => rfl) fun _ x => x) (rescoreKey_bounded hp ht h (fun _ x => x) fun _ x => x)

theorem placeAll_bounded {es t : List Entry} (h : tableBounded t = true) (he : ∀ e ∈ es, entryBounded e = true) :
    tableBounded (placeAll es t) = true := by
  induction es generalizing t with
  | nil => exact h
  | cons e rest ih =>
    exact ih (placeEntry_bounded h (he e List.mem_cons_self)) fun x hx => he x (List.mem_cons_of_mem _ hx)

theorem createEntry_bounded {plan : Plan} {k : Key} {b : Band} {r : CellReport} {c : Ctu}
    (hp : planInRange plan = true) (h : tableBounded c.table = true) (ht : k.tag ≠ 0) :
    tableBounded (createEntry plan k b r c).table = true := by
  refine placeEntry_bounded h (rescored_bounded hp ?_ ?_)
  · rw [entryInRange_iff]
    have hl := clampLevel_range r.level
    exact ⟨hl.1, hl.2, clampQuality_range r.quality, Nat.zero_le _, Nat.zero_le _, ht⟩
  · simp only [RestBounded, nextSeq, Config.topSequence, Option.getD_none]
    omega

theorem takeReport_bounded {plan : Plan} {p : Pos} {r : CellReport} {c : Ctu} (hp : planInRange plan = true)
    (ht : tableOk c.table = true) (h : tableBounded c.table = true) :
    tableBounded (takeReport plan p r c).table = true := by
  rw [tableOk_iff] at ht
  unfold takeReport
  split
  · exact h
  · split
    · exact h
    · rename_i hn
      dsimp only
      split
      · refine rescoreKey_bounded hp ht h (fun e he => ?_) fun _ x => x
        rw [entryInRange_iff] at he ⊢
        exact ⟨(clampLevel_range _).1, (clampLevel_range _).2, clampQuality_range _, he.2.2.2.1, Nat.zero_le _,
          he.2.2.2.2.2⟩
      · split
        · exact createEntry_bounded hp h hn
        · split
          · exact h
          · split
            · exact createEntry_bounded hp (filter_bounded h _) hn
            · exact h

theorem takeLevel_bounded {plan : Plan} {p : Pos} {level : Int} {q : Option Nat} {c : Ctu}
    (hp : planInRange plan = true) (ht : tableOk c.table = true) (h : tableBounded c.table = true) :
    tableBounded (takeLevel plan p level q c).table = true := by
  rw [tableOk_iff] at ht
  unfold takeLevel
  split
  · exact h
  · refine rescoreKey_bounded hp ht h (fun e he => ?_) fun _ x => x
    rw [entryInRange_iff] at he ⊢
    refine ⟨(clampLevel_range _).1, (clampLevel_range _).2, ?_, he.2.2.2.1, Nat.zero_le _, he.2.2.2.2.2⟩
    cases q with
    | none => exact he.2.2.1
    | some x => simp

theorem recordFailure_rest {plan : Plan} {l : LastOutcome} {e : Entry} (hp : planInRange plan = true)
    (h : RestBounded e) : RestBounded (recordFailure plan l e) := by
  simp only [planInRange, huntInRange, Bool.and_eq_true, inRange_iff] at hp
  refine ⟨?_, ?_, h.2.2⟩ <;> simp only [recordFailure] <;> split
  · simp only [Option.getD_some]
    omega
  · exact h.1
  · simp only [Option.getD_some]
    omega
  · exact h.2.1

theorem outcomeEffect_rest {plan : Plan} {o : Outcome} {e : Entry} (hp : planInRange plan = true)
    (h : RestBounded e) : RestBounded (outcomeEffect plan o e) := by
  cases o
  case refused => exact recordFailure_rest (e := { e with inAttempt := false }) hp h
  case timeout => exact recordFailure_rest (e := { e with inAttempt := false }) hp h
  case connected => exact ⟨Nat.le_refl _, by simp [outcomeEffect], h.2.2⟩
  all_goals exact h

theorem outcomeTable_bounded {plan : Plan} {o : Outcome} {k : Key} {t : List Entry} (hp : planInRange plan = true)
    (ht : tableOk t = true) (h : tableBounded t = true) : tableBounded (outcomeTable plan o k t) = true := by
  rw [tableOk_iff] at ht
  unfold outcomeTable
  cases o
  case refused => exact rescoreKey_bounded hp ht h (fun _ => outcomeEffect_range) fun _ => outcomeEffect_rest hp
  case timeout => exact rescoreKey_bounded hp ht h (fun _ => outcomeEffect_range) fun _ => outcomeEffect_rest hp
  case connected => exact rescoreKey_bounded hp ht h (fun _ => outcomeEffect_range) fun _ => outcomeEffect_rest hp
  all_goals exact updateFlags_bounded h fun _ x => x

theorem removeIfLost_bounded {modules : PerPos Module} {k : Key} {t : List Entry} (h : tableBounded t = true) :
    tableBounded (removeIfLost modules k t) = true := by
  unfold removeIfLost
  split
  · exact filter_bounded h _
  · exact h

theorem dropServing_bounded {plan : Plan} {k : Key} {t : List Entry} (hp : planInRange plan = true)
    (ht : tableOk t = true) (h : tableBounded t = true) :
    tableBounded (rescoreKey plan k (dropServing plan) t) = true := by
  rw [tableOk_iff] at ht
  exact rescoreKey_bounded hp ht h (fun e he => recordFailure_range (e := { e with serving := false }) he)
    fun e he => recordFailure_rest (e := { e with serving := false }) hp he

theorem benchTick_bounded {e : Entry} (h : entryBounded e = true) : entryBounded (benchTick e) = true := by
  unfold benchTick
  split
  · exact h
  · rename_i n hn
    rw [entryBounded_iff, RestBounded, hn, Option.getD_some] at h
    split
    · rw [entryBounded_iff]
      exact ⟨h.1, Nat.le_refl _, by simp, h.2.2.2⟩
    · rw [entryBounded_iff]
      refine ⟨h.1, ?_, ?_, h.2.2.2⟩ <;> simp only [Option.getD_some] <;> omega

theorem ageTick_bounded {plan : Plan} {t : List Entry} (hp : planInRange plan = true) (ht : tableOk t = true)
    (h : tableBounded t = true) : tableBounded (ageTick plan t) = true := by
  rw [tableOk_iff] at ht
  have h1 : TableOk (t.map ageEntry) := by
    refine ht.map (fun _ => rfl) (fun _ => rfl) (fun _ => rfl) (fun e he => ?_)
    rw [entryInRange_iff] at he ⊢
    exact ⟨he.1, he.2.1, he.2.2.1, he.2.2.2.1, by simp only [ageEntry]; omega, he.2.2.2.2.2⟩
  have h2 : TableOk (ageStep2 plan t (t.map ageEntry)) := TableOk.rescoreKeys (fun _ => rfl) (fun _ x => x) h1
  have b2 : tableBounded (ageStep2 plan t (t.map ageEntry)) = true :=
    rescoreKeys_bounded hp h1 (map_bounded h fun _ x => x)
  refine filter_bounded (rescoreKeys_bounded hp ?_ (map_bounded b2 fun _ => benchTick_bounded)) _
  exact h2.map benchTick_key benchTick_score benchTick_seq fun e => benchTick_range

theorem replanTable_bounded {plan : Plan} {t : List Entry} (hp : planInRange plan = true) (ht : tableOk t = true)
    (h : tableBounded t = true) : tableBounded (replanTable plan t) = true := by
  rw [tableOk_iff] at ht
  refine placeAll_bounded rfl fun e he => ?_
  obtain ⟨x, hx, rfl⟩ := List.mem_map.mp he
  exact rescored_bounded hp (ht.range x hx) ((entryBounded_iff x).mp ((tableBounded_iff t).mp h x hx)).2

end Sys2Proof.Machine
end

