-- ==== Sys2Proof/Laws/Queue.lean ====
section
/-! SUPPORT. The request queue and the carrier table within a state: how MLC's queueing and CTU's events evolve it. -/

namespace Sys2Proof.Machine

/-! ### `queueOk` as a proposition -/

theorem distinctPlaces_iff (q : List Request) :
    distinctPlaces q = true ↔ q.Pairwise (fun a b => samePlace a b = false) := by
  induction q with
  | nil => simp [distinctPlaces]
  | cons r rest ih => simp [distinctPlaces, List.pairwise_cons, ih]

theorem queueOk_iff (q : List Request) :
    queueOk q = true ↔ q.length ≤ 12 ∧ q.Pairwise (fun a b => samePlace a b = false) := by
  unfold queueOk
  rw [Bool.and_eq_true, decide_eq_true_eq, distinctPlaces_iff]
  exact Iff.rfl

theorem queueOk_filter {q : List Request} (h : queueOk q = true) (f : Request → Bool) : queueOk (q.filter f) = true := by
  rw [queueOk_iff] at h ⊢
  exact ⟨(List.length_filter_le _ _).trans h.1, h.2.filter _⟩

theorem queueOk_map {q : List Request} (h : queueOk q = true) {f : Request → Request} (hp : ∀ r, (f r).pos = r.pos)
    (hk : ∀ r, (f r).kind = r.kind) : queueOk (q.map f) = true := by
  rw [queueOk_iff] at h ⊢
  refine ⟨by simpa using h.1, List.pairwise_map.mpr (h.2.imp fun {a b} x => ?_)⟩
  simpa [samePlace, hp, hk] using x

theorem queueOk_append {q : List Request} (h : q.Pairwise (fun a b => samePlace a b = false)) {r : Request}
    (hl : q.length < 12) (hf : ∀ x ∈ q, samePlace x r = false) : queueOk (q ++ [r]) = true := by
  rw [queueOk_iff]
  refine ⟨by simp; omega, List.pairwise_append.mpr ⟨h, by simp, fun x hx y hy => ?_⟩⟩
  rw [List.mem_singleton.mp hy]
  exact hf x hx

theorem length_dropNumber_lt {r : Request} {q : List Request} (h : r ∈ q) : (dropNumber r.number q).length < q.length :=
  List.length_filter_lt_length_iff_exists.mpr ⟨r, h, by simp⟩

theorem newestWhere_mem {f : Request → Bool} {q : List Request} {r : Request} (h : newestWhere f q = some r) :
    r ∈ q := by
  induction q generalizing r with
  | nil => simp [newestWhere] at h
  | cons x rest ih =>
    unfold newestWhere at h
    split at h
    · split at h
      · simp_all
      · simp at h
    · rename_i best hb
      split at h
      · simp_all
      · cases h
        exact List.mem_cons_of_mem _ (ih hb)

/-- Whether a request of a kind for a position would contend with none in the queue. -/
def PlaceFree (q : List Request) (p : Pos) (kind : ReqKind) : Prop :=
  ∀ r ∈ q, ∀ owners payload number, samePlace r ⟨owners, p, kind, payload, number⟩ = false

theorem PlaceFree.filter {q : List Request} {p : Pos} {kind : ReqKind} (h : PlaceFree q p kind) (f : Request → Bool) :
    PlaceFree (q.filter f) p kind := fun r hr => h r (List.mem_of_mem_filter hr)

theorem placeFree_call {q : List Request} {p : Pos} {kind : ReqKind} (hk : callOperation kind = true)
    (h : callPlace q p = none) : PlaceFree q p kind := by
  intro r hr _ _ _
  have := List.find?_eq_none.mp h r hr
  cases kind <;> simp_all [samePlace, callOperation]

theorem placeFree_data {q : List Request} {p : Pos} (h : messagePlace q p = none) : PlaceFree q p .data := by
  intro r hr _ _ _
  have := List.find?_eq_none.mp h r hr
  simp_all [samePlace, callOperation]

theorem placeFree_other {q : List Request} {p : Pos} {kind : ReqKind} (hc : callOperation kind = false)
    (hd : kind ≠ .data) (hp : kind ≠ .poll) : PlaceFree q p kind := by
  intro r _ _ _ _
  cases kind <;> simp_all [samePlace, callOperation]

theorem placeFree_poll {q : List Request} {p : Pos} (h : q.any (fun r => r.pos == p && r.kind == .poll) = false) :
    PlaceFree q p .poll := by
  intro r hr _ _ _
  have := List.any_eq_false.mp h r hr
  simp_all [samePlace, callOperation]

theorem samePlace_comm (a b : Request) : samePlace a b = samePlace b a := by
  simp only [samePlace]
  rw [Bool.beq_comm (a := a.pos), Bool.and_comm (callOperation a.kind), Bool.and_comm (a.kind == .data),
    Bool.and_comm (a.kind == .poll)]

/-- In a sound queue, the call place is free once the request that holds it has gone. -/
theorem placeFree_behind {q : List Request} {p : Pos} {kind : ReqKind} {r : Request} (h : queueOk q = true)
    (hr : callPlace q p = some r) (hk : callOperation kind = true) : PlaceFree (dropNumber r.number q) p kind := by
  intro x hx owners payload number
  have hx' : x ∈ q ∧ x.number ≠ r.number := by simpa [dropNumber] using hx
  have hm : r ∈ q := List.mem_of_find?_eq_some hr
  have hp : r.pos = p ∧ callOperation r.kind = true := by simpa using List.find?_some hr
  have symm : Std.Symm (fun a b : Request => samePlace a b = false) :=
    ⟨fun a b (y : samePlace a b = false) => by rw [samePlace_comm]; exact y⟩
  have hs := (((queueOk_iff q).mp h).2).forall hx'.1 hm (fun e => hx'.2 (by rw [e]))
  by_contra c
  cases kind <;> simp_all [samePlace, callOperation]

/-! ### Results (R140) -/

theorem mlcOwnResult_evolves {s0 s : State} {p : Pos} {kind : ReqKind} {r : LinkResult} (h : Evolves s0 s) :
    Evolves s0 (mlcOwnResult p kind r s) := by
  cases kind <;> simp only [mlcOwnResult] <;> (try split) <;> first | exact h | exact h.withModule

theorem deliverTo_evolves {s0 s : State} {req : Request} {r : LinkResult} {o : Requester} (h : Evolves s0 s) :
    Evolves s0 (deliverTo req r o s) := by
  cases o <;> first | exact h | exact post_evolves h | exact mlcOwnResult_evolves h

theorem deliverAll_evolves {s0 s : State} {req : Request} {r : LinkResult} {os : List Requester} (h : Evolves s0 s) :
    Evolves s0 (deliverAll req r os s) := by
  induction os generalizing s with
  | nil => exact h
  | cons o rest ih => exact ih (deliverTo_evolves h)

theorem deliver_evolves {s0 s : State} {req : Request} {r : LinkResult} (h : Evolves s0 s) :
    Evolves s0 (deliver req r s) := deliverAll_evolves h

theorem mlcOwnResult_queue (p : Pos) (kind : ReqKind) (r : LinkResult) (s : State) :
    (mlcOwnResult p kind r s).mlc.queue = s.mlc.queue := by
  cases kind <;> simp only [mlcOwnResult] <;> (try split) <;> rfl

theorem deliverAll_queue (req : Request) (r : LinkResult) (os : List Requester) (s : State) :
    (deliverAll req r os s).mlc.queue = s.mlc.queue := by
  induction os generalizing s with
  | nil => rfl
  | cons o rest ih =>
    refine (ih _).trans ?_
    cases o <;> first | rfl | exact mlcOwnResult_queue _ _ _ _

/-- Handing out a result leaves the queue as it is. -/
@[simp] theorem deliver_queue (req : Request) (r : LinkResult) (s : State) :
    (deliver req r s).mlc.queue = s.mlc.queue := deliverAll_queue _ _ _ _

/-! ### Queueing (R136 to R139) -/

theorem displace_evolves {s0 s : State} {r : Request} (h : Evolves s0 s) : Evolves s0 (displace r s) :=
  deliver_evolves (h.withQueue fun a => queueOk_filter a _)

theorem displace_queue (r : Request) (s : State) : (displace r s).mlc.queue = dropNumber r.number s.mlc.queue :=
  deliver_queue _ _ _

/-- Appending a request whose place is free, to a state whose queue has become no longer than a sound one with room. -/
theorem append_evolves {s0 s : State} {o : Requester} {p : Pos} {kind : ReqKind} {payload : List Byte}
    (h : Evolves s0 s) (hl : queueOk s.mlc.queue = true → queueOk s0.mlc.queue = true → s.mlc.queue.length < 12)
    (hf : queueOk s0.mlc.queue = true → PlaceFree s.mlc.queue p kind) : Evolves s0 (append o p kind payload s).2 :=
  { h with
    tx := h.tx
    queue := fun a => by
      have hq := h.queue a
      exact queueOk_append ((queueOk_iff _).mp hq).2 (hl hq a) fun r hr => hf a r hr _ _ _ }

theorem admit_evolves {s0 s : State} {o : Requester} {p : Pos} {kind : ReqKind} {payload : List Byte}
    (h : Evolves s0 s) (hf : queueOk s0.mlc.queue = true → PlaceFree s.mlc.queue p kind) : Evolves s0 (queueWithRoom o p kind payload s).2 := by
  have room : ∀ r ∈ s.mlc.queue, Evolves s0 (append o p kind payload (displace r s)).2 := fun r hr => by
    refine append_evolves (displace_evolves h) (fun _ a => ?_) ?_
    · rw [displace_queue]
      exact lt_of_lt_of_le (length_dropNumber_lt hr) ((queueOk_iff _).mp (h.queue a)).1
    · rw [displace_queue]
      exact fun a => (hf a).filter _
  unfold queueWithRoom
  split
  · rename_i hl
    exact append_evolves h (fun _ _ => hl) hf
  · split
    · exact h
    · split
      · rename_i r hr
        exact room r (newestWhere_mem hr)
      · split
        · exact h
        · split
          · rename_i r hr
            exact room r (newestWhere_mem hr)
          · exact h

theorem joinRelease_queueOk {o : Requester} {n : Nat} {q : List Request} (h : queueOk q = true) :
    queueOk (joinRelease o n q) = true := by
  refine queueOk_map h (fun r => ?_) (fun r => ?_)
  all_goals split <;> rfl

/-- A request of any kind but POLL is taken. -/
theorem enqueue_evolves {s0 s : State} {o : Requester} {p : Pos} {kind : ReqKind} {payload : List Byte}
    (hk : kind ≠ .poll) (h : Evolves s0 s) : Evolves s0 (enqueue o p kind payload s).2 := by
  unfold enqueue
  split
  · rename_i hc
    split
    · rename_i hp
      exact admit_evolves h fun _ => placeFree_call hc hp
    · rename_i r hr
      split
      · exact h.withQueue joinRelease_queueOk
      · split
        · rename_i hx
          refine admit_evolves (displace_evolves h) fun a => ?_
          rw [displace_queue]
          exact placeFree_behind (h.queue a) hr hc
        · exact h
  · rename_i hc
    split
    · rename_i hd
      subst hd
      split
      · rename_i hm
        exact admit_evolves h fun _ => placeFree_data hm
      · exact h
    · rename_i hd
      exact admit_evolves h fun _ => placeFree_other (by simpa using hc) hd hk

end Sys2Proof.Machine
end

