-- ==== Sys2Proof/Laws/Lower.lean ====
section
/-! SUPPORT. What the operations of CTU, BSU and MLC, and PLN's recovery, leave alone: the blocks above them, whose state
they reach only by internal events of the quiet kinds. -/

namespace Sys2Proof.Machine

/-- The internal events that give CAL nothing to act on while it is in IDLE, HUNTING or REESTABLISHING: neither a
connection, nor the end of one, nor anything from the box, nor the end of a TEST hunt. -/
def calm : Msg → Bool
  | .hntEvent _ _ => false
  | .calNoCarrier => false
  | .calWinner _ => false
  | .calEvent _ _ => false
  | .calPress => false
  | .calHookOn => false
  | .calHookOff => false
  | .calAnswerResult _ ok => !ok
  | _ => true

/-- `t` adds quiet internal events to those of `s`. -/
def CalmPosts (s t : State) : Prop := ∃ ms, t.inbox = s.inbox ++ ms ∧ ∀ m ∈ ms, calm m = true

/-- What an operation below the call, the hunt, the watch, the message and the voice switch leaves alone: those, and every
output but LAMP_FAULT. -/
structure Lower (s t : State) : Prop where
  cal : t.cal = s.cal
  hnt : t.hnt = s.hnt
  lmu : t.lmu = s.lmu
  vsw : t.vsw = s.vsw
  wch : t.wch = s.wch
  lamps : ∀ o, o ≠ .lampFault → t.bsu.outs.get o = s.bsu.outs.get o
  posts : CalmPosts s t

/-- What an operation of CTU, BSU or MLC leaves alone: the plan as well. -/
structure LinkStep (s t : State) : Prop extends Lower s t where
  pln : t.pln = s.pln

theorem CalmPosts.refl (s : State) : CalmPosts s s := ⟨[], by simp, by simp⟩

theorem CalmPosts.trans {s t u : State} (h : CalmPosts s t) (g : CalmPosts t u) : CalmPosts s u := by
  obtain ⟨a, ha, ha'⟩ := h
  obtain ⟨b, hb, hb'⟩ := g
  refine ⟨a ++ b, by rw [hb, ha, List.append_assoc], fun m hm => ?_⟩
  rcases List.mem_append.mp hm with hm | hm
  · exact ha' m hm
  · exact hb' m hm

/-- An operation that posts nothing. -/
theorem CalmPosts.same {s t u : State} (h : CalmPosts s t) (g : u.inbox = t.inbox) : CalmPosts s u :=
  h.trans ⟨[], by simp [g], by simp⟩

theorem CalmPosts.add {s t u : State} (h : CalmPosts s t) (ms : List Msg) (g : u.inbox = t.inbox ++ ms)
    (hm : ms.all calm = true) : CalmPosts s u := h.trans ⟨ms, g, by simpa using hm⟩

/-- Events that were all quiet stay all quiet. -/
theorem CalmPosts.all {s t : State} (h : CalmPosts s t) (hs : s.inbox.all calm = true) : t.inbox.all calm = true := by
  obtain ⟨ms, e, hm⟩ := h
  simp only [List.all_eq_true] at hs ⊢
  intro m h'
  rw [e, List.mem_append] at h'
  rcases h' with h' | h'
  · exact hs m h'
  · exact hm m h'

theorem LinkStep.refl (s : State) : LinkStep s s where
  cal := rfl
  hnt := rfl
  lmu := rfl
  vsw := rfl
  wch := rfl
  lamps _ _ := rfl
  posts := CalmPosts.refl s
  pln := rfl

theorem Lower.refl (s : State) : Lower s s := (LinkStep.refl s).toLower

theorem Lower.trans {s t u : State} (h : Lower s t) (g : Lower t u) : Lower s u where
  cal := g.cal.trans h.cal
  hnt := g.hnt.trans h.hnt
  lmu := g.lmu.trans h.lmu
  vsw := g.vsw.trans h.vsw
  wch := g.wch.trans h.wch
  lamps o x := (g.lamps o x).trans (h.lamps o x)
  posts := h.posts.trans g.posts

theorem LinkStep.trans {s t u : State} (h : LinkStep s t) (g : LinkStep t u) : LinkStep s u :=
  { h.toLower.trans g.toLower with pln := g.pln.trans h.pln }

/-! ### Updates of one component -/

theorem LinkStep.withMlc {s0 s : State} (h : LinkStep s0 s) {x : Mlc} : LinkStep s0 (s.withMlc x) := { h with }

theorem LinkStep.withQueue {s0 s : State} (h : LinkStep s0 s) {x : List Request} : LinkStep s0 (s.withQueue x) :=
  { h with }

theorem LinkStep.withModule {s0 s : State} (h : LinkStep s0 s) {p : Pos} {m : Module} :
    LinkStep s0 (s.withModule p m) := { h with }

theorem LinkStep.withCtu {s0 s : State} (h : LinkStep s0 s) {x : Ctu} : LinkStep s0 (s.withCtu x) := { h with }

theorem LinkStep.withSmp {s0 s : State} (h : LinkStep s0 s) {x : Smp} : LinkStep s0 (s.withSmp x) := { h with }

theorem LinkStep.withMem {s0 s : State} (h : LinkStep s0 s) {x : List Host.Cell} : LinkStep s0 (s.withMem x) :=
  { h with }

theorem LinkStep.withOrd {s0 s : State} (h : LinkStep s0 s) {x : Ord} : LinkStep s0 (s.withOrd x) := { h with }

theorem LinkStep.withFlt {s0 s : State} (h : LinkStep s0 s) {x : Flt} : LinkStep s0 (s.withFlt x) := { h with }

theorem Lower.withMlc {s0 s : State} (h : Lower s0 s) {x : Mlc} : Lower s0 (s.withMlc x) := { h with }

theorem Lower.withModule {s0 s : State} (h : Lower s0 s) {p : Pos} {m : Module} : Lower s0 (s.withModule p m) :=
  { h with }

theorem Lower.withCtu {s0 s : State} (h : Lower s0 s) {x : Ctu} : Lower s0 (s.withCtu x) := { h with }

theorem Lower.withPln {s0 s : State} (h : Lower s0 s) {x : Pln} : Lower s0 (s.withPln x) := { h with }

/-! ### The operations of Ops -/

theorem post_link {s0 s : State} {m : Msg} (hm : calm m = true) (h : LinkStep s0 s) : LinkStep s0 (post m s) :=
  { h with posts := h.posts.add [m] rfl (by simp [hm]) }

theorem postAll_link {s0 s : State} {ms : List Msg} (hm : ms.all calm = true) (h : LinkStep s0 s) :
    LinkStep s0 (postAll ms s) := { h with posts := h.posts.add ms rfl hm }

theorem post_lower {s0 s : State} {m : Msg} (hm : calm m = true) (h : Lower s0 s) : Lower s0 (post m s) :=
  h.trans (post_link hm (LinkStep.refl s)).toLower

theorem raise_link {s0 s : State} {c : Cause} (h : LinkStep s0 s) : LinkStep s0 (raise c s) := h.withSmp

theorem publishStatus_link {s0 s : State} (h : LinkStep s0 s) : LinkStep s0 (publishStatus s) := h.withSmp

theorem reportFault_link {s0 s : State} {kind : FaultKind} {pos : Option Pos} {detail : Nat}
    {address : Option (BitVec 12)} (h : LinkStep s0 s) : LinkStep s0 (reportFault kind pos detail address s) := by
  unfold reportFault
  dsimp only
  split
  · exact raise_link h.withFlt
  · exact h.withFlt

theorem complete_link {s0 s : State} {x : Held} {o : OrderOutcome} {d : Word} (h : LinkStep s0 s) :
    LinkStep s0 (complete x o d s) := by
  unfold complete
  split
  · exact raise_link (h.withMem.withOrd)
  · exact h

theorem completeIfHeld_link {s0 s : State} {x : Option Held} {o : OrderOutcome} {d : Word} (h : LinkStep s0 s) :
    LinkStep s0 (completeIfHeld x o d s) := by
  cases x with
  | none => exact h
  | some y => exact complete_link h

end Sys2Proof.Machine
end

