-- ==== Sys2Proof/Laws/Link.lean ====
section
/-! SUPPORT. How the operations of CTU, BSU and MLC evolve a state, one lemma for each, and that each is a `LinkStep`. -/

namespace Sys2Proof.Machine

theorem stateReports_calm {p : Pos} {old new : ModState} : (stateReports p old new).all calm = true := by
  unfold stateReports
  split <;> rfl

theorem roleReports_calm {p : Pos} : (roleReports p).all calm = true := rfl

/-! ### Carrier -/

theorem publishTable_evolves {s0 s : State} {before : List Entry} {cause : Bool} (h : Evolves s0 s) :
    Evolves s0 (publishTable before cause s) := by
  unfold publishTable
  dsimp only
  split
  · exact h
  · split
    · exact raise_evolves (h.withCtu id (fun _ _ b => b) (getLsbD_add_two _))
    · exact h.withCtu id (fun _ _ b => b) (getLsbD_add_two _)

theorem publishTable_link {s0 : State} {before : List Entry} {cause : Bool} {s : State} (h : LinkStep s0 s) :
    LinkStep s0 (publishTable before cause s) := by
  unfold publishTable
  try dsimp only
  repeat' first
    | with_reducible assumption | with_reducible apply LinkStep.withCtu | with_reducible apply raise_link | rfl
    | exact id | split

theorem reportNewKeys_evolves {s0 : State} {keys : List Key} {s : State} (h : Evolves s0 s) :
    Evolves s0 (reportNewKeys keys s) := by
  unfold reportNewKeys
  try dsimp only
  repeat' first
    | with_reducible assumption | with_reducible apply post_evolves | rfl | exact id | split

theorem reportNewKeys_link {s0 : State} {keys : List Key} {s : State} (h : LinkStep s0 s) :
    LinkStep s0 (reportNewKeys keys s) := by
  unfold reportNewKeys
  try dsimp only
  repeat' first
    | with_reducible assumption | with_reducible refine post_link ?_ ?_ | exact stateReports_calm
    | exact roleReports_calm | rfl | exact id | split

theorem ctuModuleLost_evolves {s0 s : State} {p : Pos} (h : Evolves s0 s) : Evolves s0 (ctuModuleLost p s) :=
  publishTable_evolves (h.withCtu (fun a => filter_tableOk a _) (fun _ _ b => filter_bounded b _) rfl)

theorem ctuModuleLost_link {s0 : State} {p : Pos} {s : State} (h : LinkStep s0 s) :
    LinkStep s0 (ctuModuleLost p s) := by
  unfold ctuModuleLost
  try dsimp only
  repeat' first
    | with_reducible assumption | with_reducible apply publishTable_link | with_reducible apply LinkStep.withCtu

theorem ctuPurge_evolves {s0 s : State} (h : Evolves s0 s) : Evolves s0 (ctuPurge s) :=
  publishTable_evolves (h.withCtu (fun a => filter_tableOk a _) (fun _ _ b => filter_bounded b _) rfl)

theorem ctuPurge_link {s0 : State} {s : State} (h : LinkStep s0 s) :
    LinkStep s0 (ctuPurge s) := by
  unfold ctuPurge
  try dsimp only
  repeat' first
    | with_reducible assumption | with_reducible apply publishTable_link | with_reducible apply LinkStep.withCtu

theorem ctuMark_evolves {s0 s : State} {k : Key} (h : Evolves s0 s) : Evolves s0 (ctuMark k s).2 := by
  unfold ctuMark
  split
  · exact h
  · exact publishTable_evolves (h.withCtu
      (fun a => updateFlags_tableOk a (fun _ => rfl) (fun _ => rfl) (fun _ => rfl) (fun _ x => x))
      (fun _ _ b => updateFlags_bounded b fun _ x => x) rfl)

theorem ctuMark_evolves_eq {s0 s t : State} {k : Key} {x : Bool} (e : ctuMark k s = (x, t)) (h : Evolves s0 s) :
    Evolves s0 t := by
  have := ctuMark_evolves (k := k) h
  rwa [e] at this

theorem ctuMark_link {s0 : State} {k : Key} {s : State} (h : LinkStep s0 s) :
    LinkStep s0 (ctuMark k s).2 := by
  unfold ctuMark
  try dsimp only
  repeat' first
    | with_reducible assumption | with_reducible apply publishTable_link | with_reducible apply LinkStep.withCtu | rfl
    | exact id | split

theorem ctuMark_link_eq {s0 t : State} {k : Key} {s : State} {x : Bool}
    (e : ctuMark k s = (x, t)) (h : LinkStep s0 s) : LinkStep s0 t := by
  have := ctuMark_link (k := k) (s := s) h
  rwa [e] at this

theorem ctuConnectionRelease_evolves {s0 s : State} {k : Key} (h : Evolves s0 s) :
    Evolves s0 (ctuConnectionRelease k s) :=
  publishTable_evolves (h.withCtu
    (fun a => removeIfLost_tableOk
      (updateFlags_tableOk a (fun _ => rfl) (fun _ => rfl) (fun _ => rfl) (fun _ x => x)))
    (fun _ _ b => removeIfLost_bounded (updateFlags_bounded b fun _ x => x)) rfl)

theorem ctuConnectionRelease_link {s0 : State} {k : Key} {s : State} (h : LinkStep s0 s) :
    LinkStep s0 (ctuConnectionRelease k s) := by
  unfold ctuConnectionRelease
  try dsimp only
  repeat' first
    | with_reducible assumption | with_reducible apply publishTable_link | with_reducible apply LinkStep.withCtu

theorem ctuReplan_evolves {s0 s : State} {old new : Plan} (h : Evolves s0 s)
    (hn : plansInRange s.pln = true → planInRange new = true) : Evolves s0 (ctuReplan old new s) :=
  reportNewKeys_evolves (publishTable_evolves
    (h.withCtu replanTable_tableOk (fun p a b => replanTable_bounded (hn p) a b) rfl))

theorem ctuReplan_link {s0 : State} {old : Plan} {new : Plan} {s : State} (h : LinkStep s0 s) :
    LinkStep s0 (ctuReplan old new s) := by
  unfold ctuReplan
  try dsimp only
  repeat' first
    | with_reducible assumption | with_reducible apply reportNewKeys_link | with_reducible apply publishTable_link
    | with_reducible apply LinkStep.withCtu

/-! ### Box -/

theorem get_set_out {α : Type} (v : PerOut α) (o o' : Output) (x : α) :
    (v.set o x).get o' = if o' = o then x else v.get o' := by
  cases o <;> cases o' <;> rfl

theorem reselect_step (p : Pattern) (x : OutputState) : OutStep x (reselect p x) := by
  unfold reselect
  split
  · exact OutStep.refl x
  · rename_i hx
    split
    · exact OutStep.refl x
    · refine ⟨?_, fun e => absurd e hx, fun _ => ?_⟩
      · cases p <;> rfl
      · cases p <;> simp_all [outputOk, startPattern, blinks]

theorem refreshOutput_evolves {s0 s : State} {o : Output} (h : Evolves s0 s) : Evolves s0 (refreshOutput o s) := by
  refine h.withOuts fun o' => ?_
  rw [get_set_out]
  split
  · rename_i e
    subst e
    exact reselect_step _ _
  · exact OutStep.refl _

theorem bsuCallState_evolves {s0 : State} {s : State} (h : Evolves s0 s) :
    Evolves s0 (bsuCallState s) := by
  unfold bsuCallState
  try dsimp only
  repeat' first
    | with_reducible assumption | with_reducible apply refreshOutput_evolves

theorem bsuFaultLamp_evolves {s0 : State} {s : State} (h : Evolves s0 s) :
    Evolves s0 (bsuFaultLamp s) := by
  unfold bsuFaultLamp
  try dsimp only
  repeat' first
    | with_reducible assumption | with_reducible apply refreshOutput_evolves

theorem bsuFaultLamp_link {s0 : State} {s : State} (h : LinkStep s0 s) : LinkStep s0 (bsuFaultLamp s) :=
  { h with
    lamps := fun o ho => by
      rw [← h.lamps o ho]
      exact (get_set_out _ _ _ _).trans (if_neg ho) }

/-! ### Link -/

theorem mlcOwnResult_link {s0 : State} {p : Pos} {kind : ReqKind} {r : LinkResult} {s : State} (h : LinkStep s0 s) :
    LinkStep s0 (mlcOwnResult p kind r s) := by
  unfold mlcOwnResult
  try dsimp only
  repeat' first
    | with_reducible assumption | with_reducible apply LinkStep.withModule | rfl | exact id | split

theorem deliverTo_link {s0 s : State} {req : Request} {r : LinkResult} {o : Requester} (hr : r ≠ .ok)
    (h : LinkStep s0 s) : LinkStep s0 (deliverTo req r o s) := by
  cases o
  case calAnswer =>
    refine post_link ?_ h
    cases r <;> first | rfl | exact absurd rfl hr
  all_goals first | exact h | exact post_link rfl h | exact mlcOwnResult_link h

theorem deliverAll_link {s0 s : State} {req : Request} {r : LinkResult} {os : List Requester} (hr : r ≠ .ok)
    (h : LinkStep s0 s) : LinkStep s0 (deliverAll req r os s) := by
  induction os generalizing s with
  | nil => exact h
  | cons o rest ih => exact ih (deliverTo_link hr h)

theorem deliver_link {s0 s : State} {req : Request} {r : LinkResult} (hr : r ≠ .ok) (h : LinkStep s0 s) :
    LinkStep s0 (deliver req r s) := deliverAll_link hr h

theorem displace_link {s0 s : State} {r : Request} (h : LinkStep s0 s) : LinkStep s0 (displace r s) :=
  deliver_link (by decide) h.withQueue

theorem append_link {s0 : State} {o : Requester} {p : Pos} {kind : ReqKind} {payload : List Byte} {s : State} (h : LinkStep s0 s) :
    LinkStep s0 (append o p kind payload s).2 := by
  unfold append
  try dsimp only
  repeat' first
    | with_reducible assumption | with_reducible apply LinkStep.withMlc

theorem append_link_eq {s0 t : State} {o : Requester} {p : Pos} {kind : ReqKind} {payload : List Byte} {s : State} {x : QueueAnswer}
    (e : append o p kind payload s = (x, t)) (h : LinkStep s0 s) : LinkStep s0 t := by
  have := append_link (o := o) (p := p) (kind := kind) (payload := payload) (s := s) h
  rwa [e] at this

theorem admit_link {s0 : State} {o : Requester} {p : Pos} {kind : ReqKind} {payload : List Byte} {s : State} (h : LinkStep s0 s) :
    LinkStep s0 (queueWithRoom o p kind payload s).2 := by
  unfold queueWithRoom
  try dsimp only
  repeat' first
    | with_reducible assumption | refine append_link_eq (by assumption) ?_ | with_reducible refine append_link ?_
    | with_reducible apply displace_link | rfl | exact id | split

theorem admit_link_eq {s0 t : State} {o : Requester} {p : Pos} {kind : ReqKind} {payload : List Byte} {s : State} {x : QueueAnswer}
    (e : queueWithRoom o p kind payload s = (x, t)) (h : LinkStep s0 s) : LinkStep s0 t := by
  have := admit_link (o := o) (p := p) (kind := kind) (payload := payload) (s := s) h
  rwa [e] at this

theorem enqueue_evolves_eq {s0 t : State} {o : Requester} {p : Pos} {kind : ReqKind} {payload : List Byte} {s : State} {x : QueueAnswer}
    (e : enqueue o p kind payload s = (x, t)) (hk : kind ≠ .poll) (h : Evolves s0 s) : Evolves s0 t := by
  have := enqueue_evolves (o := o) (p := p) (kind := kind) (payload := payload) (s := s) hk h
  rwa [e] at this

theorem enqueue_link {s0 : State} {o : Requester} {p : Pos} {kind : ReqKind} {payload : List Byte} {s : State} (h : LinkStep s0 s) :
    LinkStep s0 (enqueue o p kind payload s).2 := by
  unfold enqueue
  try dsimp only
  repeat' first
    | with_reducible assumption | refine admit_link_eq (by assumption) ?_ | with_reducible refine admit_link ?_
    | with_reducible apply LinkStep.withQueue | with_reducible apply displace_link | rfl | exact id | split

theorem enqueue_link_eq {s0 t : State} {o : Requester} {p : Pos} {kind : ReqKind} {payload : List Byte} {s : State} {x : QueueAnswer}
    (e : enqueue o p kind payload s = (x, t)) (h : LinkStep s0 s) : LinkStep s0 t := by
  have := enqueue_link (o := o) (p := p) (kind := kind) (payload := payload) (s := s) h
  rwa [e] at this

theorem queuePoll_evolves {s0 s : State} {p : Pos} (h : Evolves s0 s) : Evolves s0 (queuePoll p s) := by
  unfold queuePoll
  split
  · exact h
  · rename_i hp
    exact admit_evolves h fun _ => placeFree_poll (by simpa using hp)

theorem queuePoll_link {s0 : State} {p : Pos} {s : State} (h : LinkStep s0 s) :
    LinkStep s0 (queuePoll p s) := by
  unfold queuePoll
  try dsimp only
  repeat' first
    | with_reducible assumption | refine enqueue_link_eq (by assumption) ?_ | with_reducible refine enqueue_link ?_
    | rfl | exact id | split

theorem queueProbe_evolves {s0 : State} {p : Pos} {s : State} (h : Evolves s0 s) :
    Evolves s0 (queueProbe p s) := by
  unfold queueProbe
  try dsimp only
  repeat' first
    | with_reducible assumption | with_reducible refine enqueue_evolves_eq (by assumption) (by decide) ?_
    | with_reducible refine enqueue_evolves (by decide) ?_ | with_reducible apply Evolves.withModule | rfl | exact id
    | split

theorem queueProbe_link {s0 : State} {p : Pos} {s : State} (h : LinkStep s0 s) :
    LinkStep s0 (queueProbe p s) := by
  unfold queueProbe
  try dsimp only
  repeat' first
    | with_reducible assumption | refine enqueue_link_eq (by assumption) ?_ | with_reducible refine enqueue_link ?_
    | with_reducible apply LinkStep.withModule | rfl | exact id | split

theorem queueSpareSleep_evolves {s0 : State} {p : Pos} {s : State} (h : Evolves s0 s) :
    Evolves s0 (queueSpareSleep p s) := by
  unfold queueSpareSleep
  try dsimp only
  repeat' first
    | with_reducible assumption | with_reducible refine enqueue_evolves_eq (by assumption) (by decide) ?_
    | with_reducible refine enqueue_evolves (by decide) ?_ | with_reducible apply Evolves.withModule | rfl | exact id
    | split

theorem queueSpareSleep_link {s0 : State} {p : Pos} {s : State} (h : LinkStep s0 s) :
    LinkStep s0 (queueSpareSleep p s) := by
  unfold queueSpareSleep
  try dsimp only
  repeat' first
    | with_reducible assumption | refine enqueue_link_eq (by assumption) ?_ | with_reducible refine enqueue_link ?_
    | with_reducible apply LinkStep.withModule | rfl | exact id | split

theorem withdraw_evolves {s0 s : State} {o : Requester} {n : Nat} (h : Evolves s0 s) :
    Evolves s0 (withdraw o n s).2 := by
  unfold withdraw
  dsimp only
  split
  · split
    · exact h.withQueue fun a => queueOk_filter a _
    · refine h.withQueue fun a => queueOk_map a (fun r => ?_) (fun r => ?_)
      all_goals split <;> rfl
  · split
    · split <;> exact h
    · exact h

theorem withdraw_evolves_eq {s0 s t : State} {o : Requester} {n : Nat} {x : Withdrawal}
    (e : withdraw o n s = (x, t)) (h : Evolves s0 s) : Evolves s0 t := by
  have := withdraw_evolves (o := o) (n := n) h
  rwa [e] at this

theorem withdraw_link {s0 : State} {o : Requester} {n : Nat} {s : State} (h : LinkStep s0 s) :
    LinkStep s0 (withdraw o n s).2 := by
  unfold withdraw
  try dsimp only
  repeat' first
    | with_reducible assumption | with_reducible apply LinkStep.withQueue | rfl | exact id | split

theorem withdraw_link_eq {s0 t : State} {o : Requester} {n : Nat} {s : State} {x : Withdrawal}
    (e : withdraw o n s = (x, t)) (h : LinkStep s0 s) : LinkStep s0 t := by
  have := withdraw_link (o := o) (n := n) (s := s) h
  rwa [e] at this

theorem withdrawIf_evolves {s0 : State} {o : Requester} {n : Option Nat} {s : State} (h : Evolves s0 s) :
    Evolves s0 (withdrawIf o n s) := by
  unfold withdrawIf
  try dsimp only
  repeat' first
    | with_reducible assumption | refine withdraw_evolves_eq (by assumption) ?_
    | with_reducible refine withdraw_evolves ?_ | rfl | exact id | split

theorem withdrawIf_link {s0 : State} {o : Requester} {n : Option Nat} {s : State} (h : LinkStep s0 s) :
    LinkStep s0 (withdrawIf o n s) := by
  unfold withdrawIf
  try dsimp only
  repeat' first
    | with_reducible assumption | refine withdraw_link_eq (by assumption) ?_ | with_reducible refine withdraw_link ?_
    | rfl | exact id | split

theorem settleWait_evolves {s0 : State} {p : Pos} {old : ModState} {new : ModState} {s : State} (h : Evolves s0 s) :
    Evolves s0 (settleWait p old new s) := by
  unfold settleWait
  try dsimp only
  repeat' first
    | with_reducible assumption | with_reducible apply complete_evolves | with_reducible apply Evolves.withMlc | rfl
    | exact id | split

theorem settleWait_link {s0 : State} {p : Pos} {old : ModState} {new : ModState} {s : State} (h : LinkStep s0 s) :
    LinkStep s0 (settleWait p old new s) := by
  unfold settleWait
  try dsimp only
  repeat' first
    | with_reducible assumption | with_reducible apply complete_link | with_reducible apply LinkStep.withMlc | rfl
    | exact id | split

theorem changeState_evolves {s0 : State} {p : Pos} {new : ModState} {s : State} (h : Evolves s0 s) :
    Evolves s0 (changeState p new s) := by
  unfold changeState
  try dsimp only
  repeat' first
    | with_reducible assumption | with_reducible apply postAll_evolves | with_reducible apply ctuModuleLost_evolves
    | with_reducible apply bsuFaultLamp_evolves | with_reducible apply settleWait_evolves
    | with_reducible apply Evolves.withModule | with_reducible apply publishStatus_evolves | rfl | exact id | split

theorem changeState_link {s0 : State} {p : Pos} {new : ModState} {s : State} (h : LinkStep s0 s) :
    LinkStep s0 (changeState p new s) := by
  unfold changeState
  try dsimp only
  repeat' first
    | with_reducible assumption | with_reducible refine postAll_link ?_ ?_ | with_reducible apply ctuModuleLost_link
    | with_reducible apply bsuFaultLamp_link | with_reducible apply settleWait_link
    | with_reducible apply LinkStep.withModule | with_reducible apply publishStatus_link | exact stateReports_calm
    | exact roleReports_calm | rfl | exact id | split

theorem changeRole_evolves {s0 : State} {p : Pos} {role : Role} {bands : Bands} {s : State} (h : Evolves s0 s) :
    Evolves s0 (changeRole p role bands s) := by
  unfold changeRole
  try dsimp only
  repeat' first
    | with_reducible assumption | with_reducible apply postAll_evolves | with_reducible apply bsuFaultLamp_evolves
    | with_reducible apply Evolves.withModule | with_reducible apply publishStatus_evolves | rfl | exact id | split

theorem changeRole_link {s0 : State} {p : Pos} {role : Role} {bands : Bands} {s : State} (h : LinkStep s0 s) :
    LinkStep s0 (changeRole p role bands s) := by
  unfold changeRole
  try dsimp only
  repeat' first
    | with_reducible assumption | with_reducible refine postAll_link ?_ ?_ | with_reducible apply bsuFaultLamp_link
    | with_reducible apply LinkStep.withModule | with_reducible apply publishStatus_link | exact stateReports_calm
    | exact roleReports_calm | rfl | exact id | split

theorem enterBoot_evolves {s0 : State} {p : Pos} {time : Nat} {s : State} (h : Evolves s0 s) :
    Evolves s0 (enterBoot p time s) := by
  unfold enterBoot
  try dsimp only
  repeat' first
    | with_reducible assumption | with_reducible apply Evolves.withModule | with_reducible apply changeState_evolves

theorem enterBoot_link {s0 : State} {p : Pos} {time : Nat} {s : State} (h : LinkStep s0 s) :
    LinkStep s0 (enterBoot p time s) := by
  unfold enterBoot
  try dsimp only
  repeat' first
    | with_reducible assumption | with_reducible apply LinkStep.withModule | with_reducible apply changeState_link

theorem enterReset_evolves {s0 : State} {p : Pos} {s : State} (h : Evolves s0 s) :
    Evolves s0 (enterReset p s) := by
  unfold enterReset
  try dsimp only
  repeat' first
    | with_reducible assumption | with_reducible apply Evolves.withModule | with_reducible apply changeState_evolves

theorem enterReset_link {s0 : State} {p : Pos} {s : State} (h : LinkStep s0 s) :
    LinkStep s0 (enterReset p s) := by
  unfold enterReset
  try dsimp only
  repeat' first
    | with_reducible assumption | with_reducible apply LinkStep.withModule | with_reducible apply changeState_link

theorem enterProbe_evolves {s0 : State} {p : Pos} {s : State} (h : Evolves s0 s) :
    Evolves s0 (enterProbe p s) := by
  unfold enterProbe
  try dsimp only
  repeat' first
    | with_reducible assumption | with_reducible apply queueProbe_evolves | with_reducible apply Evolves.withModule

theorem enterProbe_link {s0 : State} {p : Pos} {s : State} (h : LinkStep s0 s) :
    LinkStep s0 (enterProbe p s) := by
  unfold enterProbe
  try dsimp only
  repeat' first
    | with_reducible assumption | with_reducible apply queueProbe_link | with_reducible apply LinkStep.withModule

theorem enterService_evolves {s0 : State} {p : Pos} {s : State} (h : Evolves s0 s) :
    Evolves s0 (enterService p s) := by
  unfold enterService
  try dsimp only
  repeat' first
    | with_reducible assumption | with_reducible apply queuePoll_evolves | with_reducible apply Evolves.withModule
    | with_reducible apply queueSpareSleep_evolves | with_reducible apply changeState_evolves | rfl | exact id | split

theorem enterService_link {s0 : State} {p : Pos} {s : State} (h : LinkStep s0 s) :
    LinkStep s0 (enterService p s) := by
  unfold enterService
  try dsimp only
  repeat' first
    | with_reducible assumption | with_reducible apply queuePoll_link | with_reducible apply LinkStep.withModule
    | with_reducible apply queueSpareSleep_link | with_reducible apply changeState_link | rfl | exact id | split

theorem enterAsleep_evolves {s0 : State} {p : Pos} {s : State} (h : Evolves s0 s) :
    Evolves s0 (enterAsleep p s) := by
  unfold enterAsleep
  try dsimp only
  repeat' first
    | with_reducible assumption | with_reducible apply changeState_evolves

theorem enterAsleep_link {s0 : State} {p : Pos} {s : State} (h : LinkStep s0 s) :
    LinkStep s0 (enterAsleep p s) := by
  unfold enterAsleep
  try dsimp only
  repeat' first
    | with_reducible assumption | with_reducible apply changeState_link

theorem enterSuspect_evolves {s0 : State} {p : Pos} {s : State} (h : Evolves s0 s) :
    Evolves s0 (enterSuspect p s) := by
  unfold enterSuspect
  try dsimp only
  repeat' first
    | with_reducible assumption | with_reducible apply reportFault_evolves | with_reducible apply Evolves.withModule
    | with_reducible apply changeState_evolves

theorem enterSuspect_link {s0 : State} {p : Pos} {s : State} (h : LinkStep s0 s) :
    LinkStep s0 (enterSuspect p s) := by
  unfold enterSuspect
  try dsimp only
  repeat' first
    | with_reducible assumption | with_reducible apply reportFault_link | with_reducible apply LinkStep.withModule
    | with_reducible apply changeState_link

/-- Withdrawals of several requests, one after another. -/
theorem withdrawEach_evolves {s0 : State} {o : Requester} (rs : List Request) {s : State} (h : Evolves s0 s) :
    Evolves s0 (rs.foldl (fun s r => (withdraw o r.number s).2) s) := by
  induction rs generalizing s with
  | nil => exact h
  | cons r rs ih => exact ih (withdraw_evolves h)

theorem withdrawEach_link {s0 : State} {o : Requester} (rs : List Request) {s : State} (h : LinkStep s0 s) :
    LinkStep s0 (rs.foldl (fun s r => (withdraw o r.number s).2) s) := by
  induction rs generalizing s with
  | nil => exact h
  | cons r rs ih => exact ih (withdraw_link h)

theorem withdrawSpareSleep_evolves {s0 : State} {q : Pos} {s : State} (h : Evolves s0 s) :
    Evolves s0 (withdrawSpareSleep q s) := withdrawEach_evolves _ h

theorem withdrawSpareSleep_link {s0 : State} {q : Pos} {s : State} (h : LinkStep s0 s) :
    LinkStep s0 (withdrawSpareSleep q s) := withdrawEach_link _ h

theorem rouse_evolves {s0 : State} {q : Pos} {s : State} (h : Evolves s0 s) :
    Evolves s0 (rouse q s) := by
  unfold rouse
  try dsimp only
  repeat' first
    | with_reducible assumption | with_reducible apply withdrawSpareSleep_evolves
    | with_reducible refine enqueue_evolves_eq (by assumption) (by decide) ?_
    | with_reducible refine enqueue_evolves (by decide) ?_ | with_reducible apply Evolves.withModule | rfl | exact id
    | split

theorem rouse_link {s0 : State} {q : Pos} {s : State} (h : LinkStep s0 s) :
    LinkStep s0 (rouse q s) := by
  unfold rouse
  try dsimp only
  repeat' first
    | with_reducible assumption | with_reducible apply withdrawSpareSleep_link
    | refine enqueue_link_eq (by assumption) ?_ | with_reducible refine enqueue_link ?_
    | with_reducible apply LinkStep.withModule | rfl | exact id | split

theorem substitute_evolves {s0 : State} {p : Pos} {s : State} (h : Evolves s0 s) :
    Evolves s0 (substitute p s) := by
  unfold substitute
  try dsimp only
  repeat' first
    | with_reducible assumption | with_reducible apply changeRole_evolves | with_reducible apply Evolves.withModule
    | with_reducible apply rouse_evolves | rfl | exact id | split

theorem substitute_link {s0 : State} {p : Pos} {s : State} (h : LinkStep s0 s) :
    LinkStep s0 (substitute p s) := by
  unfold substitute
  try dsimp only
  repeat' first
    | with_reducible assumption | with_reducible apply changeRole_link | with_reducible apply LinkStep.withModule
    | with_reducible apply rouse_link | rfl | exact id | split

theorem enterFailed_evolves {s0 : State} {p : Pos} {detail : Nat} {s : State} (h : Evolves s0 s) :
    Evolves s0 (enterFailed p detail s) := by
  unfold enterFailed
  try dsimp only
  repeat' first
    | with_reducible assumption | with_reducible apply substitute_evolves | with_reducible apply reportFault_evolves
    | with_reducible apply raise_evolves | with_reducible apply changeState_evolves | rfl | exact id | split

theorem enterFailed_link {s0 : State} {p : Pos} {detail : Nat} {s : State} (h : LinkStep s0 s) :
    LinkStep s0 (enterFailed p detail s) := by
  unfold enterFailed
  try dsimp only
  repeat' first
    | with_reducible assumption | with_reducible apply substitute_link | with_reducible apply reportFault_link
    | with_reducible apply raise_link | with_reducible apply changeState_link | rfl | exact id | split

theorem applyRole_evolves {s0 : State} {p : Pos} {role : Role} {bands : Bands} {s : State} (h : Evolves s0 s) :
    Evolves s0 (applyRole p role bands s) := by
  unfold applyRole
  try dsimp only
  repeat' first
    | with_reducible assumption | with_reducible apply changeRole_evolves | with_reducible apply Evolves.withModule
    | with_reducible apply queueSpareSleep_evolves | with_reducible apply changeState_evolves
    | with_reducible apply enterBoot_evolves | rfl | exact id | split

theorem applyRole_link {s0 : State} {p : Pos} {role : Role} {bands : Bands} {s : State} (h : LinkStep s0 s) :
    LinkStep s0 (applyRole p role bands s) := by
  unfold applyRole
  try dsimp only
  repeat' first
    | with_reducible assumption | with_reducible apply changeRole_link | with_reducible apply LinkStep.withModule
    | with_reducible apply queueSpareSleep_link | with_reducible apply changeState_link
    | with_reducible apply enterBoot_link | rfl | exact id | split

theorem takeRole_evolves {s0 : State} {plan : Plan} {p : Pos} {s : State} (h : Evolves s0 s) :
    Evolves s0 (takeRole plan p s) := by
  unfold takeRole
  try dsimp only
  repeat' first
    | with_reducible assumption | with_reducible apply applyRole_evolves | with_reducible apply Evolves.withModule
    | rfl | exact id | split

theorem takeRole_link {s0 : State} {plan : Plan} {p : Pos} {s : State} (h : LinkStep s0 s) :
    LinkStep s0 (takeRole plan p s) := by
  unfold takeRole
  try dsimp only
  repeat' first
    | with_reducible assumption | with_reducible apply applyRole_link | with_reducible apply LinkStep.withModule | rfl
    | exact id | split

theorem substituteIfLost_evolves {s0 : State} {p : Pos} {s : State} (h : Evolves s0 s) :
    Evolves s0 (substituteIfLost p s) := by
  unfold substituteIfLost
  try dsimp only
  repeat' first
    | with_reducible assumption | with_reducible apply substitute_evolves | rfl | exact id | split

theorem substituteIfLost_link {s0 : State} {p : Pos} {s : State} (h : LinkStep s0 s) :
    LinkStep s0 (substituteIfLost p s) := by
  unfold substituteIfLost
  try dsimp only
  repeat' first
    | with_reducible assumption | with_reducible apply substitute_link | rfl | exact id | split

theorem takeRoles_evolves {s0 : State} {plan : Plan} {s : State} (h : Evolves s0 s) :
    Evolves s0 (takeRoles plan s) := by
  unfold takeRoles
  try dsimp only
  repeat' first
    | with_reducible assumption | with_reducible apply takeRole_evolves
    | with_reducible apply substituteIfLost_evolves

theorem takeRoles_link {s0 : State} {plan : Plan} {s : State} (h : LinkStep s0 s) :
    LinkStep s0 (takeRoles plan s) := by
  unfold takeRoles
  try dsimp only
  repeat' first
    | with_reducible assumption | with_reducible apply takeRole_link | with_reducible apply substituteIfLost_link

theorem releaseHeld_evolves {s0 : State} {p : Pos} {s : State} (h : Evolves s0 s) :
    Evolves s0 (releaseHeld p s) := by
  unfold releaseHeld
  try dsimp only
  repeat' first
    | with_reducible assumption | with_reducible apply enterBoot_evolves | rfl | exact id | split

theorem releaseHeld_link {s0 : State} {p : Pos} {s : State} (h : LinkStep s0 s) :
    LinkStep s0 (releaseHeld p s) := by
  unfold releaseHeld
  try dsimp only
  repeat' first
    | with_reducible assumption | with_reducible apply enterBoot_link | rfl | exact id | split

theorem releaseModules_evolves {s0 : State} {s : State} (h : Evolves s0 s) :
    Evolves s0 (releaseModules s) := by
  unfold releaseModules
  try dsimp only
  repeat' first
    | with_reducible assumption | with_reducible apply releaseHeld_evolves

theorem releaseModules_link {s0 : State} {s : State} (h : LinkStep s0 s) :
    LinkStep s0 (releaseModules s) := by
  unfold releaseModules
  try dsimp only
  repeat' first
    | with_reducible assumption | with_reducible apply releaseHeld_link

theorem applyAtIdle_evolves {s0 : State} {p : Pos} {s : State} (h : Evolves s0 s) :
    Evolves s0 (applyAtIdle p s) := by
  unfold applyAtIdle
  try dsimp only
  repeat' first
    | with_reducible assumption | with_reducible apply applyRole_evolves | with_reducible apply Evolves.withModule
    | rfl | exact id | split

theorem applyAtIdle_link {s0 : State} {p : Pos} {s : State} (h : LinkStep s0 s) :
    LinkStep s0 (applyAtIdle p s) := by
  unfold applyAtIdle
  try dsimp only
  repeat' first
    | with_reducible assumption | with_reducible apply applyRole_link | with_reducible apply LinkStep.withModule | rfl
    | exact id | split

theorem mlcInterval_evolves {s0 : State} {s : State} (h : Evolves s0 s) :
    Evolves s0 (mlcInterval s) := by
  unfold mlcInterval
  try dsimp only
  repeat' first
    | with_reducible assumption | with_reducible apply Evolves.withMlc | rfl | exact id

theorem mlcInterval_link {s0 : State} {s : State} (h : LinkStep s0 s) :
    LinkStep s0 (mlcInterval s) := by
  unfold mlcInterval
  try dsimp only
  repeat' first
    | with_reducible assumption | with_reducible apply LinkStep.withMlc

theorem mlcCallState_evolves {s0 : State} {s : State} (h : Evolves s0 s) :
    Evolves s0 (mlcCallState s) := by
  unfold mlcCallState
  try dsimp only
  repeat' first
    | with_reducible assumption | with_reducible apply mlcInterval_evolves | with_reducible apply applyAtIdle_evolves
    | rfl | exact id | split

theorem mlcCallState_link {s0 : State} {s : State} (h : LinkStep s0 s) :
    LinkStep s0 (mlcCallState s) := by
  unfold mlcCallState
  try dsimp only
  repeat' first
    | with_reducible assumption | with_reducible apply mlcInterval_link | with_reducible apply applyAtIdle_link | rfl
    | exact id | split

theorem thirdFailure_evolves {s0 : State} {p : Pos} {s : State} (h : Evolves s0 s) :
    Evolves s0 (thirdFailure p s) := by
  unfold thirdFailure
  try dsimp only
  repeat' first
    | with_reducible assumption | with_reducible apply enterSuspect_evolves | with_reducible apply enterFailed_evolves
    | with_reducible apply Evolves.withModule | rfl | exact id | split

theorem thirdFailure_link {s0 : State} {p : Pos} {s : State} (h : LinkStep s0 s) :
    LinkStep s0 (thirdFailure p s) := by
  unfold thirdFailure
  try dsimp only
  repeat' first
    | with_reducible assumption | with_reducible apply enterSuspect_link | with_reducible apply enterFailed_link
    | with_reducible apply LinkStep.withModule | rfl | exact id | split

end Sys2Proof.Machine
end

