-- ==== Sys2Proof/Laws/Plan.lean ====
section
/-! SUPPORT. Reads of the working plan, the parity recovery they may set off, and the events of CTU that read the plan:
how they evolve a state, and that each is a `Lower`. -/

namespace Sys2Proof.Machine

/-- A read of a plan that no word has lost its parity in changes nothing. -/
@[simp] theorem touch_sound {s : State} (h : s.pln.damaged = []) (i : Nat) : touch i s = s := by
  simp [touch, h]

/-- Reads of a plan that no word has lost its parity in change nothing. -/
@[simp] theorem touchAll_sound {s : State} (h : s.pln.damaged = []) (is : List Nat) : touchAll is s = s := by
  induction is with
  | nil => rfl
  | cons i rest ih => simp [touchAll, h, ih]

/-- A read of a field whose word has its parity changes nothing. -/
theorem touch_of_not_mem {s : State} {i : Nat} (h : i ∉ s.pln.damaged) : touch i s = s := by
  simp [touch, h]

/-- An installation leaves no damaged word. -/
theorem install_damaged (plan : Plan) (source : PlanSource) (s : State) :
    (install plan source s).pln.damaged = [] := by
  have h : LinkStep (s.withPln { s.pln with plan := plan, damaged := [], source := source })
      (bsuFaultLamp (takeRoles plan (ctuReplan s.pln.plan plan
        (s.withPln { s.pln with plan := plan, damaged := [], source := source })))) :=
    bsuFaultLamp_link (takeRoles_link (ctuReplan_link (LinkStep.refl _)))
  unfold install
  dsimp only
  split
  · exact (congrArg Pln.damaged h.pln)
  · exact (congrArg Pln.damaged h.pln)

/-! ### PlanRead -/

/-- The working plan of plans in range is in range. -/
theorem plan_inRange {x : Pln} (h : plansInRange x = true) : planInRange x.plan = true := by
  simp only [plansInRange, Bool.and_eq_true] at h
  exact h.1.1

/-- The stored image of plans in range is in range. -/
theorem area_inRange {x : Pln} (h : plansInRange x = true) : areaInRange x.store.area = true := by
  simp only [plansInRange, Bool.and_eq_true] at h
  exact h.1.2

theorem builtInPlan_inRange : planInRange builtInPlan = true := by
  simp [planInRange, huntInRange, callInRange, inRange, builtInPlan]

theorem install_evolves {s0 : State} {plan : Plan} {source : PlanSource} {s : State}
    (hp : plansInRange s.pln = true → planInRange plan = true) (h : Evolves s0 s) :
    Evolves s0 (install plan source s) := by
  have h1 : Evolves s0 (s.withPln { s.pln with plan := plan, damaged := [], source := source }) :=
    h.withPln fun a => by
      have b := hp a
      simp only [plansInRange, Bool.and_eq_true] at a ⊢
      exact ⟨⟨b, a.1.2⟩, a.2⟩
  have h2 := bsuFaultLamp_evolves (takeRoles_evolves (plan := plan)
    (ctuReplan_evolves (old := s.pln.plan) (new := plan) h1 plan_inRange))
  unfold install
  dsimp only
  refine post_evolves ?_
  split
  · exact h2
  · exact publishStatus_evolves h2

theorem takeRoles_lower {s0 : State} {plan : Plan} {s : State} (h : Lower s0 s) :
    Lower s0 (takeRoles plan s) := h.trans (takeRoles_link (LinkStep.refl _)).toLower

theorem bsuFaultLamp_lower {s0 : State} {s : State} (h : Lower s0 s) :
    Lower s0 (bsuFaultLamp s) := h.trans (bsuFaultLamp_link (LinkStep.refl _)).toLower

theorem ctuReplan_lower {s0 : State} {old : Plan} {new : Plan} {s : State} (h : Lower s0 s) :
    Lower s0 (ctuReplan old new s) := h.trans (ctuReplan_link (LinkStep.refl _)).toLower

theorem publishStatus_lower {s0 : State} {s : State} (h : Lower s0 s) :
    Lower s0 (publishStatus s) := h.trans (publishStatus_link (LinkStep.refl _)).toLower

theorem install_lower {s0 : State} {plan : Plan} {source : PlanSource} {s : State} (h : Lower s0 s) :
    Lower s0 (install plan source s) := by
  unfold install
  try dsimp only
  repeat' first
    | with_reducible assumption | with_reducible apply takeRoles_lower | with_reducible apply bsuFaultLamp_lower
    | with_reducible apply ctuReplan_lower | with_reducible apply post_lower
    | with_reducible apply publishStatus_lower | with_reducible apply Lower.withPln | (show _ = _; rfl) | exact id
    | split

theorem setStoreState_evolves {s0 : State} {x : StoreState} {s : State} (h : Evolves s0 s) :
    Evolves s0 (setStoreState x s) := by
  unfold setStoreState
  try dsimp only
  repeat' first
    | with_reducible assumption | with_reducible apply publishStatus_evolves
    | with_reducible refine Evolves.withPln ?_ id | exact id | split

theorem setStoreState_lower {s0 : State} {x : StoreState} {s : State} (h : Lower s0 s) :
    Lower s0 (setStoreState x s) := by
  unfold setStoreState
  try dsimp only
  repeat' first
    | with_reducible assumption | with_reducible apply publishStatus_lower | with_reducible apply Lower.withPln
    | exact id | split

theorem reestablish_evolves {s0 : State} {s : State} (h : Evolves s0 s) :
    Evolves s0 (reestablish s) := by
  unfold reestablish
  split
  · split
    · rename_i e
      split
      · exact install_evolves (fun a => by simpa [e, areaInRange] using area_inRange a) h
      · exact install_evolves (fun _ => builtInPlan_inRange) h
    all_goals exact install_evolves (fun _ => builtInPlan_inRange) (setStoreState_evolves h)
  · exact install_evolves (fun _ => builtInPlan_inRange) h

theorem reestablish_lower {s0 : State} {s : State} (h : Lower s0 s) :
    Lower s0 (reestablish s) := by
  unfold reestablish
  try dsimp only
  repeat' first
    | with_reducible assumption | with_reducible apply setStoreState_lower | with_reducible apply install_lower
    | exact id | split

theorem recoverPlan_evolves {s0 : State} {index : Nat} {s : State} (h : Evolves s0 s) :
    Evolves s0 (recoverPlan index s) := by
  unfold recoverPlan
  try dsimp only
  repeat' first
    | with_reducible assumption | with_reducible apply reportFault_evolves | with_reducible apply reestablish_evolves
    | with_reducible apply raise_evolves

theorem reportFault_lower {s0 : State} {kind : FaultKind} {pos : Option Pos} {detail : Nat} {address : Option (BitVec 12)} {s : State} (h : Lower s0 s) :
    Lower s0 (reportFault kind pos detail address s) := h.trans (reportFault_link (LinkStep.refl _)).toLower

theorem raise_lower {s0 : State} {c : Cause} {s : State} (h : Lower s0 s) :
    Lower s0 (raise c s) := h.trans (raise_link (LinkStep.refl _)).toLower

theorem recoverPlan_lower {s0 : State} {index : Nat} {s : State} (h : Lower s0 s) :
    Lower s0 (recoverPlan index s) := by
  unfold recoverPlan
  try dsimp only
  repeat' first
    | with_reducible assumption | with_reducible apply reportFault_lower | with_reducible apply reestablish_lower
    | with_reducible apply raise_lower

theorem touch_evolves {s0 : State} {index : Nat} {s : State} (h : Evolves s0 s) :
    Evolves s0 (touch index s) := by
  unfold touch
  try dsimp only
  repeat' first
    | with_reducible assumption | with_reducible apply recoverPlan_evolves | exact id | split

theorem touch_lower {s0 : State} {index : Nat} {s : State} (h : Lower s0 s) :
    Lower s0 (touch index s) := by
  unfold touch
  try dsimp only
  repeat' first
    | with_reducible assumption | with_reducible apply recoverPlan_lower | exact id | split

theorem touchAll_evolves {s0 s : State} {is : List Nat} (h : Evolves s0 s) : Evolves s0 (touchAll is s) := by
  induction is generalizing s with
  | nil => exact h
  | cons i rest ih => exact ih (touch_evolves h)

theorem touchAll_lower {s0 s : State} {is : List Nat} (h : Lower s0 s) : Lower s0 (touchAll is s) := by
  induction is generalizing s with
  | nil => exact h
  | cons i rest ih => exact ih (touch_lower h)

/-! ### Carriers -/

/-- The intake of a report leaves the mirror's generation word alone. -/
theorem takeReport_mirror (plan : Plan) (p : Pos) (r : CellReport) (c : Ctu) :
    (takeReport plan p r c).mirrorGen.getLsbD 0 = c.mirrorGen.getLsbD 0 := by
  unfold takeReport createEntry
  dsimp only
  repeat' first | rfl | split

theorem takeLevel_mirror (plan : Plan) (p : Pos) (level : Int) (q : Option Nat) (c : Ctu) :
    (takeLevel plan p level q c).mirrorGen.getLsbD 0 = c.mirrorGen.getLsbD 0 := by
  unfold takeLevel
  split <;> rfl

theorem intakeOne_evolves {s0 s : State} {p : Pos} {r : CellReport} (h : Evolves s0 s) :
    Evolves s0 (intakeOne p r s) := (touchAll_evolves h).withCtu takeReport_tableOk
    (fun p => takeReport_bounded (plan_inRange p)) (takeReport_mirror _ _ _ _)

theorem intakeOne_lower {s0 : State} {p : Pos} {r : CellReport} {s : State} (h : Lower s0 s) :
    Lower s0 (intakeOne p r s) := by
  unfold intakeOne
  try dsimp only
  repeat' first
    | with_reducible assumption | with_reducible apply touchAll_lower | with_reducible apply Lower.withCtu

theorem intakeEach_evolves {s0 s : State} {p : Pos} {rs : List CellReport} (h : Evolves s0 s) :
    Evolves s0 (intakeEach p rs s) := by
  induction rs generalizing s with
  | nil => exact h
  | cons r rest ih => exact ih (intakeOne_evolves h)

theorem intakeEach_lower {s0 s : State} {p : Pos} {rs : List CellReport} (h : Lower s0 s) :
    Lower s0 (intakeEach p rs s) := by
  induction rs generalizing s with
  | nil => exact h
  | cons r rest ih => exact ih (intakeOne_lower h)

theorem ctuIntake_evolves {s0 : State} {p : Pos} {reports : List CellReport} {s : State} (h : Evolves s0 s) :
    Evolves s0 (ctuIntake p reports s) := by
  unfold ctuIntake
  try dsimp only
  repeat' first
    | with_reducible assumption | with_reducible apply reportNewKeys_evolves | with_reducible apply intakeEach_evolves
    | with_reducible apply touchAll_evolves | with_reducible apply publishTable_evolves | exact id | split

theorem reportNewKeys_lower {s0 : State} {keys : List Key} {s : State} (h : Lower s0 s) :
    Lower s0 (reportNewKeys keys s) := h.trans (reportNewKeys_link (LinkStep.refl _)).toLower

theorem publishTable_lower {s0 : State} {before : List Entry} {cause : Bool} {s : State} (h : Lower s0 s) :
    Lower s0 (publishTable before cause s) := h.trans (publishTable_link (LinkStep.refl _)).toLower

theorem ctuIntake_lower {s0 : State} {p : Pos} {reports : List CellReport} {s : State} (h : Lower s0 s) :
    Lower s0 (ctuIntake p reports s) := by
  unfold ctuIntake
  try dsimp only
  repeat' first
    | with_reducible assumption | with_reducible apply reportNewKeys_lower | with_reducible apply intakeEach_lower
    | with_reducible apply touchAll_lower | with_reducible apply publishTable_lower | exact id | split

theorem ctuLevelReport_evolves {s0 s : State} {p : Pos} {level : Int} {quality : Option Nat} (h : Evolves s0 s) :
    Evolves s0 (ctuLevelReport p level quality s) := by
  unfold ctuLevelReport
  dsimp only
  repeat' first
    | with_reducible assumption | with_reducible apply reportNewKeys_evolves | with_reducible apply touchAll_evolves
    | with_reducible apply publishTable_evolves
    | with_reducible
      refine Evolves.withCtu ?_ takeLevel_tableOk (fun p => takeLevel_bounded (plan_inRange p)) (takeLevel_mirror _ _ _ _ _)
    | split

theorem ctuLevelReport_lower {s0 : State} {p : Pos} {level : Int} {quality : Option Nat} {s : State} (h : Lower s0 s) :
    Lower s0 (ctuLevelReport p level quality s) := by
  unfold ctuLevelReport
  try dsimp only
  repeat' first
    | with_reducible assumption | with_reducible apply reportNewKeys_lower | with_reducible apply touchAll_lower
    | with_reducible apply publishTable_lower | with_reducible apply Lower.withCtu | exact id | split

theorem ctuAgeTick_evolves {s0 s : State} (h : Evolves s0 s) : Evolves s0 (ctuAgeTick s) :=
  publishTable_evolves ((touchAll_evolves h).withCtu ageTick_tableOk
    (fun p => ageTick_bounded (plan_inRange p)) rfl)

theorem ctuAgeTick_lower {s0 : State} {s : State} (h : Lower s0 s) :
    Lower s0 (ctuAgeTick s) := by
  unfold ctuAgeTick
  try dsimp only
  repeat' first
    | with_reducible assumption | with_reducible apply touchAll_lower | with_reducible apply publishTable_lower
    | with_reducible apply Lower.withCtu

theorem ctuOutcome_evolves {s0 s : State} {o : Outcome} {k : Key} (h : Evolves s0 s) :
    Evolves s0 (ctuOutcome o k s) := by
  unfold ctuOutcome
  split
  · exact h
  · exact publishTable_evolves
      ((touchAll_evolves h).withCtu (fun a => removeIfLost_tableOk (outcomeTable_tableOk a))
        (fun p a b => removeIfLost_bounded (outcomeTable_bounded (plan_inRange p) a b)) rfl)

theorem ctuOutcome_lower {s0 : State} {o : Outcome} {k : Key} {s : State} (h : Lower s0 s) :
    Lower s0 (ctuOutcome o k s) := by
  unfold ctuOutcome
  try dsimp only
  repeat' first
    | with_reducible assumption | with_reducible apply touchAll_lower | with_reducible apply publishTable_lower
    | with_reducible apply Lower.withCtu | exact id | split

theorem ctuDropped_evolves {s0 s : State} {k : Key} (h : Evolves s0 s) : Evolves s0 (ctuDropped k s) := by
  unfold ctuDropped
  split
  · exact h
  · exact publishTable_evolves
      ((touchAll_evolves h).withCtu (fun a => removeIfLost_tableOk (dropServing_tableOk a))
        (fun p a b => removeIfLost_bounded (dropServing_bounded (plan_inRange p) a b)) rfl)

theorem ctuDropped_lower {s0 : State} {k : Key} {s : State} (h : Lower s0 s) :
    Lower s0 (ctuDropped k s) := by
  unfold ctuDropped
  try dsimp only
  repeat' first
    | with_reducible assumption | with_reducible apply touchAll_lower | with_reducible apply publishTable_lower
    | with_reducible apply Lower.withCtu | exact id | split

end Sys2Proof.Machine
end

