-- ==== Sys2Proof/Laws/Voice.lean ====
section
/-! SUPPORT. The voice switch and the message unit: how their operations evolve a state, the gap timer running in GAP
alone and the active tone the highest-priority one requested. -/

namespace Sys2Proof.Machine

/-- A change of VSW's state around operations that leave it alone. -/
theorem Evolves.aroundVsw {s0 s w : State} {x y : Vsw} (h : Evolves s0 s) (g : Evolves (s.withVsw x) w)
    (hs : switchOk s.vsw = true → switchOk y = true) (ht : tonesOk s.vsw = true → tonesOk y = true) :
    Evolves s0 (w.withVsw y) := by
  have : Evolves s (w.withVsw y) := { g with switch := hs, tones := ht }
  exact h.trans this

/-- A change of VSW's state at the end of operations that leave it alone. -/
theorem Evolves.thenVsw {s0 s w : State} {y : Vsw} (h : Evolves s0 s) (g : Evolves s w)
    (hs : switchOk s.vsw = true → switchOk y = true) (ht : tonesOk s.vsw = true → tonesOk y = true) :
    Evolves s0 (w.withVsw y) := h.aroundVsw (x := s.vsw) g hs ht

theorem tonesOk_iff (v : Vsw) : tonesOk v = true ↔ v.active = topTone v.requested ∧
    v.phaseTimer.isSome = v.active.isSome := by
  simp [tonesOk]

/-! ### Connection and mutes -/

theorem vswLink_evolves {s0 s : State} {p : Pos} (h : Evolves s0 s) : Evolves s0 (vswLink p s) := by
  unfold vswLink
  dsimp only
  split
  · exact h
  · have hv : (touch 30 s).vsw = s.vsw := (touch_lower (Lower.refl s)).vsw
    split
    · exact h.thenVsw (touch_evolves (Evolves.refl s)) (fun _ => rfl) (fun a => by rw [hv]; exact a)
    · exact h.thenVsw (touch_evolves (Evolves.refl s)) (fun _ => rfl) (fun a => by rw [hv]; exact a)

theorem vswUnlink_evolves {s0 s : State} (h : Evolves s0 s) : Evolves s0 (vswUnlink s) :=
  h.withVsw (fun _ => rfl) id

theorem vswGapExpiry_evolves {s0 s : State} (h : Evolves s0 s) : Evolves s0 (vswGapExpiry s) := by
  unfold vswGapExpiry
  split
  · exact h.withVsw (fun _ => rfl) id
  · exact h

theorem vswMutes_evolves {s0 s : State} {x : Bool} (h : Evolves s0 s) : Evolves s0 (vswMutes x s) :=
  h.withVsw id id

/-! ### Tones -/

/-- A tone that is the highest-priority one requested begins. -/
theorem cadenceStart_evolves {s0 s : State} {t : Tone} {x : Vsw} (h : Evolves s0 s)
    (hs : switchOk s.vsw = true → switchOk x = true) (ht : topTone x.requested = some t) :
    Evolves s0 (cadenceStart t (s.withVsw x)) := by
  have hv : (touchAll (cadenceFields t) (s.withVsw x)).vsw = x := (touchAll_lower (Lower.refl _)).vsw
  refine h.aroundVsw (touchAll_evolves (Evolves.refl (s.withVsw x))) (fun a => ?_) (fun _ => ?_)
  · rw [hv]
    exact hs a
  · rw [hv, tonesOk_iff]
    exact ⟨ht.symm, rfl⟩

theorem vswTone_evolves {s0 s : State} {t : Tone} {present : Bool} (h : Evolves s0 s) :
    Evolves s0 (vswTone t present s) := by
  unfold vswTone retune
  dsimp only
  split
  · rename_i hw
    refine h.withVsw id fun a => ?_
    rw [tonesOk_iff] at a ⊢
    exact ⟨hw.symm, a.2⟩
  · split
    · rename_i hw
      refine h.withVsw id fun _ => ?_
      rw [tonesOk_iff]
      exact ⟨hw.symm, rfl⟩
    · rename_i u hw
      exact cadenceStart_evolves (s := s)
        (x := { s.vsw with
                requested := s.vsw.requested.put t present, active := none, phaseOn := false, phaseTimer := none })
        h id hw

theorem vswPhaseExpiry_evolves {s0 s : State} (h : Evolves s0 s) : Evolves s0 (vswPhaseExpiry s) := by
  unfold vswPhaseExpiry
  split
  · rename_i t hp ha
    split
    · split
      · exact vswTone_evolves h
      · refine h.withVsw id fun a => ?_
        rw [tonesOk_iff] at a ⊢
        exact ⟨a.1, by rw [ha]; rfl⟩
    · by_cases hq : topTone s.vsw.requested = some t
      · exact cadenceStart_evolves (x := s.vsw) h id hq
      · have hv : (touchAll (cadenceFields t) s).vsw = s.vsw := (touchAll_lower (Lower.refl _)).vsw
        refine h.thenVsw (touchAll_evolves (Evolves.refl s)) (fun a => ?_) (fun a => ?_)
        · rw [hv]
          exact a
        · rw [tonesOk_iff] at a
          exact absurd (a.1.symm.trans ha) hq
  · exact h

/-! ### The message -/

theorem lmuIdle_evolves {s0 : State} {s : State} (h : Evolves s0 s) :
    Evolves s0 (lmuIdle s) := by
  unfold lmuIdle
  try dsimp only
  repeat' first
    | with_reducible assumption | with_reducible apply Evolves.withLmu

theorem lmuConclude_evolves {s0 : State} {delivered : Bool} {s : State} (h : Evolves s0 s) :
    Evolves s0 (lmuConclude delivered s) := by
  unfold lmuConclude
  try dsimp only
  repeat' first
    | with_reducible assumption | with_reducible apply Evolves.withLmu | with_reducible apply withdrawIf_evolves
    | with_reducible apply vswTone_evolves | with_reducible apply lmuIdle_evolves | with_reducible apply post_evolves
    | with_reducible apply vswMutes_evolves | with_reducible apply raise_evolves | exact id | split

theorem lmuStop_evolves {s0 : State} {s : State} (h : Evolves s0 s) :
    Evolves s0 (lmuStop s) := by
  unfold lmuStop
  try dsimp only
  repeat' first
    | with_reducible assumption | with_reducible apply Evolves.withLmu | with_reducible apply withdrawIf_evolves
    | with_reducible apply vswTone_evolves | with_reducible apply lmuIdle_evolves | exact id | split

theorem lmuSend_evolves {s0 : State} {segment : Nat} {s : State} (h : Evolves s0 s) :
    Evolves s0 (lmuSend segment s).2 := by
  unfold lmuSend
  try dsimp only
  repeat' first
    | with_reducible assumption | with_reducible apply Evolves.withLmu
    | with_reducible refine enqueue_evolves_eq (by assumption) (by decide) ?_
    | with_reducible refine enqueue_evolves (by decide) ?_ | exact id | split

theorem lmuSend_evolves_eq {s0 t : State} {segment : Nat} {s : State} {x : Bool}
    (e : lmuSend segment s = (x, t)) (h : Evolves s0 s) : Evolves s0 t := by
  have := lmuSend_evolves (segment := segment) (s := s) h
  rwa [e] at this

theorem lmuStartTry_evolves {s0 : State} {s : State} (h : Evolves s0 s) :
    Evolves s0 (lmuStartTry s).2 := by
  unfold lmuStartTry
  try dsimp only
  repeat' first
    | with_reducible assumption | with_reducible apply Evolves.withLmu | refine lmuSend_evolves_eq (by assumption) ?_
    | with_reducible refine lmuSend_evolves ?_

theorem lmuStartTry_evolves_eq {s0 t : State} {s : State} {x : Bool}
    (e : lmuStartTry s = (x, t)) (h : Evolves s0 s) : Evolves s0 t := by
  have := lmuStartTry_evolves (s := s) h
  rwa [e] at this

theorem lmuTryFailed_evolves {s0 s : State} {n : Nat} (h : Evolves s0 s) : Evolves s0 (lmuTryFailed n s) := by
  induction n generalizing s with
  | zero => exact h
  | succ n ih =>
    unfold lmuTryFailed
    dsimp only
    have h1 := touch_evolves (index := 21) (h.withLmu (x := { s.lmu with ackTimer := none }))
    split
    · split
      · rename_i e
        exact lmuStartTry_evolves_eq e h1
      · rename_i e
        exact ih (lmuStartTry_evolves_eq e h1)
    · exact lmuConclude_evolves h1

theorem lmuStart_evolves {s0 : State} {p : Pos} {s : State} (h : Evolves s0 s) :
    Evolves s0 (lmuStart p s) := by
  unfold lmuStart
  try dsimp only
  repeat' first
    | with_reducible assumption | with_reducible apply Evolves.withLmu | with_reducible apply vswTone_evolves
    | refine lmuStartTry_evolves_eq (by assumption) ?_ | with_reducible refine lmuStartTry_evolves ?_
    | with_reducible apply lmuStop_evolves | with_reducible apply touchAll_evolves
    | with_reducible apply lmuTryFailed_evolves | exact id | split

theorem lmuReplyOk_evolves {s0 : State} {s : State} (h : Evolves s0 s) :
    Evolves s0 (lmuReplyOk s) := by
  unfold lmuReplyOk
  try dsimp only
  repeat' first
    | with_reducible assumption | with_reducible apply Evolves.withLmu | with_reducible apply touch_evolves
    | with_reducible apply lmuTryFailed_evolves | refine lmuSend_evolves_eq (by assumption) ?_
    | with_reducible refine lmuSend_evolves ?_ | exact id | split

theorem lmuTakeResult_evolves {s0 : State} {number : Nat} {r : LinkResult} {s : State} (h : Evolves s0 s) :
    Evolves s0 (lmuTakeResult number r s) := by
  unfold lmuTakeResult
  try dsimp only
  repeat' first
    | with_reducible assumption | with_reducible apply Evolves.withLmu | with_reducible apply lmuReplyOk_evolves
    | with_reducible apply lmuTryFailed_evolves | exact id | split

theorem lmuTakeVerdict_evolves {s0 : State} {p : Pos} {v : DataVerdict} {s : State} (h : Evolves s0 s) :
    Evolves s0 (lmuTakeVerdict p v s) := by
  unfold lmuTakeVerdict
  try dsimp only
  repeat' first
    | with_reducible assumption | with_reducible apply lmuConclude_evolves | with_reducible apply lmuTryFailed_evolves
    | exact id | split

theorem lmuAckExpiry_evolves {s0 : State} {s : State} (h : Evolves s0 s) :
    Evolves s0 (lmuAckExpiry s) := by
  unfold lmuAckExpiry
  try dsimp only
  repeat' first
    | with_reducible assumption | with_reducible apply lmuTryFailed_evolves | exact id | split

end Sys2Proof.Machine
end

