-- ==== Sys2Proof/Laws/Hunt.lean ====
section
/-! SUPPORT. The watch unit and the hunt: how their operations evolve a state, and what they leave alone above
themselves. -/

namespace Sys2Proof.Machine

/-- What an operation of the watch unit or the hunt, started for any reason but an answer, leaves alone: the call, the
message, the voice switch and every output but LAMP_FAULT. Of the internal events that are not quiet it posts only the end of a TEST hunt. -/
structure Below (s t : State) : Prop where
  cal : t.cal = s.cal
  lmu : t.lmu = s.lmu
  vsw : t.vsw = s.vsw
  kind : t.hnt.kind = s.hnt.kind
  lamps : ∀ o, o ≠ .lampFault → t.bsu.outs.get o = s.bsu.outs.get o
  posts : s.hnt.kind = .emergency → CalmPosts s t

theorem Below.refl (s : State) : Below s s where
  cal := rfl
  lmu := rfl
  vsw := rfl
  kind := rfl
  lamps _ _ := rfl
  posts _ := CalmPosts.refl s

theorem Below.trans {s t u : State} (h : Below s t) (g : Below t u) : Below s u where
  cal := g.cal.trans h.cal
  lmu := g.lmu.trans h.lmu
  vsw := g.vsw.trans h.vsw
  kind := g.kind.trans h.kind
  lamps o x := (g.lamps o x).trans (h.lamps o x)
  posts x := (h.posts x).trans (g.posts (h.kind.trans x))

theorem Lower.toBelow {s t : State} (h : Lower s t) : Below s t where
  cal := h.cal
  lmu := h.lmu
  vsw := h.vsw
  kind := by rw [h.hnt]
  lamps := h.lamps
  posts _ := h.posts

theorem Below.withWch {s0 s : State} (h : Below s0 s) {x : Wch} : Below s0 (s.withWch x) := { h with }

theorem Below.withWatch {s0 s : State} (h : Below s0 s) {p : Pos} {w : Watch} : Below s0 (s.withWatch p w) := { h with }

theorem Below.withModule {s0 s : State} (h : Below s0 s) {p : Pos} {m : Module} : Below s0 (s.withModule p m) :=
  { h with }

theorem Below.withHnt {s0 s : State} (h : Below s0 s) {x : Hnt} (hx : x.kind = s.hnt.kind) : Below s0 (s.withHnt x) :=
  { h with kind := hx.trans h.kind }

theorem Below.withRecord {s0 s : State} (h : Below s0 s) {p : Pos} {a : Option Attempt} :
    Below s0 (s.withRecord p a) := h.withHnt rfl

theorem Evolves.withWatch {s0 s : State} (h : Evolves s0 s) {p : Pos} {w : Watch} : Evolves s0 (s.withWatch p w) :=
  h.withWch

theorem Evolves.withRecord {s0 s : State} (h : Evolves s0 s) {p : Pos} {a : Option Attempt} :
    Evolves s0 (s.withRecord p a) := h.withHnt

theorem post_below {s0 s : State} {m : Msg} (hm : calm m = true) (h : Below s0 s) : Below s0 (post m s) :=
  h.trans (post_link hm (LinkStep.refl s)).toLower.toBelow

/-! ### Watch -/

theorem queueSleep_evolves {s0 : State} {p : Pos} {s : State} (h : Evolves s0 s) :
    Evolves s0 (queueSleep p s) := by
  unfold queueSleep
  try dsimp only
  repeat' first
    | with_reducible assumption | with_reducible refine enqueue_evolves_eq (by assumption) (by decide) ?_
    | with_reducible refine enqueue_evolves (by decide) ?_ | with_reducible apply Evolves.withWatch | exact id | split

theorem enqueue_below {s0 : State} {o : Requester} {p : Pos} {kind : ReqKind} {payload : List Byte} {s : State} (h : Below s0 s) :
    Below s0 (enqueue o p kind payload s).2 := h.trans (enqueue_link (LinkStep.refl _)).toLower.toBelow

theorem enqueue_below_eq {s0 t : State} {o : Requester} {p : Pos} {kind : ReqKind} {payload : List Byte} {s : State} {x : QueueAnswer}
    (e : enqueue o p kind payload s = (x, t)) (h : Below s0 s) : Below s0 t := by
  have := enqueue_below (o := o) (p := p) (kind := kind) (payload := payload) (s := s) h
  rwa [e] at this

theorem queueSleep_below {s0 : State} {p : Pos} {s : State} (h : Below s0 s) :
    Below s0 (queueSleep p s) := by
  unfold queueSleep
  try dsimp only
  repeat' first
    | with_reducible assumption | refine enqueue_below_eq (by assumption) ?_ | with_reducible refine enqueue_below ?_
    | with_reducible apply Below.withWatch | exact id | split

theorem queueWake_evolves {s0 : State} {p : Pos} {s : State} (h : Evolves s0 s) :
    Evolves s0 (queueWake p s).2 := by
  unfold queueWake
  try dsimp only
  repeat' first
    | with_reducible assumption | with_reducible refine enqueue_evolves_eq (by assumption) (by decide) ?_
    | with_reducible refine enqueue_evolves (by decide) ?_ | with_reducible apply Evolves.withWatch | exact id | split

theorem queueWake_evolves_eq {s0 t : State} {p : Pos} {s : State} {x : Bool}
    (e : queueWake p s = (x, t)) (h : Evolves s0 s) : Evolves s0 t := by
  have := queueWake_evolves (p := p) (s := s) h
  rwa [e] at this

theorem queueWake_below {s0 : State} {p : Pos} {s : State} (h : Below s0 s) :
    Below s0 (queueWake p s).2 := by
  unfold queueWake
  try dsimp only
  repeat' first
    | with_reducible assumption | refine enqueue_below_eq (by assumption) ?_ | with_reducible refine enqueue_below ?_
    | with_reducible apply Below.withWatch | exact id | split

theorem queueWake_below_eq {s0 t : State} {p : Pos} {s : State} {x : Bool}
    (e : queueWake p s = (x, t)) (h : Below s0 s) : Below s0 t := by
  have := queueWake_below (p := p) (s := s) h
  rwa [e] at this

theorem startWaking_evolves {s0 : State} {p : Pos} {s : State} (h : Evolves s0 s) :
    Evolves s0 (startWaking p s) := by
  unfold startWaking
  try dsimp only
  repeat' first
    | with_reducible assumption | refine queueWake_evolves_eq (by assumption) ?_
    | with_reducible refine queueWake_evolves ?_ | with_reducible apply Evolves.withWatch | exact id | split

theorem startWaking_below {s0 : State} {p : Pos} {s : State} (h : Below s0 s) :
    Below s0 (startWaking p s) := by
  unfold startWaking
  try dsimp only
  repeat' first
    | with_reducible assumption | refine queueWake_below_eq (by assumption) ?_
    | with_reducible refine queueWake_below ?_ | with_reducible apply Below.withWatch | exact id | split

theorem queueFetch_evolves {s0 : State} {p : Pos} {s : State} (h : Evolves s0 s) :
    Evolves s0 (queueFetch p s) := by
  unfold queueFetch
  try dsimp only
  repeat' first
    | with_reducible assumption | with_reducible refine enqueue_evolves_eq (by assumption) (by decide) ?_
    | with_reducible refine enqueue_evolves (by decide) ?_ | with_reducible apply Evolves.withWatch | exact id | split

theorem queueFetch_below {s0 : State} {p : Pos} {s : State} (h : Below s0 s) :
    Below s0 (queueFetch p s) := by
  unfold queueFetch
  try dsimp only
  repeat' first
    | with_reducible assumption | refine enqueue_below_eq (by assumption) ?_ | with_reducible refine enqueue_below ?_
    | with_reducible apply Below.withWatch | exact id | split

theorem wakeIfWanted_evolves {s0 : State} {p : Pos} {s : State} (h : Evolves s0 s) :
    Evolves s0 (wakeIfWanted p s) := by
  unfold wakeIfWanted
  try dsimp only
  repeat' first
    | with_reducible assumption | with_reducible apply startWaking_evolves | exact id | split

theorem wakeIfWanted_below {s0 : State} {p : Pos} {s : State} (h : Below s0 s) :
    Below s0 (wakeIfWanted p s) := by
  unfold wakeIfWanted
  try dsimp only
  repeat' first
    | with_reducible assumption | with_reducible apply startWaking_below | exact id | split

theorem settleScanOrder_evolves {s0 : State} {s : State} (h : Evolves s0 s) :
    Evolves s0 (settleScanOrder s) := by
  unfold settleScanOrder
  try dsimp only
  repeat' first
    | with_reducible assumption | with_reducible apply complete_evolves | with_reducible apply Evolves.withWch
    | exact id | split

theorem complete_below {s0 : State} {held : Held} {outcome : OrderOutcome} {detail : Word} {s : State} (h : Below s0 s) :
    Below s0 (complete held outcome detail s) := h.trans (complete_link (LinkStep.refl _)).toLower.toBelow

theorem settleScanOrder_below {s0 : State} {s : State} (h : Below s0 s) :
    Below s0 (settleScanOrder s) := by
  unfold settleScanOrder
  try dsimp only
  repeat' first
    | with_reducible assumption | with_reducible apply complete_below | with_reducible apply Below.withWch | exact id
    | split

theorem settleGather_evolves {s0 : State} {s : State} (h : Evolves s0 s) :
    Evolves s0 (settleGather s) := by
  unfold settleGather
  try dsimp only
  repeat' first
    | with_reducible assumption | with_reducible apply post_evolves | with_reducible apply Evolves.withWch | exact id
    | split

theorem settleGather_below {s0 : State} {s : State} (h : Below s0 s) :
    Below s0 (settleGather s) := by
  unfold settleGather
  try dsimp only
  repeat' first
    | with_reducible assumption | with_reducible refine post_below ?_ ?_ | with_reducible apply Below.withWch
    | (show _ = _; rfl) | exact id | split

theorem endMember_evolves {s0 : State} {p : Pos} {s : State} (h : Evolves s0 s) :
    Evolves s0 (endMember p s) := by
  unfold endMember
  try dsimp only
  repeat' first
    | with_reducible assumption | with_reducible apply settleScanOrder_evolves
    | with_reducible apply settleGather_evolves | with_reducible apply Evolves.withWatch
    | with_reducible apply Evolves.withWch

theorem endMember_below {s0 : State} {p : Pos} {s : State} (h : Below s0 s) :
    Below s0 (endMember p s) := by
  unfold endMember
  try dsimp only
  repeat' first
    | with_reducible assumption | with_reducible apply settleScanOrder_below | with_reducible apply settleGather_below
    | with_reducible apply Below.withWatch | with_reducible apply Below.withWch

theorem startScan_evolves {s0 : State} {p : Pos} {s : State} (h : Evolves s0 s) :
    Evolves s0 (startScan p s) := by
  unfold startScan
  try dsimp only
  repeat' first
    | with_reducible assumption | with_reducible apply touch_evolves
    | with_reducible refine enqueue_evolves_eq (by assumption) (by decide) ?_
    | with_reducible refine enqueue_evolves (by decide) ?_ | with_reducible apply Evolves.withWatch
    | with_reducible apply Evolves.withWch | exact id | split

theorem touch_below {s0 : State} {index : Nat} {s : State} (h : Below s0 s) :
    Below s0 (touch index s) := h.trans (touch_lower (Lower.refl _)).toBelow

theorem startScan_below {s0 : State} {p : Pos} {s : State} (h : Below s0 s) :
    Below s0 (startScan p s) := by
  unfold startScan
  try dsimp only
  repeat' first
    | with_reducible assumption | with_reducible apply touch_below | refine enqueue_below_eq (by assumption) ?_
    | with_reducible refine enqueue_below ?_ | with_reducible apply Below.withWatch
    | with_reducible apply Below.withWch | exact id | split

theorem startScans_evolves {s0 s : State} {n : Nat} {ps : List Pos} (h : Evolves s0 s) :
    Evolves s0 (startScans n ps s) := by
  induction n generalizing s ps with
  | zero => exact h
  | succ n ih =>
    unfold startScans
    dsimp only
    split
    · exact h
    · split
      · exact h
      · split
        · exact ih (endMember_evolves h)
        · exact ih (startScan_evolves h)

theorem startScans_below {s0 s : State} {n : Nat} {ps : List Pos} (h : Below s0 s) :
    Below s0 (startScans n ps s) := by
  induction n generalizing s ps with
  | zero => exact h
  | succ n ih =>
    unfold startScans
    dsimp only
    split
    · exact h
    · split
      · exact h
      · split
        · exact ih (endMember_below h)
        · exact ih (startScan_below h)

theorem examine_evolves {s0 : State} {s : State} (h : Evolves s0 s) :
    Evolves s0 (examine s) := by
  unfold examine
  try dsimp only
  repeat' first
    | with_reducible assumption | with_reducible apply startScans_evolves | with_reducible apply touch_evolves
    | with_reducible apply wakeIfWanted_evolves

theorem examine_below {s0 : State} {s : State} (h : Below s0 s) :
    Below s0 (examine s) := by
  unfold examine
  try dsimp only
  repeat' first
    | with_reducible assumption | with_reducible apply startScans_below | with_reducible apply touch_below
    | with_reducible apply wakeIfWanted_below

theorem sleepAfterScan_evolves {s0 : State} {p : Pos} {s : State} (h : Evolves s0 s) :
    Evolves s0 (sleepAfterScan p s) := by
  unfold sleepAfterScan
  try dsimp only
  repeat' first
    | with_reducible assumption | with_reducible apply queueSleep_evolves | exact id | split

theorem sleepAfterScan_below {s0 : State} {p : Pos} {s : State} (h : Below s0 s) :
    Below s0 (sleepAfterScan p s) := by
  unfold sleepAfterScan
  try dsimp only
  repeat' first
    | with_reducible assumption | with_reducible apply queueSleep_below | exact id | split

theorem scanEndNoExamine_evolves {s0 : State} {p : Pos} {s : State} (h : Evolves s0 s) :
    Evolves s0 (scanEndNoExamine p s) := by
  unfold scanEndNoExamine
  try dsimp only
  repeat' first
    | with_reducible assumption | with_reducible apply withdrawIf_evolves | with_reducible apply touch_evolves
    | with_reducible apply Evolves.withWatch | with_reducible apply endMember_evolves
    | with_reducible apply sleepAfterScan_evolves

theorem withdrawIf_below {s0 : State} {o : Requester} {n : Option Nat} {s : State} (h : Below s0 s) :
    Below s0 (withdrawIf o n s) := h.trans (withdrawIf_link (LinkStep.refl _)).toLower.toBelow

theorem scanEndNoExamine_below {s0 : State} {p : Pos} {s : State} (h : Below s0 s) :
    Below s0 (scanEndNoExamine p s) := by
  unfold scanEndNoExamine
  try dsimp only
  repeat' first
    | with_reducible assumption | with_reducible apply withdrawIf_below | with_reducible apply touch_below
    | with_reducible apply Below.withWatch | with_reducible apply endMember_below
    | with_reducible apply sleepAfterScan_below

theorem scanEnd_evolves {s0 : State} {p : Pos} {s : State} (h : Evolves s0 s) :
    Evolves s0 (scanEnd p s) := by
  unfold scanEnd
  try dsimp only
  repeat' first
    | with_reducible assumption | with_reducible apply examine_evolves | with_reducible apply scanEndNoExamine_evolves

theorem scanEnd_below {s0 : State} {p : Pos} {s : State} (h : Below s0 s) :
    Below s0 (scanEnd p s) := by
  unfold scanEnd
  try dsimp only
  repeat' first
    | with_reducible assumption | with_reducible apply examine_below | with_reducible apply scanEndNoExamine_below

theorem sleepAtDoze_evolves {s0 : State} {p : Pos} {s : State} (h : Evolves s0 s) :
    Evolves s0 (sleepAtDoze p s) := by
  unfold sleepAtDoze
  try dsimp only
  repeat' first
    | with_reducible assumption | with_reducible apply queueSleep_evolves | exact id | split

theorem sleepAtDoze_below {s0 : State} {p : Pos} {s : State} (h : Below s0 s) :
    Below s0 (sleepAtDoze p s) := by
  unfold sleepAtDoze
  try dsimp only
  repeat' first
    | with_reducible assumption | with_reducible apply queueSleep_below | exact id | split

theorem enterDoze_evolves {s0 : State} {s : State} (h : Evolves s0 s) :
    Evolves s0 (enterDoze s) := by
  unfold enterDoze
  try dsimp only
  repeat' first
    | with_reducible assumption | with_reducible apply examine_evolves | with_reducible apply mlcInterval_evolves
    | with_reducible apply touch_evolves | with_reducible apply Evolves.withWch
    | with_reducible apply sleepAtDoze_evolves

theorem mlcInterval_below {s0 : State} {s : State} (h : Below s0 s) :
    Below s0 (mlcInterval s) := h.trans (mlcInterval_link (LinkStep.refl _)).toLower.toBelow

theorem enterDoze_below {s0 : State} {s : State} (h : Below s0 s) :
    Below s0 (enterDoze s) := by
  unfold enterDoze
  try dsimp only
  repeat' first
    | with_reducible assumption | with_reducible apply examine_below | with_reducible apply mlcInterval_below
    | with_reducible apply touch_below | with_reducible apply Below.withWch | with_reducible apply sleepAtDoze_below

theorem forgetSleep_evolves {s0 : State} {p : Pos} {n : Nat} {s : State} (h : Evolves s0 s) :
    Evolves s0 (forgetSleep p n s) := h.withWatch

theorem withdrawOneSleep_evolves {s0 : State} {p : Pos} {n : Nat} {s : State} (h : Evolves s0 s) :
    Evolves s0 (withdrawOneSleep p s n) := by
  unfold withdrawOneSleep
  try dsimp only
  repeat' first
    | with_reducible assumption | with_reducible apply forgetSleep_evolves
    | refine withdraw_evolves_eq (by assumption) ?_ | with_reducible refine withdraw_evolves ?_ | exact id | split

theorem withdrawSleeps_evolves {s0 : State} {p : Pos} (ns : List Nat) {s : State} (h : Evolves s0 s) :
    Evolves s0 (ns.foldl (withdrawOneSleep p) s) := by
  induction ns generalizing s with
  | nil => exact h
  | cons n ns ih => exact ih (withdrawOneSleep_evolves h)

theorem withdrawSleep_evolves {s0 : State} {p : Pos} {s : State} (h : Evolves s0 s) :
    Evolves s0 (withdrawSleep p s) := withdrawSleeps_evolves _ h

theorem withdraw_below {s0 : State} {o : Requester} {n : Nat} {s : State} (h : Below s0 s) :
    Below s0 (withdraw o n s).2 := h.trans (withdraw_link (LinkStep.refl _)).toLower.toBelow

theorem withdraw_below_eq {s0 t : State} {o : Requester} {n : Nat} {s : State} {x : Withdrawal}
    (e : withdraw o n s = (x, t)) (h : Below s0 s) : Below s0 t := by
  have := withdraw_below (o := o) (n := n) (s := s) h
  rwa [e] at this

theorem forgetSleep_below {s0 : State} {p : Pos} {n : Nat} {s : State} (h : Below s0 s) :
    Below s0 (forgetSleep p n s) := h.withWatch

theorem withdrawOneSleep_below {s0 : State} {p : Pos} {n : Nat} {s : State} (h : Below s0 s) :
    Below s0 (withdrawOneSleep p s n) := by
  unfold withdrawOneSleep
  try dsimp only
  repeat' first
    | with_reducible assumption | with_reducible apply forgetSleep_below | refine withdraw_below_eq (by assumption) ?_
    | with_reducible refine withdraw_below ?_ | exact id | split

theorem withdrawSleeps_below {s0 : State} {p : Pos} (ns : List Nat) {s : State} (h : Below s0 s) :
    Below s0 (ns.foldl (withdrawOneSleep p) s) := by
  induction ns generalizing s with
  | nil => exact h
  | cons n ns ih => exact ih (withdrawOneSleep_below h)

theorem withdrawSleep_below {s0 : State} {p : Pos} {s : State} (h : Below s0 s) :
    Below s0 (withdrawSleep p s) := withdrawSleeps_below _ h

theorem wakeAsleep_evolves {s0 : State} {p : Pos} {s : State} (h : Evolves s0 s) :
    Evolves s0 (wakeAsleep p s) := by
  unfold wakeAsleep
  try dsimp only
  repeat' first
    | with_reducible assumption | refine queueWake_evolves_eq (by assumption) ?_
    | with_reducible refine queueWake_evolves ?_ | exact id | split

theorem wakeAsleep_below {s0 : State} {p : Pos} {s : State} (h : Below s0 s) :
    Below s0 (wakeAsleep p s) := by
  unfold wakeAsleep
  try dsimp only
  repeat' first
    | with_reducible assumption | refine queueWake_below_eq (by assumption) ?_
    | with_reducible refine queueWake_below ?_ | exact id | split

theorem leaveDoze_evolves {s0 : State} {s : State} (h : Evolves s0 s) :
    Evolves s0 (leaveDoze s) := by
  unfold leaveDoze
  try dsimp only
  repeat' first
    | with_reducible assumption | with_reducible apply examine_evolves | with_reducible apply mlcInterval_evolves
    | with_reducible apply withdrawSleep_evolves | with_reducible apply Evolves.withWch
    | with_reducible apply wakeAsleep_evolves | exact id | split

theorem leaveDoze_below {s0 : State} {s : State} (h : Below s0 s) :
    Below s0 (leaveDoze s) := by
  unfold leaveDoze
  try dsimp only
  repeat' first
    | with_reducible assumption | with_reducible apply examine_below | with_reducible apply mlcInterval_below
    | with_reducible apply withdrawSleep_below | with_reducible apply Below.withWch
    | with_reducible apply wakeAsleep_below | exact id | split

theorem wchDoze_evolves {s0 : State} {s : State} (h : Evolves s0 s) :
    Evolves s0 (wchDoze s) := by
  unfold wchDoze
  try dsimp only
  repeat' first
    | with_reducible assumption | with_reducible apply enterDoze_evolves | with_reducible apply Evolves.withWch
    | exact id | split

theorem wchDoze_below {s0 : State} {s : State} (h : Below s0 s) :
    Below s0 (wchDoze s) := by
  unfold wchDoze
  try dsimp only
  repeat' first
    | with_reducible assumption | with_reducible apply enterDoze_below | with_reducible apply Below.withWch | exact id
    | split

theorem wchWake_evolves {s0 : State} {s : State} (h : Evolves s0 s) :
    Evolves s0 (wchWake s) := by
  unfold wchWake
  try dsimp only
  repeat' first
    | with_reducible assumption | with_reducible apply leaveDoze_evolves | with_reducible apply Evolves.withWch

theorem wchWake_below {s0 : State} {s : State} (h : Below s0 s) :
    Below s0 (wchWake s) := by
  unfold wchWake
  try dsimp only
  repeat' first
    | with_reducible assumption | with_reducible apply leaveDoze_below | with_reducible apply Below.withWch

theorem wchCallStart_evolves {s0 : State} {s : State} (h : Evolves s0 s) :
    Evolves s0 (wchCallStart s) := by
  unfold wchCallStart
  try dsimp only
  repeat' first
    | with_reducible assumption | with_reducible apply leaveDoze_evolves

theorem wchCallStart_below {s0 : State} {s : State} (h : Below s0 s) :
    Below s0 (wchCallStart s) := by
  unfold wchCallStart
  try dsimp only
  repeat' first
    | with_reducible assumption | with_reducible apply leaveDoze_below

theorem wchCallState_evolves {s0 : State} {s : State} (h : Evolves s0 s) :
    Evolves s0 (wchCallState s) := by
  unfold wchCallState
  try dsimp only
  repeat' first
    | with_reducible assumption | with_reducible apply enterDoze_evolves | with_reducible apply leaveDoze_evolves
    | with_reducible apply Evolves.withWch | exact id | split

theorem wchCallState_below {s0 : State} {s : State} (h : Below s0 s) :
    Below s0 (wchCallState s) := by
  unfold wchCallState
  try dsimp only
  repeat' first
    | with_reducible assumption | with_reducible apply enterDoze_below | with_reducible apply leaveDoze_below
    | with_reducible apply Below.withWch | exact id | split

theorem queueAgain_evolves {s0 : State} {p : Pos} {s : State} (h : Evolves s0 s) :
    Evolves s0 (queueAgain p s) := by
  unfold queueAgain
  try dsimp only
  repeat' first
    | with_reducible assumption | with_reducible apply queueFetch_evolves
    | refine queueWake_evolves_eq (by assumption) ?_ | with_reducible refine queueWake_evolves ?_
    | with_reducible apply Evolves.withWatch | exact id | split

theorem queueAgain_below {s0 : State} {p : Pos} {s : State} (h : Below s0 s) :
    Below s0 (queueAgain p s) := by
  unfold queueAgain
  try dsimp only
  repeat' first
    | with_reducible assumption | with_reducible apply queueFetch_below | refine queueWake_below_eq (by assumption) ?_
    | with_reducible refine queueWake_below ?_ | with_reducible apply Below.withWatch | exact id | split

theorem upkeepPos_evolves {s0 : State} {p : Pos} {s : State} (h : Evolves s0 s) :
    Evolves s0 (upkeepPos p s) := by
  unfold upkeepPos
  try dsimp only
  repeat' first
    | with_reducible assumption | with_reducible apply queueSleep_evolves
    | refine queueWake_evolves_eq (by assumption) ?_ | with_reducible refine queueWake_evolves ?_ | exact id | split

theorem upkeepPos_below {s0 : State} {p : Pos} {s : State} (h : Below s0 s) :
    Below s0 (upkeepPos p s) := by
  unfold upkeepPos
  try dsimp only
  repeat' first
    | with_reducible assumption | with_reducible apply queueSleep_below | refine queueWake_below_eq (by assumption) ?_
    | with_reducible refine queueWake_below ?_ | exact id | split

theorem upkeep_evolves {s0 : State} {s : State} (h : Evolves s0 s) :
    Evolves s0 (upkeep s) := by
  unfold upkeep
  try dsimp only
  repeat' first
    | with_reducible assumption | with_reducible apply examine_evolves | with_reducible apply upkeepPos_evolves
    | with_reducible apply queueAgain_evolves | with_reducible apply touch_evolves | exact id | split

theorem upkeep_below {s0 : State} {s : State} (h : Below s0 s) :
    Below s0 (upkeep s) := by
  unfold upkeep
  try dsimp only
  repeat' first
    | with_reducible assumption | with_reducible apply examine_below | with_reducible apply upkeepPos_below
    | with_reducible apply queueAgain_below | with_reducible apply touch_below | exact id | split

theorem wchIntervalExpiry_evolves {s0 : State} {p : Pos} {s : State} (h : Evolves s0 s) :
    Evolves s0 (wchIntervalExpiry p s) := by
  unfold wchIntervalExpiry
  try dsimp only
  repeat' first
    | with_reducible assumption | with_reducible apply examine_evolves | with_reducible apply Evolves.withWatch
    | exact id | split

theorem wchIntervalExpiry_below {s0 : State} {p : Pos} {s : State} (h : Below s0 s) :
    Below s0 (wchIntervalExpiry p s) := by
  unfold wchIntervalExpiry
  try dsimp only
  repeat' first
    | with_reducible assumption | with_reducible apply examine_below | with_reducible apply Below.withWatch | exact id
    | split

theorem wchLimitExpiry_evolves {s0 : State} {p : Pos} {s : State} (h : Evolves s0 s) :
    Evolves s0 (wchLimitExpiry p s) := by
  unfold wchLimitExpiry
  try dsimp only
  repeat' first
    | with_reducible assumption | with_reducible apply scanEnd_evolves | exact id | split

theorem wchLimitExpiry_below {s0 : State} {p : Pos} {s : State} (h : Below s0 s) :
    Below s0 (wchLimitExpiry p s) := by
  unfold wchLimitExpiry
  try dsimp only
  repeat' first
    | with_reducible assumption | with_reducible apply scanEnd_below | exact id | split

theorem wchStaggerExpiry_evolves {s0 : State} {s : State} (h : Evolves s0 s) :
    Evolves s0 (wchStaggerExpiry s) := by
  unfold wchStaggerExpiry
  try dsimp only
  repeat' first
    | with_reducible assumption | with_reducible apply examine_evolves | with_reducible apply Evolves.withWch
    | exact id | split

theorem wchStaggerExpiry_below {s0 : State} {s : State} (h : Below s0 s) :
    Below s0 (wchStaggerExpiry s) := by
  unfold wchStaggerExpiry
  try dsimp only
  repeat' first
    | with_reducible assumption | with_reducible apply examine_below | with_reducible apply Below.withWch | exact id
    | split

theorem wchScanResult_evolves {s0 : State} {p : Pos} {r : LinkResult} {s : State} (h : Evolves s0 s) :
    Evolves s0 (wchScanResult p r s) := by
  unfold wchScanResult
  try dsimp only
  repeat' first
    | with_reducible assumption | with_reducible apply scanEnd_evolves | with_reducible apply Evolves.withWatch
    | exact id | split

theorem wchScanResult_below {s0 : State} {p : Pos} {r : LinkResult} {s : State} (h : Below s0 s) :
    Below s0 (wchScanResult p r s) := by
  unfold wchScanResult
  try dsimp only
  repeat' first
    | with_reducible assumption | with_reducible apply scanEnd_below | with_reducible apply Below.withWatch | exact id
    | split

theorem wchFetchResult_evolves {s0 : State} {p : Pos} {r : LinkResult} {s : State} (h : Evolves s0 s) :
    Evolves s0 (wchFetchResult p r s) := by
  unfold wchFetchResult
  try dsimp only
  repeat' first
    | with_reducible assumption | with_reducible apply scanEnd_evolves | with_reducible apply Evolves.withWatch
    | exact id | split

theorem wchFetchResult_below {s0 : State} {p : Pos} {r : LinkResult} {s : State} (h : Below s0 s) :
    Below s0 (wchFetchResult p r s) := by
  unfold wchFetchResult
  try dsimp only
  repeat' first
    | with_reducible assumption | with_reducible apply scanEnd_below | with_reducible apply Below.withWatch | exact id
    | split

theorem wchWakeResult_evolves {s0 : State} {p : Pos} {r : LinkResult} {s : State} (h : Evolves s0 s) :
    Evolves s0 (wchWakeResult p r s) := by
  unfold wchWakeResult
  try dsimp only
  repeat' first
    | with_reducible assumption | with_reducible apply scanEnd_evolves | with_reducible apply Evolves.withWatch
    | exact id | split

theorem wchWakeResult_below {s0 : State} {p : Pos} {r : LinkResult} {s : State} (h : Below s0 s) :
    Below s0 (wchWakeResult p r s) := by
  unfold wchWakeResult
  try dsimp only
  repeat' first
    | with_reducible assumption | with_reducible apply scanEnd_below | with_reducible apply Below.withWatch | exact id
    | split

theorem wchTakeResult_evolves {s0 : State} {p : Pos} {number : Nat} {kind : ReqKind} {r : LinkResult} {s : State} (h : Evolves s0 s) :
    Evolves s0 (wchTakeResult p number kind r s) := by
  unfold wchTakeResult
  try dsimp only
  repeat' first
    | with_reducible assumption | with_reducible apply wchScanResult_evolves
    | with_reducible apply wchWakeResult_evolves | with_reducible apply wchFetchResult_evolves
    | with_reducible apply forgetSleep_evolves | exact id | split

theorem wchTakeResult_below {s0 : State} {p : Pos} {number : Nat} {kind : ReqKind} {r : LinkResult} {s : State} (h : Below s0 s) :
    Below s0 (wchTakeResult p number kind r s) := by
  unfold wchTakeResult
  try dsimp only
  repeat' first
    | with_reducible assumption | with_reducible apply wchScanResult_below | with_reducible apply wchWakeResult_below
    | with_reducible apply wchFetchResult_below | with_reducible apply forgetSleep_below | exact id | split

theorem wchTakeList_evolves {s0 : State} {p : Pos} {number : Nat} {s : State} (h : Evolves s0 s) :
    Evolves s0 (wchTakeList p number s) := by
  unfold wchTakeList
  try dsimp only
  repeat' first
    | with_reducible assumption | with_reducible apply scanEnd_evolves | with_reducible apply Evolves.withWatch
    | exact id | split

theorem wchTakeList_below {s0 : State} {p : Pos} {number : Nat} {s : State} (h : Below s0 s) :
    Below s0 (wchTakeList p number s) := by
  unfold wchTakeList
  try dsimp only
  repeat' first
    | with_reducible assumption | with_reducible apply scanEnd_below | with_reducible apply Below.withWatch | exact id
    | split

theorem wchTakeReady_evolves {s0 : State} {p : Pos} {count : Byte} {s : State} (h : Evolves s0 s) :
    Evolves s0 (wchTakeReady p count s) := by
  unfold wchTakeReady
  try dsimp only
  repeat' first
    | with_reducible assumption | with_reducible apply scanEnd_evolves | with_reducible apply queueFetch_evolves
    | with_reducible apply Evolves.withWatch | exact id | split

theorem wchTakeReady_below {s0 : State} {p : Pos} {count : Byte} {s : State} (h : Below s0 s) :
    Below s0 (wchTakeReady p count s) := by
  unfold wchTakeReady
  try dsimp only
  repeat' first
    | with_reducible assumption | with_reducible apply scanEnd_below | with_reducible apply queueFetch_below
    | with_reducible apply Below.withWatch | exact id | split

theorem endAtDeparture_evolves {s0 : State} {p : Pos} {s : State} (h : Evolves s0 s) :
    Evolves s0 (endAtDeparture p s) := by
  unfold endAtDeparture
  try dsimp only
  repeat' first
    | with_reducible assumption | with_reducible apply endMember_evolves
    | with_reducible apply scanEndNoExamine_evolves | exact id | split

theorem endAtDeparture_below {s0 : State} {p : Pos} {s : State} (h : Below s0 s) :
    Below s0 (endAtDeparture p s) := by
  unfold endAtDeparture
  try dsimp only
  repeat' first
    | with_reducible assumption | with_reducible apply endMember_below | with_reducible apply scanEndNoExamine_below
    | exact id | split

theorem wchTakeModule_evolves {s0 : State} {p : Pos} {old : ModState} {new : ModState} {s : State} (h : Evolves s0 s) :
    Evolves s0 (wchTakeModule p old new s) := by
  unfold wchTakeModule
  try dsimp only
  repeat' first
    | with_reducible assumption | with_reducible apply examine_evolves | with_reducible apply Evolves.withWatch
    | with_reducible apply endAtDeparture_evolves | exact id | split

theorem wchTakeModule_below {s0 : State} {p : Pos} {old : ModState} {new : ModState} {s : State} (h : Below s0 s) :
    Below s0 (wchTakeModule p old new s) := by
  unfold wchTakeModule
  try dsimp only
  repeat' first
    | with_reducible assumption | with_reducible apply examine_below | with_reducible apply Below.withWatch
    | with_reducible apply endAtDeparture_below | exact id | split

theorem wchTakeRole_evolves {s0 : State} {p : Pos} {s : State} (h : Evolves s0 s) :
    Evolves s0 (wchTakeRole p s) := by
  unfold wchTakeRole
  try dsimp only
  repeat' first
    | with_reducible assumption | with_reducible apply examine_evolves | with_reducible apply Evolves.withWatch
    | with_reducible apply scanEndNoExamine_evolves | exact id | split

theorem wchTakeRole_below {s0 : State} {p : Pos} {s : State} (h : Below s0 s) :
    Below s0 (wchTakeRole p s) := by
  unfold wchTakeRole
  try dsimp only
  repeat' first
    | with_reducible assumption | with_reducible apply examine_below | with_reducible apply Below.withWatch
    | with_reducible apply scanEndNoExamine_below | exact id | split

theorem regather_evolves {s0 : State} {list : PerPos Bool} {p : Pos} {s : State} (h : Evolves s0 s) :
    Evolves s0 (regather list p s) := by
  unfold regather
  try dsimp only
  repeat' first
    | with_reducible assumption | with_reducible apply Evolves.withWatch | exact id | split

theorem regather_below {s0 : State} {list : PerPos Bool} {p : Pos} {s : State} (h : Below s0 s) :
    Below s0 (regather list p s) := by
  unfold regather
  try dsimp only
  repeat' first
    | with_reducible assumption | with_reducible apply Below.withWatch | exact id | split

theorem wchGather_evolves {s0 : State} {list : PerPos Bool} {s : State} (h : Evolves s0 s) :
    Evolves s0 (wchGather list s) := by
  unfold wchGather
  try dsimp only
  repeat' first
    | with_reducible assumption | with_reducible apply regather_evolves | with_reducible apply Evolves.withWch

theorem wchGather_below {s0 : State} {list : PerPos Bool} {s : State} (h : Below s0 s) :
    Below s0 (wchGather list s) := by
  unfold wchGather
  try dsimp only
  repeat' first
    | with_reducible assumption | with_reducible apply regather_below | with_reducible apply Below.withWch

theorem requestMember_evolves {s0 : State} {member : PerPos Bool} {p : Pos} {s : State} (h : Evolves s0 s) :
    Evolves s0 (requestMember member p s) := by
  unfold requestMember
  try dsimp only
  repeat' first
    | with_reducible assumption | with_reducible apply Evolves.withWatch | with_reducible apply wakeIfWanted_evolves
    | exact id | split

theorem requestMember_below {s0 : State} {member : PerPos Bool} {p : Pos} {s : State} (h : Below s0 s) :
    Below s0 (requestMember member p s) := by
  unfold requestMember
  try dsimp only
  repeat' first
    | with_reducible assumption | with_reducible apply Below.withWatch | with_reducible apply wakeIfWanted_below
    | exact id | split

theorem wchScanOrder_evolves {s0 : State} {held : Held} {fresh : Bool} {s : State} (h : Evolves s0 s) :
    Evolves s0 (wchScanOrder held fresh s) := by
  unfold wchScanOrder
  try dsimp only
  repeat' first
    | with_reducible assumption | with_reducible apply settleScanOrder_evolves | with_reducible apply ctuPurge_evolves
    | with_reducible apply complete_evolves | with_reducible apply Evolves.withWch
    | with_reducible apply requestMember_evolves | exact id | split

theorem ctuPurge_below {s0 : State} {s : State} (h : Below s0 s) :
    Below s0 (ctuPurge s) := h.trans (ctuPurge_link (LinkStep.refl _)).toLower.toBelow

theorem wchScanOrder_below {s0 : State} {held : Held} {fresh : Bool} {s : State} (h : Below s0 s) :
    Below s0 (wchScanOrder held fresh s) := by
  unfold wchScanOrder
  try dsimp only
  repeat' first
    | with_reducible assumption | with_reducible apply settleScanOrder_below | with_reducible apply ctuPurge_below
    | with_reducible apply complete_below | with_reducible apply Below.withWch
    | with_reducible apply requestMember_below | exact id | split

/-! ### Hunt -/

theorem putRecord_evolves {s0 : State} {p : Pos} {a : Attempt} {s : State} (h : Evolves s0 s) :
    Evolves s0 (putRecord p a s) := by
  unfold putRecord
  try dsimp only
  repeat' first
    | with_reducible assumption | with_reducible apply post_evolves | with_reducible apply Evolves.withRecord

theorem putRecord_below {s0 : State} {p : Pos} {a : Attempt} {s : State} (h : Below s0 s) :
    Below s0 (putRecord p a s) := by
  unfold putRecord
  try dsimp only
  repeat' first
    | with_reducible assumption | with_reducible refine post_below ?_ ?_ | with_reducible apply Below.withRecord
    | (show _ = _; rfl)

theorem attemptsClear_evolves {s0 : State} {s : State} (h : Evolves s0 s) :
    Evolves s0 (attemptsClear s) := by
  unfold attemptsClear
  try dsimp only
  repeat' first
    | with_reducible assumption | with_reducible apply post_evolves

theorem attemptsClear_below {s0 : State} {s : State} (h : Below s0 s) :
    Below s0 (attemptsClear s) := by
  unfold attemptsClear
  try dsimp only
  repeat' first
    | with_reducible assumption | with_reducible refine post_below ?_ ?_ | (show _ = _; rfl)

theorem strayRelease_evolves {s0 : State} {p : Pos} {s : State} (h : Evolves s0 s) :
    Evolves s0 (strayRelease p s) := by
  unfold strayRelease
  try dsimp only
  repeat' first
    | with_reducible assumption | with_reducible apply Evolves.withHnt
    | with_reducible refine enqueue_evolves_eq (by assumption) (by decide) ?_
    | with_reducible refine enqueue_evolves (by decide) ?_ | exact id | split

theorem strayRelease_below {s0 : State} {p : Pos} {s : State} (h : Below s0 s) :
    Below s0 (strayRelease p s) := by
  unfold strayRelease
  try dsimp only
  repeat' first
    | with_reducible assumption | with_reducible apply Below.withHnt | refine enqueue_below_eq (by assumption) ?_
    | with_reducible refine enqueue_below ?_ | (show _ = _; rfl) | exact id | split

theorem dropRecord_evolves {s0 : State} {p : Pos} {a : Attempt} {o : Outcome} {s : State} (h : Evolves s0 s) :
    Evolves s0 (dropRecord p a o s) := by
  unfold dropRecord
  try dsimp only
  repeat' first
    | with_reducible assumption | with_reducible apply post_evolves | with_reducible apply ctuOutcome_evolves
    | with_reducible apply Evolves.withRecord

theorem ctuOutcome_below {s0 : State} {o : Outcome} {k : Key} {s : State} (h : Below s0 s) :
    Below s0 (ctuOutcome o k s) := h.trans (ctuOutcome_lower (Lower.refl _)).toBelow

theorem dropRecord_below {s0 : State} {p : Pos} {a : Attempt} {o : Outcome} {s : State} (h : Below s0 s) :
    Below s0 (dropRecord p a o s) := by
  unfold dropRecord
  try dsimp only
  repeat' first
    | with_reducible assumption | with_reducible refine post_below ?_ ?_ | with_reducible apply ctuOutcome_below
    | with_reducible apply Below.withRecord | (show _ = _; rfl)

theorem endRecord_evolves {s0 : State} {p : Pos} {a : Attempt} {o : Outcome} {s : State} (h : Evolves s0 s) :
    Evolves s0 (endRecord p a o s) := by
  unfold endRecord
  try dsimp only
  repeat' first
    | with_reducible assumption | with_reducible apply dropRecord_evolves | with_reducible apply strayRelease_evolves
    | exact id | split

theorem endRecord_below {s0 : State} {p : Pos} {a : Attempt} {o : Outcome} {s : State} (h : Below s0 s) :
    Below s0 (endRecord p a o s) := by
  unfold endRecord
  try dsimp only
  repeat' first
    | with_reducible assumption | with_reducible apply dropRecord_below | with_reducible apply strayRelease_below
    | exact id | split

theorem beginRelease_evolves {s0 : State} {p : Pos} {a : Attempt} {o : Outcome} {s : State} (h : Evolves s0 s) :
    Evolves s0 (beginRelease p a o s) := by
  unfold beginRelease
  try dsimp only
  repeat' first
    | with_reducible assumption | with_reducible apply putRecord_evolves
    | with_reducible refine enqueue_evolves_eq (by assumption) (by decide) ?_
    | with_reducible refine enqueue_evolves (by decide) ?_ | with_reducible apply endRecord_evolves | exact id | split

theorem beginRelease_below {s0 : State} {p : Pos} {a : Attempt} {o : Outcome} {s : State} (h : Below s0 s) :
    Below s0 (beginRelease p a o s) := by
  unfold beginRelease
  try dsimp only
  repeat' first
    | with_reducible assumption | with_reducible apply putRecord_below | refine enqueue_below_eq (by assumption) ?_
    | with_reducible refine enqueue_below ?_ | with_reducible apply endRecord_below | exact id | split

theorem withdrawQueued_evolves {s0 : State} {p : Pos} {s : State} (h : Evolves s0 s) :
    Evolves s0 (withdrawQueued p s) := by
  unfold withdrawQueued
  try dsimp only
  repeat' first
    | with_reducible assumption | with_reducible apply endRecord_evolves
    | with_reducible apply Evolves.withRecord | refine withdraw_evolves_eq (by assumption) ?_
    | with_reducible refine withdraw_evolves ?_ | exact id | split

theorem withdrawQueued_below {s0 : State} {p : Pos} {s : State} (h : Below s0 s) :
    Below s0 (withdrawQueued p s) := by
  unfold withdrawQueued
  try dsimp only
  repeat' first
    | with_reducible assumption | with_reducible apply endRecord_below | with_reducible apply Below.withRecord
    | refine withdraw_below_eq (by assumption) ?_ | with_reducible refine withdraw_below ?_ | exact id | split

theorem releaseSent_evolves {s0 : State} {p : Pos} {s : State} (h : Evolves s0 s) :
    Evolves s0 (releaseSent p s) := by
  unfold releaseSent
  try dsimp only
  repeat' first
    | with_reducible assumption | with_reducible apply beginRelease_evolves | exact id | split

theorem releaseSent_below {s0 : State} {p : Pos} {s : State} (h : Below s0 s) :
    Below s0 (releaseSent p s) := by
  unfold releaseSent
  try dsimp only
  repeat' first
    | with_reducible assumption | with_reducible apply beginRelease_below | exact id | split

theorem releaseSurplus_evolves {s0 : State} {p : Pos} {s : State} (h : Evolves s0 s) :
    Evolves s0 (releaseSurplus p s) := releaseSent_evolves (withdrawQueued_evolves h)

theorem releaseSurplus_below {s0 : State} {p : Pos} {s : State} (h : Below s0 s) :
    Below s0 (releaseSurplus p s) := releaseSent_below (withdrawQueued_below h)

/-- An operation that evolves a state for every position does so along a list of positions. -/
theorem foldl_evolves {f : State → Pos → State} (hf : ∀ {s0 s p}, Evolves s0 s → Evolves s0 (f s p)) {s0 : State}
    (ps : List Pos) {s : State} (h : Evolves s0 s) : Evolves s0 (ps.foldl f s) := by
  induction ps generalizing s with
  | nil => exact h
  | cons p ps ih => exact ih (hf h)

/-- An operation that works below for every position does so along a list of positions. -/
theorem foldl_below {f : State → Pos → State} (hf : ∀ {s0 s p}, Below s0 s → Below s0 (f s p)) {s0 : State}
    (ps : List Pos) {s : State} (h : Below s0 s) : Below s0 (ps.foldl f s) := by
  induction ps generalizing s with
  | nil => exact h
  | cons p ps ih => exact ih (hf h)

theorem releaseThose_evolves {s0 : State} {ps : List Pos} {s : State} (h : Evolves s0 s) :
    Evolves s0 (releaseThose ps s) :=
  foldl_evolves releaseSent_evolves ps (foldl_evolves withdrawQueued_evolves ps h)

theorem releaseThose_below {s0 : State} {ps : List Pos} {s : State} (h : Below s0 s) :
    Below s0 (releaseThose ps s) :=
  foldl_below releaseSent_below ps (foldl_below withdrawQueued_below ps h)

theorem releaseAll_evolves {s0 : State} {s : State} (h : Evolves s0 s) :
    Evolves s0 (releaseAll s) := releaseThose_evolves h

theorem releaseAll_below {s0 : State} {s : State} (h : Below s0 s) :
    Below s0 (releaseAll s) := releaseThose_below h

theorem leaveBackoff_evolves {s0 : State} {s : State} (h : Evolves s0 s) :
    Evolves s0 (leaveBackoff s) := by
  unfold leaveBackoff
  try dsimp only
  repeat' first
    | with_reducible assumption | with_reducible apply Evolves.withHnt | with_reducible apply post_evolves | exact id
    | split

theorem leaveBackoff_below {s0 : State} {s : State} (h : Below s0 s) :
    Below s0 (leaveBackoff s) := by
  unfold leaveBackoff
  try dsimp only
  repeat' first
    | with_reducible assumption | with_reducible apply Below.withHnt | with_reducible refine post_below ?_ ?_
    | (show _ = _; rfl) | exact id | split

theorem stopHuntTimers_evolves {s0 : State} {s : State} (h : Evolves s0 s) :
    Evolves s0 (stopHuntTimers s) := by
  unfold stopHuntTimers
  try dsimp only
  repeat' first
    | with_reducible assumption | with_reducible apply Evolves.withHnt | with_reducible apply leaveBackoff_evolves

theorem stopHuntTimers_below {s0 : State} {s : State} (h : Below s0 s) :
    Below s0 (stopHuntTimers s) := by
  unfold stopHuntTimers
  try dsimp only
  repeat' first
    | with_reducible assumption | with_reducible apply Below.withHnt | with_reducible apply leaveBackoff_below
    | (show _ = _; rfl)

theorem hntStop_evolves {s0 : State} {s : State} (h : Evolves s0 s) :
    Evolves s0 (hntStop s) := by
  unfold hntStop
  try dsimp only
  repeat' first
    | with_reducible assumption | with_reducible apply stopHuntTimers_evolves | with_reducible apply Evolves.withHnt
    | with_reducible apply releaseAll_evolves | with_reducible apply attemptsClear_evolves | exact id | split

theorem hntStop_below {s0 : State} {s : State} (h : Below s0 s) :
    Below s0 (hntStop s) := by
  unfold hntStop
  try dsimp only
  repeat' first
    | with_reducible assumption | with_reducible apply stopHuntTimers_below | with_reducible apply Below.withHnt
    | with_reducible apply releaseAll_below | with_reducible apply attemptsClear_below | (show _ = _; rfl) | exact id
    | split

theorem endRound_evolves {s0 : State} {s : State} (h : Evolves s0 s) :
    Evolves s0 (endRound s) := by
  unfold endRound
  try dsimp only
  repeat' first
    | with_reducible assumption | with_reducible apply Evolves.withHnt | with_reducible apply hntStop_evolves
    | with_reducible apply touchAll_evolves | with_reducible apply post_evolves | exact id | split

theorem touchAll_below {s0 : State} {is : List Nat} {x1 : State} (h : Below s0 x1) :
    Below s0 (touchAll is x1) := h.trans (touchAll_lower (Lower.refl _)).toBelow

theorem endRound_below {s0 s : State} (h : Below s0 s) : Below s0 (endRound s) := by
  refine h.trans ?_
  have h1 : Below s (post (.calRounds (min (s.hnt.rounds + 1) 255))
      (s.withHnt { s.hnt with rounds := min (s.hnt.rounds + 1) 255 })) :=
    post_below rfl ((Below.refl s).withHnt rfl)
  unfold endRound
  dsimp only
  split
  · rename_i hk
    have h2 := hntStop_below (Below.refl (post .calNoCarrier (post (.calRounds (min (s.hnt.rounds + 1) 255))
      (s.withHnt { s.hnt with rounds := min (s.hnt.rounds + 1) 255 }))))
    refine ⟨h2.cal, h2.lmu, h2.vsw, h2.kind, h2.lamps, fun x => ?_⟩
    have hk' : s.hnt.kind = .test := hk
    rw [hk'] at x
    cases x
  · exact post_below rfl ((touchAll_below h1).withHnt rfl)

theorem roundEndCheck_evolves {s0 : State} {s : State} (h : Evolves s0 s) :
    Evolves s0 (roundEndCheck s) := by
  unfold roundEndCheck
  try dsimp only
  repeat' first
    | with_reducible assumption | with_reducible apply endRound_evolves | exact id | split

theorem roundEndCheck_below {s0 : State} {s : State} (h : Below s0 s) :
    Below s0 (roundEndCheck s) := by
  unfold roundEndCheck
  try dsimp only
  repeat' first
    | with_reducible assumption | with_reducible apply endRound_below | exact id | split

theorem setLaunchStagger_evolves {s0 s : State} (h : Evolves s0 s) : Evolves s0 (setLaunchStagger s) :=
  (touch_evolves h).withHnt

theorem setLaunchStagger_below {s0 s : State} (h : Below s0 s) : Below s0 (setLaunchStagger s) :=
  (touch_below h).withHnt rfl

theorem createAttempt_evolves {s0 : State} {k : Key} {s : State} (h : Evolves s0 s) :
    Evolves s0 (createAttempt k s) := by
  unfold createAttempt
  try dsimp only
  repeat' first
    | with_reducible assumption | with_reducible apply putRecord_evolves | with_reducible apply Evolves.withHnt
    | with_reducible apply setLaunchStagger_evolves
    | with_reducible refine enqueue_evolves_eq (by assumption) (by decide) ?_
    | with_reducible refine enqueue_evolves (by decide) ?_ | with_reducible apply endRecord_evolves
    | with_reducible apply Evolves.withRecord | exact id | split

theorem createAttempt_below {s0 : State} {k : Key} {s : State} (h : Below s0 s) :
    Below s0 (createAttempt k s) := by
  unfold createAttempt
  try dsimp only
  repeat' first
    | with_reducible assumption | with_reducible apply putRecord_below | with_reducible apply Below.withHnt
    | with_reducible apply setLaunchStagger_below | refine enqueue_below_eq (by assumption) ?_
    | with_reducible refine enqueue_below ?_ | with_reducible apply endRecord_below
    | with_reducible apply Below.withRecord | (show _ = _; rfl) | exact id | split

theorem ctuMark_below {s0 : State} {k : Key} {s : State} (h : Below s0 s) :
    Below s0 (ctuMark k s).2 := h.trans (ctuMark_link (LinkStep.refl _)).toLower.toBelow

theorem ctuMark_below_eq {s0 t : State} {k : Key} {s : State} {x : Bool}
    (e : ctuMark k s = (x, t)) (h : Below s0 s) : Below s0 t := by
  have := ctuMark_below (k := k) (s := s) h
  rwa [e] at this

theorem emptySet_evolves {s0 : State} {s : State} (h : Evolves s0 s) : Evolves s0 (emptySet s) := h.withHnt

theorem emptySet_below {s0 : State} {s : State} (h : Below s0 s) : Below s0 (emptySet s) := h.withHnt rfl

theorem launchKey_evolves {s0 : State} {k : Key} {s : State} (h : Evolves s0 s) : Evolves s0 (launchKey k s).2 := by
  unfold launchKey
  dsimp only
  split
  · exact emptySet_evolves (touchAll_evolves h)
  · split
    · rename_i e
      exact createAttempt_evolves (ctuMark_evolves_eq e (touchAll_evolves h))
    · rename_i e
      exact ctuMark_evolves_eq e (touchAll_evolves h)

theorem launchKey_evolves_eq {s0 t : State} {k : Key} {s : State} {x : Bool} (e : launchKey k s = (x, t))
    (h : Evolves s0 s) : Evolves s0 t := by
  have := launchKey_evolves (k := k) h
  rwa [e] at this

theorem launchKey_below {s0 : State} {k : Key} {s : State} (h : Below s0 s) : Below s0 (launchKey k s).2 := by
  unfold launchKey
  dsimp only
  split
  · exact emptySet_below (touchAll_below h)
  · split
    · rename_i e
      exact createAttempt_below (ctuMark_below_eq e (touchAll_below h))
    · rename_i e
      exact ctuMark_below_eq e (touchAll_below h)

theorem launchKey_below_eq {s0 t : State} {k : Key} {s : State} {x : Bool} (e : launchKey k s = (x, t))
    (h : Below s0 s) : Below s0 t := by
  have := launchKey_below (k := k) h
  rwa [e] at this

theorem launchNext_evolves {s0 s : State} {n : Nat} (h : Evolves s0 s) : Evolves s0 (launchNext n s) := by
  induction n generalizing s with
  | zero => exact h
  | succ n ih =>
    unfold launchNext
    dsimp only
    split
    · exact h
    · rename_i k hk
      have h1 := touchAll_evolves (is := eligibleFields) (h.withHnt (x := { s.hnt with set := s.hnt.set.erase k }))
      split
      · split
        · rename_i e
          exact launchKey_evolves_eq e h1
        · rename_i e
          exact ih (launchKey_evolves_eq e h1)
      · exact ih h1

theorem launchNext_below {s0 s : State} {n : Nat} (h : Below s0 s) : Below s0 (launchNext n s) := by
  induction n generalizing s with
  | zero => exact h
  | succ n ih =>
    unfold launchNext
    dsimp only
    split
    · exact h
    · rename_i k hk
      have h1 := touchAll_below (is := eligibleFields) (h.withHnt (x := { s.hnt with set := s.hnt.set.erase k }) rfl)
      split
      · split
        · rename_i e
          exact launchKey_below_eq e h1
        · rename_i e
          exact ih (launchKey_below_eq e h1)
      · exact ih h1

theorem launchOne_evolves {s0 : State} {s : State} (h : Evolves s0 s) :
    Evolves s0 (launchOne s) := by
  unfold launchOne
  try dsimp only
  repeat' first
    | with_reducible assumption | with_reducible apply emptySet_evolves
    | with_reducible apply launchNext_evolves | with_reducible apply touch_evolves | exact id | split

theorem launchOne_below {s0 : State} {s : State} (h : Below s0 s) :
    Below s0 (launchOne s) := by
  unfold launchOne
  try dsimp only
  repeat' first
    | with_reducible assumption | with_reducible apply emptySet_below | with_reducible apply launchNext_below
    | with_reducible apply touch_below | exact id | split

theorem launchLoop_evolves {s0 s : State} {n : Nat} (h : Evolves s0 s) : Evolves s0 (launchLoop n s) := by
  induction n generalizing s with
  | zero => exact h
  | succ n ih =>
    unfold launchLoop
    dsimp only
    split
    · split
      · exact ih (launchOne_evolves (touch_evolves h))
      · exact touch_evolves h
    · exact h

theorem launchLoop_below {s0 s : State} {n : Nat} (h : Below s0 s) : Below s0 (launchLoop n s) := by
  induction n generalizing s with
  | zero => exact h
  | succ n ih =>
    unfold launchLoop
    dsimp only
    split
    · split
      · exact ih (launchOne_below (touch_below h))
      · exact touch_below h
    · exact h

theorem launchCheck_evolves {s0 : State} {s : State} (h : Evolves s0 s) :
    Evolves s0 (launchCheck s) := by
  unfold launchCheck
  try dsimp only
  repeat' first
    | with_reducible assumption | with_reducible apply launchLoop_evolves

theorem launchCheck_below {s0 : State} {s : State} (h : Below s0 s) :
    Below s0 (launchCheck s) := by
  unfold launchCheck
  try dsimp only
  repeat' first
    | with_reducible assumption | with_reducible apply launchLoop_below

theorem huntChecks_evolves {s0 : State} {s : State} (h : Evolves s0 s) :
    Evolves s0 (huntChecks s) := by
  unfold huntChecks
  try dsimp only
  repeat' first
    | with_reducible assumption | with_reducible apply launchCheck_evolves
    | with_reducible apply roundEndCheck_evolves

theorem huntChecks_below {s0 : State} {s : State} (h : Below s0 s) :
    Below s0 (huntChecks s) := by
  unfold huntChecks
  try dsimp only
  repeat' first
    | with_reducible assumption | with_reducible apply launchCheck_below | with_reducible apply roundEndCheck_below

theorem recordChecks_evolves {s0 : State} {before : State} {s : State} (h : Evolves s0 s) :
    Evolves s0 (recordChecks before s) := by
  unfold recordChecks
  try dsimp only
  repeat' first
    | with_reducible assumption | with_reducible apply huntChecks_evolves | with_reducible apply attemptsClear_evolves
    | exact id | split

theorem recordChecks_below {s0 : State} {before : State} {s : State} (h : Below s0 s) :
    Below s0 (recordChecks before s) := by
  unfold recordChecks
  try dsimp only
  repeat' first
    | with_reducible assumption | with_reducible apply huntChecks_below | with_reducible apply attemptsClear_below
    | exact id | split

theorem fillSet_evolves {s0 : State} {s : State} (h : Evolves s0 s) :
    Evolves s0 (fillSet s) := by
  unfold fillSet
  try dsimp only
  repeat' first
    | with_reducible assumption | with_reducible apply Evolves.withHnt | with_reducible apply touchAll_evolves

theorem fillSet_below {s0 : State} {s : State} (h : Below s0 s) :
    Below s0 (fillSet s) := by
  unfold fillSet
  try dsimp only
  repeat' first
    | with_reducible assumption | with_reducible apply Below.withHnt | with_reducible apply touchAll_below
    | (show _ = _; rfl)

theorem gatherOrEnd_evolves {s0 : State} {s : State} (h : Evolves s0 s) :
    Evolves s0 (gatherOrEnd s) := by
  unfold gatherOrEnd
  try dsimp only
  repeat' first
    | with_reducible assumption | with_reducible apply Evolves.withHnt | with_reducible apply roundEndCheck_evolves
    | with_reducible apply wchGather_evolves | exact id | split

theorem gatherOrEnd_below {s0 : State} {s : State} (h : Below s0 s) :
    Below s0 (gatherOrEnd s) := by
  unfold gatherOrEnd
  try dsimp only
  repeat' first
    | with_reducible assumption | with_reducible apply Below.withHnt | with_reducible apply roundEndCheck_below
    | with_reducible apply wchGather_below | exact (wchGather_below (Below.refl _)).kind.symm | exact id | split

theorem startRound_evolves {s0 : State} {s : State} (h : Evolves s0 s) :
    Evolves s0 (startRound s) := by
  unfold startRound
  try dsimp only
  repeat' first
    | with_reducible assumption | with_reducible apply huntChecks_evolves | with_reducible apply Evolves.withHnt
    | with_reducible apply fillSet_evolves | with_reducible apply touch_evolves | with_reducible apply post_evolves
    | with_reducible apply gatherOrEnd_evolves | exact id | split

theorem startRound_below {s0 : State} {s : State} (h : Below s0 s) :
    Below s0 (startRound s) := by
  unfold startRound
  try dsimp only
  repeat' first
    | with_reducible assumption | with_reducible apply huntChecks_below | with_reducible apply Below.withHnt
    | with_reducible apply fillSet_below | with_reducible apply touch_below | with_reducible refine post_below ?_ ?_
    | with_reducible apply gatherOrEnd_below | (show _ = _; rfl) | exact id | split

theorem gatherEnded_evolves {s0 : State} {s : State} (h : Evolves s0 s) :
    Evolves s0 (gatherEnded s) := by
  unfold gatherEnded
  try dsimp only
  repeat' first
    | with_reducible assumption | with_reducible apply huntChecks_evolves | with_reducible apply Evolves.withHnt
    | with_reducible apply fillSet_evolves

theorem gatherEnded_below {s0 : State} {s : State} (h : Below s0 s) :
    Below s0 (gatherEnded s) := by
  unfold gatherEnded
  try dsimp only
  repeat' first
    | with_reducible assumption | with_reducible apply huntChecks_below | with_reducible apply Below.withHnt
    | with_reducible apply fillSet_below | (show _ = _; rfl)

theorem hntFresh_evolves {s0 : State} {kind : CallKind} {s : State} (h : Evolves s0 s) :
    Evolves s0 (hntFresh kind s) := by
  unfold hntFresh
  try dsimp only
  repeat' first
    | with_reducible assumption | with_reducible apply Evolves.withHnt | with_reducible apply hntStop_evolves
    | with_reducible apply startRound_evolves | with_reducible apply post_evolves | exact id | split

theorem hntReestablish_evolves {s0 : State} {s : State} (h : Evolves s0 s) :
    Evolves s0 (hntReestablish s) := by
  unfold hntReestablish
  try dsimp only
  repeat' first
    | with_reducible assumption | with_reducible apply stopHuntTimers_evolves | with_reducible apply Evolves.withHnt
    | with_reducible apply releaseAll_evolves | with_reducible apply startRound_evolves | exact id | split

theorem hntReestablish_below {s0 : State} {s : State} (h : Below s0 s) :
    Below s0 (hntReestablish s) := by
  unfold hntReestablish
  try dsimp only
  repeat' first
    | with_reducible assumption | with_reducible apply stopHuntTimers_below | with_reducible apply Below.withHnt
    | with_reducible apply releaseAll_below | with_reducible apply startRound_below | (show _ = _; rfl) | exact id
    | split

theorem endWakeWait_evolves {s0 : State} {s : State} (h : Evolves s0 s) :
    Evolves s0 (endWakeWait s) := by
  unfold endWakeWait
  try dsimp only
  repeat' first
    | with_reducible assumption | with_reducible apply Evolves.withHnt | with_reducible apply startRound_evolves
    | exact id | split

theorem endWakeWait_below {s0 : State} {s : State} (h : Below s0 s) :
    Below s0 (endWakeWait s) := by
  unfold endWakeWait
  try dsimp only
  repeat' first
    | with_reducible assumption | with_reducible apply Below.withHnt | with_reducible apply startRound_below
    | (show _ = _; rfl) | exact id | split

theorem becomeWon_evolves {s0 : State} {s : State} (h : Evolves s0 s) :
    Evolves s0 (becomeWon s) := by
  unfold becomeWon
  try dsimp only
  repeat' first
    | with_reducible assumption | with_reducible apply stopHuntTimers_evolves | with_reducible apply Evolves.withHnt

theorem becomeWon_below {s0 : State} {s : State} (h : Below s0 s) :
    Below s0 (becomeWon s) := by
  unfold becomeWon
  try dsimp only
  repeat' first
    | with_reducible assumption | with_reducible apply stopHuntTimers_below | with_reducible apply Below.withHnt
    | (show _ = _; rfl)

theorem passAnswered_evolves {s0 : State} {p : Pos} {a : Attempt} {o : Outcome} {s : State} (h : Evolves s0 s) :
    Evolves s0 (passAnswered p a o s) := putRecord_evolves h

theorem passAnswered_below {s0 : State} {p : Pos} {a : Attempt} {o : Outcome} {s : State} (h : Below s0 s) :
    Below s0 (passAnswered p a o s) := putRecord_below h

theorem winAttempt_evolves {s0 : State} {p : Pos} {a : Attempt} {s : State} (h : Evolves s0 s) :
    Evolves s0 (winAttempt p a s) := by
  unfold winAttempt
  try dsimp only
  repeat' first
    | with_reducible assumption | with_reducible apply releaseAll_evolves
    | with_reducible apply becomeWon_evolves | with_reducible apply post_evolves
    | with_reducible apply ctuOutcome_evolves | with_reducible apply passAnswered_evolves
    | with_reducible apply Evolves.withRecord | exact id | split

theorem endForIncoming_evolves {s0 : State} {p : Pos} {s : State} (h : Evolves s0 s) :
    Evolves s0 (endForIncoming p s) := by
  unfold endForIncoming
  try dsimp only
  repeat' first
    | with_reducible assumption | with_reducible apply withdrawIf_evolves | with_reducible apply dropRecord_evolves
    | exact id | split

theorem endForIncoming_below {s0 : State} {p : Pos} {s : State} (h : Below s0 s) :
    Below s0 (endForIncoming p s) := by
  unfold endForIncoming
  try dsimp only
  repeat' first
    | with_reducible assumption | with_reducible apply withdrawIf_below | with_reducible apply dropRecord_below
    | exact id | split

theorem hntIncomingWon_evolves {s0 : State} {p : Pos} {s : State} (h : Evolves s0 s) :
    Evolves s0 (hntIncomingWon p s) := by
  unfold hntIncomingWon
  try dsimp only
  repeat' first
    | with_reducible assumption | with_reducible apply releaseThose_evolves
    | with_reducible apply becomeWon_evolves | with_reducible apply endForIncoming_evolves | exact id | split

theorem hntIncomingWon_below {s0 : State} {p : Pos} {s : State} (h : Below s0 s) :
    Below s0 (hntIncomingWon p s) := by
  unfold hntIncomingWon
  try dsimp only
  repeat' first
    | with_reducible assumption | with_reducible apply releaseThose_below | with_reducible apply becomeWon_below
    | with_reducible apply endForIncoming_below | exact id | split

theorem answerSurplus_evolves {s0 : State} {p : Pos} {a : Attempt} {s : State} (h : Evolves s0 s) :
    Evolves s0 (answerSurplus p a s) := beginRelease_evolves (passAnswered_evolves h)

theorem takeAnswer_evolves {s0 : State} {p : Pos} {a : Attempt} {s : State} (h : Evolves s0 s) :
    Evolves s0 (takeAnswer p a s) := by
  unfold takeAnswer
  try dsimp only
  repeat' first
    | with_reducible assumption | with_reducible apply releaseSurplus_evolves
    | with_reducible apply recordChecks_evolves | with_reducible apply winAttempt_evolves
    | with_reducible apply answerSurplus_evolves | with_reducible apply Evolves.withRecord | exact id | split

theorem endByEvent_evolves {s0 : State} {p : Pos} {a : Attempt} {o : Outcome} {s : State} (h : Evolves s0 s) :
    Evolves s0 (endByEvent p a o s) := by
  unfold endByEvent
  try dsimp only
  repeat' first
    | with_reducible assumption | with_reducible apply endRecord_evolves | with_reducible apply recordChecks_evolves
    | exact id | split

theorem endByEvent_below {s0 : State} {p : Pos} {a : Attempt} {o : Outcome} {s : State} (h : Below s0 s) :
    Below s0 (endByEvent p a o s) := by
  unfold endByEvent
  try dsimp only
  repeat' first
    | with_reducible assumption | with_reducible apply endRecord_below | with_reducible apply recordChecks_below
    | exact id | split

theorem applyEvent_evolves {s0 : State} {p : Pos} {a : Attempt} {e : ModuleEvent} {s : State} (h : Evolves s0 s) :
    Evolves s0 (applyEvent p a e s) := by
  unfold applyEvent
  try dsimp only
  repeat' first
    | with_reducible assumption | with_reducible apply putRecord_evolves | with_reducible apply touch_evolves
    | with_reducible apply takeAnswer_evolves | with_reducible apply endByEvent_evolves | exact id | split

theorem takeStrayAnswer_evolves {s0 : State} {p : Pos} {s : State} (h : Evolves s0 s) :
    Evolves s0 (takeStrayAnswer p s) := by
  unfold takeStrayAnswer
  try dsimp only
  repeat' first
    | with_reducible assumption | with_reducible apply strayRelease_evolves
    | with_reducible apply huntChecks_evolves | exact id | split

theorem hntTakeEvent_evolves {s0 : State} {p : Pos} {e : ModuleEvent} {s : State} (h : Evolves s0 s) :
    Evolves s0 (hntTakeEvent p e s) := by
  unfold hntTakeEvent
  try dsimp only
  repeat' first
    | with_reducible assumption | with_reducible apply takeStrayAnswer_evolves
    | with_reducible apply applyEvent_evolves | exact id | split

theorem originateResult_evolves {s0 : State} {p : Pos} {a : Attempt} {r : LinkResult} {s : State} (h : Evolves s0 s) :
    Evolves s0 (originateResult p a r s) := by
  unfold originateResult
  try dsimp only
  repeat' first
    | with_reducible assumption | with_reducible apply putRecord_evolves | with_reducible apply touch_evolves
    | with_reducible apply endRecord_evolves | with_reducible apply beginRelease_evolves | exact id | split

theorem originateResult_below {s0 : State} {p : Pos} {a : Attempt} {r : LinkResult} {s : State} (h : Below s0 s) :
    Below s0 (originateResult p a r s) := by
  unfold originateResult
  try dsimp only
  repeat' first
    | with_reducible assumption | with_reducible apply putRecord_below | with_reducible apply touch_below
    | with_reducible apply endRecord_below | with_reducible apply beginRelease_below | exact id | split

theorem hntTakeResult_evolves {s0 : State} {p : Pos} {number : Nat} {kind : ReqKind} {r : LinkResult} {s : State} (h : Evolves s0 s) :
    Evolves s0 (hntTakeResult p number kind r s) := by
  unfold hntTakeResult
  try dsimp only
  repeat' first
    | with_reducible assumption | with_reducible apply originateResult_evolves
    | with_reducible apply endRecord_evolves | with_reducible apply recordChecks_evolves | exact id | split

theorem hntTakeResult_below {s0 : State} {p : Pos} {number : Nat} {kind : ReqKind} {r : LinkResult} {s : State} (h : Below s0 s) :
    Below s0 (hntTakeResult p number kind r s) := by
  unfold hntTakeResult
  try dsimp only
  repeat' first
    | with_reducible assumption | with_reducible apply originateResult_below | with_reducible apply endRecord_below
    | with_reducible apply recordChecks_below | exact id | split

theorem hntTakeStray_evolves {s0 : State} {p : Pos} {number : Nat} {s : State} (h : Evolves s0 s) :
    Evolves s0 (hntTakeStray p number s) := by
  unfold hntTakeStray
  try dsimp only
  repeat' first
    | with_reducible assumption | with_reducible apply huntChecks_evolves | with_reducible apply Evolves.withHnt
    | exact id | split

theorem hntTakeStray_below {s0 : State} {p : Pos} {number : Nat} {s : State} (h : Below s0 s) :
    Below s0 (hntTakeStray p number s) := by
  unfold hntTakeStray
  try dsimp only
  repeat' first
    | with_reducible assumption | with_reducible apply huntChecks_below | with_reducible apply Below.withHnt
    | (show _ = _; rfl) | exact id | split

theorem departed_evolves {s0 : State} {p : Pos} {s : State} (h : Evolves s0 s) :
    Evolves s0 (departed p s) := by
  unfold departed
  try dsimp only
  repeat' first
    | with_reducible assumption | with_reducible apply withdrawIf_evolves | with_reducible apply Evolves.withHnt
    | with_reducible apply dropRecord_evolves | exact id | split

theorem departed_below {s0 : State} {p : Pos} {s : State} (h : Below s0 s) :
    Below s0 (departed p s) := by
  unfold departed
  try dsimp only
  repeat' first
    | with_reducible assumption | with_reducible apply withdrawIf_below | with_reducible apply Below.withHnt
    | with_reducible apply dropRecord_below | (show _ = _; rfl) | exact id | split

theorem hntTakeModule_evolves {s0 : State} {p : Pos} {old : ModState} {new : ModState} {s : State} (h : Evolves s0 s) :
    Evolves s0 (hntTakeModule p old new s) := by
  unfold hntTakeModule
  try dsimp only
  repeat' first
    | with_reducible assumption | with_reducible apply recordChecks_evolves | with_reducible apply departed_evolves
    | with_reducible apply endWakeWait_evolves | exact id | split

theorem hntTakeModule_below {s0 : State} {p : Pos} {old : ModState} {new : ModState} {s : State} (h : Below s0 s) :
    Below s0 (hntTakeModule p old new s) := by
  unfold hntTakeModule
  try dsimp only
  repeat' first
    | with_reducible assumption | with_reducible apply recordChecks_below | with_reducible apply departed_below
    | with_reducible apply endWakeWait_below | exact id | split

theorem hntTakeRole_evolves {s0 : State} {s : State} (h : Evolves s0 s) :
    Evolves s0 (hntTakeRole s) := by
  unfold hntTakeRole
  try dsimp only
  repeat' first
    | with_reducible assumption | with_reducible apply huntChecks_evolves

theorem hntTakeRole_below {s0 : State} {s : State} (h : Below s0 s) :
    Below s0 (hntTakeRole s) := by
  unfold hntTakeRole
  try dsimp only
  repeat' first
    | with_reducible assumption | with_reducible apply huntChecks_below

theorem releaseExcess_evolves {s0 s : State} {n : Nat} {ps : List Pos} (h : Evolves s0 s) :
    Evolves s0 (releaseExcess n ps s) := by
  induction n generalizing s ps with
  | zero => exact h
  | succ n ih =>
    unfold releaseExcess
    split
    · split
      · exact h
      · exact ih (releaseSurplus_evolves h)
    · exact h

theorem releaseExcess_below {s0 s : State} {n : Nat} {ps : List Pos} (h : Below s0 s) :
    Below s0 (releaseExcess n ps s) := by
  induction n generalizing s ps with
  | zero => exact h
  | succ n ih =>
    unfold releaseExcess
    split
    · split
      · exact h
      · exact ih (releaseSurplus_below h)
    · exact h

theorem hntTakePlan_evolves {s0 : State} {s : State} (h : Evolves s0 s) :
    Evolves s0 (hntTakePlan s) := by
  unfold hntTakePlan
  try dsimp only
  repeat' first
    | with_reducible assumption | with_reducible apply recordChecks_evolves
    | with_reducible apply releaseExcess_evolves | exact id | split

theorem hntTakePlan_below {s0 : State} {s : State} (h : Below s0 s) :
    Below s0 (hntTakePlan s) := by
  unfold hntTakePlan
  try dsimp only
  repeat' first
    | with_reducible assumption | with_reducible apply recordChecks_below | with_reducible apply releaseExcess_below
    | exact id | split

theorem hntTakeKeys_evolves {s0 : State} {keys : List Key} {s : State} (h : Evolves s0 s) :
    Evolves s0 (hntTakeKeys keys s) := by
  unfold hntTakeKeys
  try dsimp only
  repeat' first
    | with_reducible assumption | with_reducible apply startRound_evolves | with_reducible apply leaveBackoff_evolves
    | with_reducible apply gatherEnded_evolves | exact id | split

theorem hntTakeKeys_below {s0 : State} {keys : List Key} {s : State} (h : Below s0 s) :
    Below s0 (hntTakeKeys keys s) := by
  unfold hntTakeKeys
  try dsimp only
  repeat' first
    | with_reducible assumption | with_reducible apply startRound_below | with_reducible apply leaveBackoff_below
    | with_reducible apply gatherEnded_below | exact id | split

theorem hntTakeGatherEnd_evolves {s0 : State} {s : State} (h : Evolves s0 s) :
    Evolves s0 (hntTakeGatherEnd s) := by
  unfold hntTakeGatherEnd
  try dsimp only
  repeat' first
    | with_reducible assumption | with_reducible apply gatherEnded_evolves | exact id | split

theorem hntTakeGatherEnd_below {s0 : State} {s : State} (h : Below s0 s) :
    Below s0 (hntTakeGatherEnd s) := by
  unfold hntTakeGatherEnd
  try dsimp only
  repeat' first
    | with_reducible assumption | with_reducible apply gatherEnded_below | exact id | split

theorem hntGatherExpiry_evolves {s0 : State} {s : State} (h : Evolves s0 s) :
    Evolves s0 (hntGatherExpiry s) := by
  unfold hntGatherExpiry
  try dsimp only
  repeat' first
    | with_reducible assumption | with_reducible apply gatherEnded_evolves | exact id | split

theorem hntGatherExpiry_below {s0 : State} {s : State} (h : Below s0 s) :
    Below s0 (hntGatherExpiry s) := by
  unfold hntGatherExpiry
  try dsimp only
  repeat' first
    | with_reducible assumption | with_reducible apply gatherEnded_below | exact id | split

theorem hntBackoffExpiry_evolves {s0 : State} {s : State} (h : Evolves s0 s) :
    Evolves s0 (hntBackoffExpiry s) := by
  unfold hntBackoffExpiry
  try dsimp only
  repeat' first
    | with_reducible assumption | with_reducible apply startRound_evolves | with_reducible apply leaveBackoff_evolves
    | exact id | split

theorem hntBackoffExpiry_below {s0 : State} {s : State} (h : Below s0 s) :
    Below s0 (hntBackoffExpiry s) := by
  unfold hntBackoffExpiry
  try dsimp only
  repeat' first
    | with_reducible assumption | with_reducible apply startRound_below | with_reducible apply leaveBackoff_below
    | exact id | split

theorem hntStaggerExpiry_evolves {s0 : State} {s : State} (h : Evolves s0 s) :
    Evolves s0 (hntStaggerExpiry s) := by
  unfold hntStaggerExpiry
  try dsimp only
  repeat' first
    | with_reducible assumption | with_reducible apply huntChecks_evolves | with_reducible apply Evolves.withHnt
    | exact id | split

theorem hntStaggerExpiry_below {s0 : State} {s : State} (h : Below s0 s) :
    Below s0 (hntStaggerExpiry s) := by
  unfold hntStaggerExpiry
  try dsimp only
  repeat' first
    | with_reducible assumption | with_reducible apply huntChecks_below | with_reducible apply Below.withHnt
    | (show _ = _; rfl) | exact id | split

theorem hntAttemptExpiry_evolves {s0 : State} {p : Pos} {s : State} (h : Evolves s0 s) :
    Evolves s0 (hntAttemptExpiry p s) := by
  unfold hntAttemptExpiry
  try dsimp only
  repeat' first
    | with_reducible assumption | with_reducible apply recordChecks_evolves
    | with_reducible apply beginRelease_evolves | exact id | split

theorem hntAttemptExpiry_below {s0 : State} {p : Pos} {s : State} (h : Below s0 s) :
    Below s0 (hntAttemptExpiry p s) := by
  unfold hntAttemptExpiry
  try dsimp only
  repeat' first
    | with_reducible assumption | with_reducible apply recordChecks_below | with_reducible apply beginRelease_below
    | exact id | split

theorem hntSecond_evolves {s0 : State} {s : State} (h : Evolves s0 s) :
    Evolves s0 (hntSecond s) := by
  unfold hntSecond
  try dsimp only
  repeat' first
    | with_reducible assumption | with_reducible apply Evolves.withHnt | with_reducible apply post_evolves | exact id
    | split

theorem hntSecond_below {s0 : State} {s : State} (h : Below s0 s) :
    Below s0 (hntSecond s) := by
  unfold hntSecond
  try dsimp only
  repeat' first
    | with_reducible assumption | with_reducible apply Below.withHnt | with_reducible refine post_below ?_ ?_
    | (show _ = _; rfl) | exact id | split

end Sys2Proof.Machine
end

