-- ==== Sys2Proof/Laws/Call.lean ====
section
/-! SUPPORT. The call controller, the working plan unit and the orders: how their operations evolve a state; and with
them every internal event and every cascade (`drain_evolves`). -/

namespace Sys2Proof.Machine

/-- An operation on states that evolves them. -/
def EvolvesState (f : State → State) : Prop := ∀ s0 s, Evolves s0 s → Evolves s0 (f s)

/-! ### Call -/

theorem Evolves.withCtx {s0 s : State} (h : Evolves s0 s) {x : Context} : Evolves s0 (s.withCtx x) := h.withCal rfl

theorem setFlags_evolves {s0 s : State} {f : CallFlags → CallFlags} (h : Evolves s0 s) :
    Evolves s0 (setFlags f s) := h.withCtx

theorem publishCall_evolves {s0 : State} {before : Cal} {s : State} (h : Evolves s0 s) :
    Evolves s0 (publishCall before s) := by
  unfold publishCall
  dsimp only
  repeat' first
    | with_reducible assumption
    | with_reducible refine Evolves.withCal ?_ (getLsbD_add_two _)
    | with_reducible apply raise_evolves | split

theorem withdrawTones_evolves {s0 : State} {s : State} (h : Evolves s0 s) :
    Evolves s0 (withdrawTones s) := by
  unfold withdrawTones
  try dsimp only
  repeat' first
    | with_reducible assumption | with_reducible apply vswTone_evolves

theorem stateAudio_evolves {s0 : State} {x : CallState} {s : State} (h : Evolves s0 s) :
    Evolves s0 (stateAudio x s) := by
  unfold stateAudio
  try dsimp only
  repeat' first
    | with_reducible assumption | with_reducible apply vswTone_evolves | with_reducible apply withdrawTones_evolves
    | with_reducible apply vswUnlink_evolves | with_reducible apply vswMutes_evolves
    | with_reducible apply vswLink_evolves | exact id | split

theorem writeState_evolves {s0 : State} {x : CallState} {s : State} (h : Evolves s0 s) :
    Evolves s0 (writeState x s) := h.withCal rfl

theorem tellState_evolves {s0 : State} {s : State} (h : Evolves s0 s) : Evolves s0 (tellState s) :=
  wchCallState_evolves (mlcCallState_evolves (bsuCallState_evolves h))

theorem enter_evolves {s0 : State} {x : CallState} {s : State} (h : Evolves s0 s) : Evolves s0 (enter x s) :=
  tellState_evolves (stateAudio_evolves (writeState_evolves h))

theorem calRelease_evolves {s0 : State} {p : Pos} {s : State} (h : Evolves s0 s) :
    Evolves s0 (calRelease p s) := by
  unfold calRelease
  try dsimp only
  repeat' first
    | with_reducible assumption | with_reducible refine enqueue_evolves_eq (by assumption) (by decide) ?_
    | with_reducible refine enqueue_evolves (by decide) ?_ | with_reducible apply Evolves.withCtx | exact id | split

theorem letGo_evolves {s0 : State} {x : Serving} {s : State} (h : Evolves s0 s) :
    Evolves s0 (letGo x s) := by
  unfold letGo
  try dsimp only
  repeat' first
    | with_reducible assumption | with_reducible apply calRelease_evolves
    | with_reducible apply ctuConnectionRelease_evolves | exact id | split

theorem letServingGo_evolves {s0 : State} {s : State} (h : Evolves s0 s) :
    Evolves s0 (letServingGo s) := by
  unfold letServingGo
  try dsimp only
  repeat' first
    | with_reducible assumption | with_reducible apply letGo_evolves | with_reducible apply Evolves.withCtx | exact id
    | split

theorem stopMask_evolves {s0 : State} {s : State} (h : Evolves s0 s) :
    Evolves s0 (stopMask s) := by
  unfold stopMask
  try dsimp only
  repeat' first
    | with_reducible assumption | with_reducible refine Evolves.withCal ?_ rfl | with_reducible apply setFlags_evolves

theorem pendingUndelivered_evolves {s0 : State} {s : State} (h : Evolves s0 s) :
    Evolves s0 (pendingUndelivered s) := by
  unfold pendingUndelivered
  try dsimp only
  repeat' first
    | with_reducible assumption | with_reducible apply raise_evolves | with_reducible apply Evolves.withCtx | exact id
    | split

theorem stopHunt_evolves {s0 : State} {s : State} (h : Evolves s0 s) :
    Evolves s0 (stopHunt s) := by
  unfold stopHunt
  try dsimp only
  repeat' first
    | with_reducible assumption | with_reducible apply hntStop_evolves | with_reducible apply Evolves.withCtx
    | exact id | split

theorem enterClearing_evolves {s0 : State} {cause : LastEnd} {toCallback : Bool} {s : State} (h : Evolves s0 s) :
    Evolves s0 (enterClearing cause toCallback s) := by
  unfold enterClearing
  try dsimp only
  repeat' first
    | with_reducible assumption | with_reducible apply stopMask_evolves | with_reducible apply enter_evolves
    | with_reducible apply lmuStop_evolves | with_reducible refine Evolves.withCal ?_ rfl
    | with_reducible apply stopHunt_evolves | with_reducible apply pendingUndelivered_evolves
    | with_reducible apply letServingGo_evolves | exact id | split

theorem stopCallbackTimer_evolves {s0 : State} {s : State} (h : Evolves s0 s) :
    Evolves s0 (stopCallbackTimer s) := h.withCal rfl

theorem clearActs_evolves {s0 : State} {s : State} (h : Evolves s0 s) : Evolves s0 (clearActs s) :=
  enterClearing_evolves (stopCallbackTimer_evolves h)

theorem enterIdle_evolves {s0 : State} {s : State} (h : Evolves s0 s) :
    Evolves s0 (enterIdle s) := by
  unfold enterIdle
  try dsimp only
  repeat' first
    | with_reducible assumption | with_reducible apply enter_evolves | with_reducible apply Evolves.withCtx

theorem windowExpired_evolves {s0 : State} {s : State} (h : Evolves s0 s) :
    Evolves s0 (windowExpired s) := by
  unfold windowExpired
  try dsimp only
  repeat' first
    | with_reducible assumption | with_reducible refine Evolves.withCal ?_ rfl | with_reducible apply enterIdle_evolves

theorem endEmptyWindow_evolves {s0 : State} {s : State} (h : Evolves s0 s) :
    Evolves s0 (endEmptyWindow s) := by
  unfold endEmptyWindow
  try dsimp only
  repeat' first
    | with_reducible assumption | with_reducible apply windowExpired_evolves | exact id | split

theorem afterCallbackWait_evolves {s0 : State} {s : State} (h : Evolves s0 s) :
    Evolves s0 (afterCallbackWait s) := by
  unfold afterCallbackWait
  try dsimp only
  repeat' first
    | with_reducible assumption | with_reducible apply clearActs_evolves | with_reducible apply endEmptyWindow_evolves
    | exact id | split

theorem enterCallbackWait_evolves {s0 s : State} (h : Evolves s0 s) : Evolves s0 (enterCallbackWait s) := by
  have h1 := touch_evolves (index := 26) h
  unfold enterCallbackWait
  dsimp only
  generalize touch 26 s = u at h1 ⊢
  exact afterCallbackWait_evolves (enter_evolves (raise_evolves (h1.withCal rfl)))

theorem openCall_evolves {s0 : State} {kind : CallKind} {s : State} (h : Evolves s0 s) :
    Evolves s0 (openCall kind s) := by
  unfold openCall
  try dsimp only
  repeat' first
    | with_reducible assumption | with_reducible refine Evolves.withCal ?_ rfl

theorem stopCallback_evolves {s0 : State} {s : State} (h : Evolves s0 s) :
    Evolves s0 (stopCallback s) := by
  unfold stopCallback
  try dsimp only
  repeat' first
    | with_reducible assumption | with_reducible refine Evolves.withCal ?_ rfl

theorem startCall_evolves {s0 : State} {kind : CallKind} {s : State} (h : Evolves s0 s) :
    Evolves s0 (startCall kind s) := by
  unfold startCall
  try dsimp only
  repeat' first
    | with_reducible assumption | with_reducible apply wchCallStart_evolves | with_reducible apply hntFresh_evolves
    | with_reducible apply stopCallback_evolves | with_reducible apply enter_evolves
    | with_reducible apply openCall_evolves | with_reducible apply raise_evolves
    | with_reducible apply Evolves.withCtx | exact id | split

theorem completePlace_evolves {s0 : State} {o : OrderOutcome} {s : State} (h : Evolves s0 s) :
    Evolves s0 (completePlace o s) :=
  (completeIfHeld_evolves h).withCal (by rw [(completeIfHeld_link (LinkStep.refl s)).cal])

theorem completeClear_evolves {s0 : State} {s : State} (h : Evolves s0 s) :
    Evolves s0 (completeClear s) :=
  (completeIfHeld_evolves h).withCal (by rw [(completeIfHeld_link (LinkStep.refl s)).cal])

theorem convert_evolves {s0 : State} {s : State} (h : Evolves s0 s) :
    Evolves s0 (convert s) := by
  unfold convert
  try dsimp only
  repeat' first
    | with_reducible assumption | with_reducible apply enterClearing_evolves | with_reducible apply setFlags_evolves
    | with_reducible apply completePlace_evolves

theorem repeatPress_evolves {s0 : State} {s : State} (h : Evolves s0 s) :
    Evolves s0 (repeatPress s) := by
  unfold repeatPress
  try dsimp only
  repeat' first
    | with_reducible assumption | with_reducible apply Evolves.withCtx

theorem pressEffect_evolves {s0 : State} {s : State} (h : Evolves s0 s) :
    Evolves s0 (pressEffect s) := by
  unfold pressEffect
  try dsimp only
  repeat' first
    | with_reducible assumption | with_reducible apply repeatPress_evolves | with_reducible apply setFlags_evolves
    | with_reducible apply startCall_evolves | with_reducible apply convert_evolves | exact id | split

theorem takeHeldPress_evolves {s0 : State} {s : State} (h : Evolves s0 s) :
    Evolves s0 (takeHeldPress s) := by
  unfold takeHeldPress
  try dsimp only
  repeat' first
    | with_reducible assumption | with_reducible apply setFlags_evolves | with_reducible apply pressEffect_evolves
    | exact id | split

theorem huntAgain_evolves {s0 : State} {s : State} (h : Evolves s0 s) :
    Evolves s0 (huntAgain s) := by
  unfold huntAgain
  try dsimp only
  repeat' first
    | with_reducible assumption | with_reducible apply hntFresh_evolves
    | with_reducible apply hntReestablish_evolves | with_reducible apply Evolves.withCtx | exact id | split

theorem recoverOrders_evolves {s0 : State} {s : State} (h : Evolves s0 s) :
    Evolves s0 (recoverOrders s) := by
  unfold recoverOrders
  try dsimp only
  repeat' first
    | with_reducible assumption | with_reducible apply clearActs_evolves | with_reducible apply completeClear_evolves
    | with_reducible apply setFlags_evolves | with_reducible apply completePlace_evolves
    | with_reducible apply takeHeldPress_evolves | exact id | split

theorem stateCheckFails_evolves {s0 : State} {s : State} (h : Evolves s0 s) : Evolves s0 (stateCheckFails s) :=
  raise_evolves (reportFault_evolves h)

theorem writeDerived_evolves {s0 : State} {s : State} (h : Evolves s0 s) :
    Evolves s0 (writeDerived s) := by
  unfold writeDerived
  try dsimp only
  repeat' first
    | with_reducible assumption | with_reducible apply writeState_evolves
    | with_reducible apply stateCheckFails_evolves | exact id | split

theorem enterDerived_evolves {s0 : State} {s : State} (h : Evolves s0 s) :
    Evolves s0 (enterDerived s) := by
  unfold enterDerived
  try dsimp only
  repeat' first
    | with_reducible assumption | with_reducible apply enter_evolves | with_reducible apply huntAgain_evolves
    | with_reducible apply enterCallbackWait_evolves | with_reducible apply stopHunt_evolves
    | with_reducible apply enterIdle_evolves | exact id | split

theorem recover_evolves {s0 : State} {handed : Option Serving} {s : State} (h : Evolves s0 s) :
    Evolves s0 (recover handed s) := by
  unfold recover
  try dsimp only
  repeat' first
    | with_reducible assumption | with_reducible apply letGo_evolves | with_reducible apply stopMask_evolves
    | with_reducible apply stopCallbackTimer_evolves | with_reducible apply lmuStop_evolves
    | with_reducible apply vswMutes_evolves | with_reducible apply recoverOrders_evolves
    | with_reducible apply enterDerived_evolves | with_reducible apply writeDerived_evolves
    | with_reducible apply stateCheckFails_evolves | with_reducible apply raise_evolves
    | with_reducible apply letServingGo_evolves | with_reducible apply Evolves.withCtx | exact id | split

theorem transition_evolves {s0 s : State} {handed : Option Serving} {f : State → State} (hf : EvolvesState f)
    (h : Evolves s0 s) : Evolves s0 (transition handed f s) := by
  unfold transition
  split
  · exact hf s0 s h
  · exact recover_evolves h

theorem clearingOrders_evolves {s0 : State} {cause : LastEnd} {s : State} (h : Evolves s0 s) :
    Evolves s0 (clearingOrders cause s) := by
  unfold clearingOrders
  try dsimp only
  repeat' first
    | with_reducible assumption | with_reducible apply completeClear_evolves
    | with_reducible apply completePlace_evolves | exact id | split

theorem finishClearing_evolves {s0 : State} {s : State} (h : Evolves s0 s) :
    Evolves s0 (finishClearing s) := by
  unfold finishClearing
  try dsimp only
  repeat' first
    | with_reducible assumption | with_reducible apply clearingOrders_evolves | with_reducible apply enterIdle_evolves
    | with_reducible apply enterCallbackWait_evolves | with_reducible apply raise_evolves
    | with_reducible apply takeHeldPress_evolves | exact id | split

theorem clearingCheck_evolves {s0 s : State} {n : Nat} (h : Evolves s0 s) : Evolves s0 (clearingCheck n s) := by
  induction n generalizing s with
  | zero => exact h
  | succ n ih =>
    unfold clearingCheck
    split
    · exact ih (transition_evolves (fun _ _ g => finishClearing_evolves g) h)
    · exact h

theorem calEvent_evolves {s0 s : State} {f : State → State} (hf : EvolvesState f) (h : Evolves s0 s) :
    Evolves s0 (calEvent f s) := publishCall_evolves (clearingCheck_evolves (hf s0 s h))

theorem connectTo_evolves {s0 : State} {x : Serving} {s : State} (h : Evolves s0 s) :
    Evolves s0 (connectTo x s) := by
  unfold connectTo
  try dsimp only
  repeat' first
    | with_reducible assumption | with_reducible apply Evolves.withCtx

theorem enterLocating_evolves {s0 : State} {p : Pos} {s : State} (h : Evolves s0 s) :
    Evolves s0 (enterLocating p s) := by
  unfold enterLocating
  try dsimp only
  repeat' first
    | with_reducible assumption | with_reducible apply enter_evolves | with_reducible apply lmuStart_evolves
    | with_reducible apply raise_evolves | with_reducible apply completePlace_evolves
    | with_reducible apply Evolves.withCtx

theorem clearSummary_evolves {s0 : State} {p : Pos} {s : State} (h : Evolves s0 s) :
    Evolves s0 (clearSummary p s) := by
  unfold clearSummary
  try dsimp only
  repeat' first
    | with_reducible assumption | with_reducible apply Evolves.withCtx

theorem takeWinner_evolves {s0 : State} {k : Key} {s : State} (h : Evolves s0 s) :
    Evolves s0 (takeWinner k s) := by
  unfold takeWinner
  try dsimp only
  repeat' first
    | with_reducible assumption | with_reducible apply letGo_evolves | with_reducible apply clearSummary_evolves
    | with_reducible apply enterLocating_evolves | with_reducible refine transition_evolves (fun s0 s h => ?_) ?_
    | with_reducible apply connectTo_evolves | exact id | split

theorem hangUp_evolves {s0 : State} {s : State} (h : Evolves s0 s) :
    Evolves s0 (hangUp s) := by
  unfold hangUp
  try dsimp only
  repeat' first
    | with_reducible assumption | with_reducible apply enterClearing_evolves

theorem talkFromLocating_evolves {s0 s : State} (h : Evolves s0 s) : Evolves s0 (talkFromLocating s) := by
  have h1 := touch_evolves (index := 29) (enter_evolves (x := .talk) h)
  unfold talkFromLocating
  dsimp only
  generalize touch 29 (enter .talk s) = u at h1 ⊢
  split
  · split
    · exact hangUp_evolves (stopMask_evolves h1)
    · exact stopMask_evolves h1
  · exact setFlags_evolves (h1.withCal rfl)

theorem takeConcluded_evolves {s0 : State} {delivered : Bool} {s : State} (h : Evolves s0 s) :
    Evolves s0 (takeConcluded delivered s) := by
  unfold takeConcluded
  try dsimp only
  repeat' first
    | with_reducible assumption | with_reducible apply clearActs_evolves
    | with_reducible apply talkFromLocating_evolves | refine transition_evolves (fun s0 s h => ?_) ?_
    | with_reducible apply Evolves.withCtx | exact id | split

theorem takePress_evolves {s0 : State} {s : State} (h : Evolves s0 s) :
    Evolves s0 (takePress s) := by
  unfold takePress
  try dsimp only
  repeat' first
    | with_reducible assumption | with_reducible refine transition_evolves (fun s0 s h => ?_) ?_
    | with_reducible apply pressEffect_evolves | exact id | split

theorem takeHookOn_evolves {s0 : State} {s : State} (h : Evolves s0 s) :
    Evolves s0 (takeHookOn s) := by
  unfold takeHookOn
  try dsimp only
  repeat' first
    | with_reducible assumption | with_reducible apply setFlags_evolves
    | with_reducible refine transition_evolves (fun s0 s h => ?_) ?_ | with_reducible apply hangUp_evolves | exact id
    | split

theorem takeHookOff_evolves {s0 : State} {s : State} (h : Evolves s0 s) :
    Evolves s0 (takeHookOff s) := by
  unfold takeHookOff
  try dsimp only
  repeat' first
    | with_reducible assumption | with_reducible apply setFlags_evolves

theorem takeMaskExpiry_evolves {s0 : State} {s : State} (h : Evolves s0 s) :
    Evolves s0 (takeMaskExpiry s) := by
  unfold takeMaskExpiry
  try dsimp only
  repeat' first
    | with_reducible assumption | with_reducible apply stopMask_evolves
    | with_reducible refine transition_evolves (fun s0 s h => ?_) ?_ | with_reducible apply hangUp_evolves | exact id
    | split

theorem leaveConnected_evolves {s0 : State} {s : State} (h : Evolves s0 s) :
    Evolves s0 (leaveConnected s) := by
  unfold leaveConnected
  try dsimp only
  repeat' first
    | with_reducible assumption | with_reducible apply stopMask_evolves | with_reducible apply lmuStop_evolves
    | exact id | split

theorem afterLoss_evolves {s0 : State} {s : State} (h : Evolves s0 s) :
    Evolves s0 (afterLoss s) := by
  unfold afterLoss
  try dsimp only
  repeat' first
    | with_reducible assumption | with_reducible apply hangUp_evolves | with_reducible apply clearActs_evolves
    | exact id | split

theorem loseConnection_evolves {s0 : State} {cause : LastEnd} {s : State} (h : Evolves s0 s) :
    Evolves s0 (loseConnection cause s) := by
  unfold loseConnection
  try dsimp only
  repeat' first
    | with_reducible assumption | with_reducible apply ctuDropped_evolves
    | with_reducible apply huntAgain_evolves | with_reducible apply leaveConnected_evolves
    | with_reducible apply stateAudio_evolves | with_reducible apply writeState_evolves
    | with_reducible apply tellState_evolves | with_reducible apply afterLoss_evolves
    | with_reducible apply Evolves.withCtx | exact id | split

theorem centreClears_evolves {s0 : State} {s : State} (h : Evolves s0 s) :
    Evolves s0 (centreClears s) := by
  unfold centreClears
  try dsimp only
  repeat' first
    | with_reducible assumption | with_reducible apply stopMask_evolves | with_reducible apply lmuStop_evolves
    | with_reducible apply stopHunt_evolves | with_reducible apply pendingUndelivered_evolves
    | with_reducible apply ctuConnectionRelease_evolves | with_reducible apply enterCallbackWait_evolves
    | with_reducible apply Evolves.withCtx | exact id | split

theorem endPendingRelease_evolves {s0 : State} {p : Pos} {s : State} (h : Evolves s0 s) :
    Evolves s0 (endPendingRelease p s) := by
  unfold endPendingRelease
  try dsimp only
  repeat' first
    | with_reducible assumption | with_reducible apply Evolves.withCtx | exact id | split

theorem takeEnded_evolves {s0 : State} {p : Pos} {cause : EndCause} {s : State} (h : Evolves s0 s) :
    Evolves s0 (takeEnded p cause s) := by
  unfold takeEnded
  try dsimp only
  repeat' first
    | with_reducible assumption | with_reducible apply endPendingRelease_evolves
    | with_reducible apply loseConnection_evolves | with_reducible apply centreClears_evolves
    | with_reducible refine transition_evolves (fun s0 s h => ?_) ?_ | exact id | split

theorem takeServiceLost_evolves {s0 : State} {p : Pos} {s : State} (h : Evolves s0 s) :
    Evolves s0 (takeServiceLost p s) := by
  unfold takeServiceLost
  try dsimp only
  repeat' first
    | with_reducible assumption | with_reducible apply loseConnection_evolves
    | with_reducible refine transition_evolves (fun s0 s h => ?_) ?_ | exact id | split

theorem takeModuleLeft_evolves {s0 : State} {p : Pos} {s : State} (h : Evolves s0 s) :
    Evolves s0 (takeModuleLeft p s) := by
  unfold takeModuleLeft
  try dsimp only
  repeat' first
    | with_reducible assumption | with_reducible apply endPendingRelease_evolves
    | with_reducible apply loseConnection_evolves | with_reducible refine transition_evolves (fun s0 s h => ?_) ?_
    | exact id | split

theorem takeReleaseResult_evolves {s0 : State} {p : Pos} {s : State} (h : Evolves s0 s) :
    Evolves s0 (takeReleaseResult p s) := by
  unfold takeReleaseResult
  try dsimp only
  repeat' first
    | with_reducible assumption | with_reducible apply Evolves.withCtx

theorem endAnswer_evolves {s0 : State} {s : State} (h : Evolves s0 s) :
    Evolves s0 (endAnswer s) := by
  unfold endAnswer
  try dsimp only
  repeat' first
    | with_reducible assumption | with_reducible apply vswTone_evolves | with_reducible apply Evolves.withCtx

theorem answerFailed_evolves {s0 : State} {s : State} (h : Evolves s0 s) :
    Evolves s0 (answerFailed s) := by
  unfold answerFailed
  try dsimp only
  repeat' first
    | with_reducible assumption | with_reducible apply endAnswer_evolves | with_reducible apply windowExpired_evolves
    | with_reducible refine transition_evolves (fun s0 s h => ?_) ?_ | exact id | split

theorem queueAnswer_evolves {s0 : State} {p : Pos} {s : State} (h : Evolves s0 s) :
    Evolves s0 (queueAnswer p s) := by
  unfold queueAnswer
  try dsimp only
  repeat' first
    | with_reducible assumption | with_reducible apply vswTone_evolves
    | with_reducible refine enqueue_evolves_eq (by assumption) (by decide) ?_
    | with_reducible refine enqueue_evolves (by decide) ?_ | with_reducible apply answerFailed_evolves
    | with_reducible apply Evolves.withCtx | exact id | split

theorem queueReject_evolves {s0 : State} {p : Pos} {s : State} (h : Evolves s0 s) :
    Evolves s0 (queueReject p s) := by
  unfold queueReject
  try dsimp only
  repeat' first
    | with_reducible assumption | with_reducible refine enqueue_evolves (by decide) ?_

theorem takeIncoming_evolves {s0 : State} {p : Pos} {s : State} (h : Evolves s0 s) :
    Evolves s0 (takeIncoming p s) := by
  unfold takeIncoming
  try dsimp only
  repeat' first
    | with_reducible assumption | with_reducible apply touch_evolves | with_reducible apply queueReject_evolves
    | with_reducible apply queueAnswer_evolves | exact id | split

theorem talkOnIncoming_evolves {s0 : State} {p : Pos} {s : State} (h : Evolves s0 s) :
    Evolves s0 (talkOnIncoming p s) := by
  unfold talkOnIncoming
  try dsimp only
  repeat' first
    | with_reducible assumption | with_reducible apply enter_evolves | with_reducible apply raise_evolves
    | with_reducible apply connectTo_evolves | with_reducible apply Evolves.withCtx

theorem answerConnects_evolves {s0 : State} {p : Pos} {s : State} (h : Evolves s0 s) :
    Evolves s0 (answerConnects p s) := by
  unfold answerConnects
  try dsimp only
  repeat' first
    | with_reducible assumption | with_reducible apply calRelease_evolves
    | with_reducible apply hntIncomingWon_evolves | with_reducible apply stopCallback_evolves
    | with_reducible apply talkOnIncoming_evolves | with_reducible apply enterLocating_evolves
    | with_reducible apply openCall_evolves | with_reducible apply raise_evolves
    | with_reducible refine transition_evolves (fun s0 s h => ?_) ?_ | with_reducible apply connectTo_evolves
    | exact id | split

theorem takeAnswerResult_evolves {s0 : State} {p : Pos} {ok : Bool} {s : State} (h : Evolves s0 s) :
    Evolves s0 (takeAnswerResult p ok s) := by
  unfold takeAnswerResult
  try dsimp only
  repeat' first
    | with_reducible assumption | with_reducible apply answerConnects_evolves
    | with_reducible apply answerFailed_evolves | with_reducible apply endAnswer_evolves | exact id | split

theorem takeNoCarrier_evolves {s0 : State} {s : State} (h : Evolves s0 s) :
    Evolves s0 (takeNoCarrier s) := by
  unfold takeNoCarrier
  try dsimp only
  repeat' first
    | with_reducible assumption | with_reducible apply enterClearing_evolves
    | with_reducible apply pendingUndelivered_evolves | with_reducible refine transition_evolves (fun s0 s h => ?_) ?_
    | with_reducible apply Evolves.withCtx | exact id | split

theorem takeRecord_evolves {s0 : State} {p : Pos} {x : Summary} {s : State} (h : Evolves s0 s) :
    Evolves s0 (takeRecord p x s) := by
  unfold takeRecord
  try dsimp only
  repeat' first
    | with_reducible assumption | with_reducible apply Evolves.withCtx

theorem takeAttemptsClear_evolves {s0 : State} {s : State} (h : Evolves s0 s) :
    Evolves s0 (takeAttemptsClear s) := by
  unfold takeAttemptsClear
  try dsimp only
  repeat' first
    | with_reducible assumption | with_reducible apply Evolves.withCtx | exact id | split

theorem takeCallbackExpiry_evolves {s0 : State} {s : State} (h : Evolves s0 s) :
    Evolves s0 (takeCallbackExpiry s) := by
  unfold takeCallbackExpiry
  try dsimp only
  repeat' first
    | with_reducible assumption | with_reducible apply stopCallback_evolves
    | with_reducible apply windowExpired_evolves | with_reducible refine transition_evolves (fun s0 s h => ?_) ?_
    | exact id | split

theorem takeCallbackSecond_evolves {s0 : State} {s : State} (h : Evolves s0 s) :
    Evolves s0 (takeCallbackSecond s) := by
  unfold takeCallbackSecond
  try dsimp only
  repeat' first
    | with_reducible assumption | with_reducible refine Evolves.withCal ?_ rfl | exact id | split

theorem takePlace_evolves {s0 : State} {held : Held} {kind : CallKind} {s : State} (h : Evolves s0 s) :
    Evolves s0 (takePlace held kind s) := by
  unfold takePlace
  try dsimp only
  repeat' first
    | with_reducible assumption | with_reducible refine Evolves.withCal ?_ rfl | with_reducible apply touch_evolves
    | with_reducible apply complete_evolves | with_reducible apply startCall_evolves
    | with_reducible refine transition_evolves (fun s0 s h => ?_) ?_ | exact id | split

theorem takeClear_evolves {s0 : State} {held : Held} {s : State} (h : Evolves s0 s) :
    Evolves s0 (takeClear held s) := by
  unfold takeClear
  try dsimp only
  repeat' first
    | with_reducible assumption | with_reducible apply clearActs_evolves | with_reducible refine Evolves.withCal ?_ rfl
    | with_reducible apply complete_evolves | with_reducible apply setFlags_evolves
    | with_reducible refine transition_evolves (fun s0 s h => ?_) ?_ | exact id | split

theorem calSoftReset_evolves {s0 : State} {s : State} (h : Evolves s0 s) :
    Evolves s0 (calSoftReset s) := by
  unfold calSoftReset
  try dsimp only
  repeat' first
    | with_reducible assumption | with_reducible refine Evolves.withCal ?_ rfl | with_reducible apply setFlags_evolves

/-! ### PlanUnit -/

theorem endHolding_evolves {s0 : State} {s : State} (h : Evolves s0 s) :
    Evolves s0 (endHolding s) := by
  unfold endHolding
  try dsimp only
  repeat' first
    | with_reducible assumption | with_reducible refine Evolves.withPln ?_ id
    | with_reducible apply releaseModules_evolves

theorem installAndRelease_evolves {s0 : State} {plan : Plan} {source : PlanSource} {s : State}
    (hp : plansInRange s.pln = true → planInRange plan = true) (h : Evolves s0 s) :
    Evolves s0 (installAndRelease plan source s) := by
  unfold installAndRelease
  dsimp only
  split
  · exact endHolding_evolves (install_evolves hp h)
  · exact install_evolves hp h

theorem plnGraceExpiry_evolves {s0 : State} {s : State} (h : Evolves s0 s) :
    Evolves s0 (plnGraceExpiry s) := by
  unfold plnGraceExpiry
  try dsimp only
  repeat' first
    | with_reducible assumption
    | with_reducible refine installAndRelease_evolves (fun _ => builtInPlan_inRange) ?_ | exact id | split

theorem plnTakePress_evolves {s0 : State} {s : State} (h : Evolves s0 s) :
    Evolves s0 (plnTakePress s) := by
  unfold plnTakePress
  try dsimp only
  repeat' first
    | with_reducible assumption
    | with_reducible refine installAndRelease_evolves (fun _ => builtInPlan_inRange) ?_ | exact id | split

theorem completeLoad_evolves {s0 : State} {o : OrderOutcome} {detail : Word} {s : State} (h : Evolves s0 s) :
    Evolves s0 (completeLoad o detail s) :=
  (completeIfHeld_evolves h).withPln fun a => by
    rw [(completeIfHeld_link (LinkStep.refl s)).pln] at a
    exact a

theorem discardStaged_evolves {s0 : State} {s : State} (h : Evolves s0 s) :
    Evolves s0 (discardStaged s) := h.withPln fun a => by
  simp only [plansInRange, Bool.and_eq_true] at a ⊢
  exact ⟨a.1, rfl⟩

theorem startStore_evolves {s0 : State} {plan : Plan} {detail : Word} {s : State} (hp : planInRange plan = true)
    (h : Evolves s0 s) : Evolves s0 (startStore plan detail s) :=
  setStoreState_evolves (h.withPln fun a => by
    simp only [plansInRange, Bool.and_eq_true] at a ⊢
    exact ⟨a.1, hp⟩)

theorem clampTo_range {lo hi x : Nat} (h : lo ≤ hi) : inRange lo hi (clampTo lo hi x) = true := by
  rw [inRange_iff, clampTo]
  omega

theorem clampTens_range {lo hi x : Nat} (h : lo ≤ hi) (hl : lo % 10 = 0) :
    inRange lo hi (clampTens lo hi x) = true ∧ (clampTens lo hi x % 10 == 0) = true := by
  rw [inRange_iff, clampTens, clampTo, beq_iff_eq]
  omega

/-- A clamped plan has its numbers in range, where its gap is that of a byte (R175). -/
theorem clampPlan_inRange {p : Plan} (h : p.call.gap ≤ 255) : planInRange (clampPlan p) = true := by
  have ht (lo hi x : Nat) (h : lo ≤ hi) : inRange lo hi (clampTo lo hi x) = true := clampTo_range h
  have hs := clampTens_range (lo := 0) (hi := 2000) (x := p.hunt.stagger) (by omega) rfl
  have hon := clampTens_range (lo := 10) (hi := 2000) (x := p.call.reassureOn) (by omega) rfl
  have hoff := clampTens_range (lo := 100) (hi := 10000) (x := p.call.reassureOff) (by omega) rfl
  have hg : inRange 0 255 p.call.gap = true := by rw [inRange_iff]; omega
  have hc : inRange 10 300 (max (clampTo 1 30 p.hunt.backoffBase) (clampTo 10 300 p.hunt.backoffCap)) = true := by
    rw [inRange_iff, clampTo, clampTo]
    omega
  have hm : -130 ≤ max (-130) (min (-90) p.hunt.minLevel) ∧ max (-130) (min (-90) p.hunt.minLevel) ≤ -90 := by omega
  simp only [planInRange, huntInRange, callInRange, clampPlan, clampHunt, clampCall, Bool.and_eq_true]
  exact ⟨⟨⟨⟨⟨⟨⟨⟨⟨⟨⟨⟨⟨⟨⟨⟨⟨⟨⟨ht _ _ _ (by omega), ht _ _ _ (by omega)⟩, ht _ _ _ (by omega)⟩,
    ht _ _ _ (by omega)⟩, ht _ _ _ (by omega)⟩, ht _ _ _ (by omega)⟩, decide_eq_true hm.1⟩, decide_eq_true hm.2⟩, hs.1⟩, hs.2⟩,
    ht _ _ _ (by omega)⟩, ht _ _ _ (by omega)⟩, ht _ _ _ (by omega)⟩, ht _ _ _ (by omega)⟩, hc⟩,
    decide_eq_true (le_max_left _ _)⟩, ht _ _ _ (by omega)⟩, ht _ _ _ (by omega)⟩, ht _ _ _ (by omega)⟩,
    ⟨⟨⟨⟨⟨⟨ht _ _ _ (by omega), ht _ _ _ (by omega)⟩, ht _ _ _ (by omega)⟩, hg⟩, hon.1⟩, hon.2⟩, hoff.1⟩, hoff.2⟩

theorem clampPlan_planOf_inRange (raw : List Byte) : planInRange (clampPlan (planOf raw)) = true :=
  clampPlan_inRange (by have := (at8 raw 209).isLt; simp only [planOf]; omega)

theorem loadImage_evolves {s0 : State} {raw : List Byte} {c : Copy} {s : State} (h : Evolves s0 s) :
    Evolves s0 (loadImage raw c s) := by
  unfold loadImage
  try dsimp only
  repeat' first
    | with_reducible assumption | with_reducible apply discardStaged_evolves
    | with_reducible refine installAndRelease_evolves (fun _ => clampPlan_planOf_inRange _) ?_
    | with_reducible refine startStore_evolves (clampPlan_planOf_inRange _) ?_
    | with_reducible apply completeLoad_evolves | exact id | split

theorem noteTrespass_evolves {s0 : State} {s : State} (h : Evolves s0 s) :
    Evolves s0 (noteTrespass s) := by
  unfold noteTrespass
  try dsimp only
  repeat' first
    | with_reducible assumption | with_reducible refine Evolves.withPln ?_ id | exact id | split

theorem storeStep_evolves {s0 : State} {marker : Marker} {area : ImageArea} {phase : Option StorePhase} {s : State}
    (ha : plansInRange s.pln = true → areaInRange area = true) (h : Evolves s0 s) :
    Evolves s0 (storeStep marker area phase s) := h.withPln fun a => by
  have b := ha a
  simp only [plansInRange, Bool.and_eq_true] at a ⊢
  exact ⟨⟨a.1.1, b⟩, a.2⟩

/-- The area that a program pass leaves is in range. -/
theorem programmed_inRange {x : Pln} (matched : Bool) (h : plansInRange x = true) :
    areaInRange (programmed matched x.staged) = true := by
  simp only [plansInRange, Bool.and_eq_true] at h
  have := h.2
  unfold programmed
  split
  · rename_i e
    rw [e] at this
    split
    · exact this
    · rfl
  · rfl
  · rfl

theorem plnMarkerDone_evolves {s0 : State} {s : State} (h : Evolves s0 s) :
    Evolves s0 (plnMarkerDone s) := by
  unfold plnMarkerDone
  try dsimp only
  repeat' first
    | with_reducible assumption | with_reducible refine storeStep_evolves (fun _ => rfl) ?_ | split

theorem storeFails_evolves {s0 : State} {detail : Nat} {s : State} (h : Evolves s0 s) :
    Evolves s0 (storeFails detail s) := by
  refine completeLoad_evolves (reportFault_evolves (setStoreState_evolves (h.withPln fun a => ?_)))
  simp only [plansInRange, Bool.and_eq_true] at a ⊢
  exact ⟨a.1, rfl⟩

theorem plnEraseDone_evolves {s0 : State} {blank : Bool} {s : State} (h : Evolves s0 s) :
    Evolves s0 (plnEraseDone blank s) := by
  unfold plnEraseDone
  repeat' first
    | with_reducible assumption | with_reducible refine storeStep_evolves (fun _ => rfl) ?_
    | with_reducible apply storeFails_evolves | split

theorem plnProgramDone_evolves {s0 : State} {matched : Bool} {s : State} (h : Evolves s0 s) :
    Evolves s0 (plnProgramDone matched s) := by
  unfold plnProgramDone
  dsimp only
  repeat' first
    | with_reducible assumption | with_reducible refine storeStep_evolves (fun a => programmed_inRange _ a) ?_
    | with_reducible apply storeFails_evolves | split

theorem plnCompleteDone_evolves {s0 : State} {s : State} (h : Evolves s0 s) :
    Evolves s0 (plnCompleteDone s) := by
  unfold plnCompleteDone
  try dsimp only
  repeat' first
    | with_reducible assumption | with_reducible apply setStoreState_evolves
    | with_reducible apply discardStaged_evolves
    | with_reducible refine storeStep_evolves (fun a => area_inRange a) ?_
    | with_reducible apply completeLoad_evolves | exact id | split

theorem plnSoftReset_evolves {s0 : State} {s : State} (h : Evolves s0 s) :
    Evolves s0 (plnSoftReset s) := by
  unfold plnSoftReset
  try dsimp only
  repeat' first
    | with_reducible assumption | with_reducible refine Evolves.withPln ?_ id

/-! ### Deliver -/

theorem dispatchEvent_evolves {s0 : State} {p : Pos} {e : ModuleEvent} {s : State} (h : Evolves s0 s) :
    Evolves s0 (dispatchEvent p e s) := by
  unfold dispatchEvent
  try dsimp only
  repeat' first
    | with_reducible assumption | with_reducible apply postAll_evolves

theorem dispatchRecords_evolves {s0 : State} {p : Pos} {records : List EventRecord} {s : State} (h : Evolves s0 s) :
    Evolves s0 (dispatchRecords p records s) := by
  unfold dispatchRecords
  try dsimp only
  repeat' first
    | with_reducible assumption | with_reducible apply postAll_evolves

theorem takeModuleEvent_evolves {s0 : State} {p : Pos} {e : ModuleEvent} {s : State} (h : Evolves s0 s) :
    Evolves s0 (takeModuleEvent p e s) := by
  unfold takeModuleEvent
  try dsimp only
  repeat' first
    | with_reducible assumption | with_reducible apply takeEnded_evolves | with_reducible apply takeIncoming_evolves
    | with_reducible apply takeServiceLost_evolves | exact id | split

/-- Taking an internal event evolves the state. -/
theorem handle_evolves {s0 s : State} {m : Msg} (h : Evolves s0 s) : Evolves s0 (handle m s) := by
  cases m <;> unfold handle <;> dsimp only
  · exact hntTakeKeys_evolves h
  · exact hntTakeGatherEnd_evolves h
  · exact hntTakeResult_evolves h
  · exact hntTakeStray_evolves h
  · exact hntTakeModule_evolves h
  · exact hntTakeRole_evolves h
  · exact hntTakePlan_evolves h
  · exact hntTakeEvent_evolves h
  · exact calEvent_evolves (fun _ _ g => g.withCtx) h
  · exact calEvent_evolves (fun _ _ g => g.withCtx) h
  · exact calEvent_evolves (fun _ _ g => takeRecord_evolves g) h
  · exact calEvent_evolves (fun _ _ g => clearSummary_evolves g) h
  · exact calEvent_evolves (fun _ _ g => g.withCtx) h
  · exact calEvent_evolves (fun _ _ g => takeAttemptsClear_evolves g) h
  · exact calEvent_evolves (fun _ _ g => takeNoCarrier_evolves g) h
  · exact calEvent_evolves (fun _ _ g => takeWinner_evolves g) h
  · exact calEvent_evolves (fun _ _ g => takeAnswerResult_evolves g) h
  · exact calEvent_evolves (fun _ _ g => takeReleaseResult_evolves g) h
  · exact calEvent_evolves (fun _ _ g => takeModuleLeft_evolves g) h
  · exact calEvent_evolves (fun _ _ g => takeModuleEvent_evolves g) h
  · exact calEvent_evolves (fun _ _ g => takeConcluded_evolves g) h
  · exact calEvent_evolves (fun _ _ g => takePress_evolves g) h
  · exact calEvent_evolves (fun _ _ g => takeHookOn_evolves g) h
  · exact calEvent_evolves (fun _ _ g => takeHookOff_evolves g) h
  · exact lmuTakeResult_evolves h
  · exact lmuTakeVerdict_evolves h
  · exact wchTakeResult_evolves h
  · exact wchTakeModule_evolves h
  · exact wchTakeRole_evolves h
  · exact wchTakeList_evolves h
  · exact wchTakeReady_evolves h
  · exact ctuLevelReport_evolves h
  · exact plnTakePress_evolves h

/-- A report waits behind the earlier ones of its stream: of each stream the inbox keeps the order. -/
theorem inboxAfter_stream (k : Nat) (newer waiting : List Msg) :
    (inboxAfter newer waiting).filter (fun m => stream m == some k) =
      waiting.filter (fun m => stream m == some k) ++ newer.filter (fun m => stream m == some k) := by
  have split : ∀ b : Bool, newer.any (fun n => stream n == some k) = b → ∀ m, (stream m == some k) = true →
      goesFirst newer m = b := by
    intro b hb m hm
    have e : stream m = some k := by simpa using hm
    simp [goesFirst, e, hb]
  simp only [inboxAfter, List.filter_append, List.filter_filter]
  cases hb : newer.any (fun n => stream n == some k) with
  | true =>
    have h1 : waiting.filter (fun m => stream m == some k && goesFirst newer m) =
        waiting.filter (fun m => stream m == some k) :=
      List.filter_congr (fun m _ => by cases h : stream m == some k <;> simp [split true hb m, h])
    have h2 : waiting.filter (fun m => stream m == some k && !goesFirst newer m) = [] :=
      List.filter_eq_nil_iff.mpr (fun m _ => by cases h : stream m == some k <;> simp [split true hb m, h])
    rw [h1, h2, List.append_nil]
  | false =>
    have h0 : newer.filter (fun m => stream m == some k) = [] :=
      List.filter_eq_nil_iff.mpr (fun m hm h => by simpa [h] using List.any_eq_false.mp hb m hm)
    have h1 : waiting.filter (fun m => stream m == some k && goesFirst newer m) = [] :=
      List.filter_eq_nil_iff.mpr (fun m _ => by cases h : stream m == some k <;> simp [split false hb m, h])
    have h2 : waiting.filter (fun m => stream m == some k && !goesFirst newer m) =
        waiting.filter (fun m => stream m == some k) :=
      List.filter_congr (fun m _ => by cases h : stream m == some k <;> simp [split false hb m, h])
    rw [h0, h1, h2, List.nil_append, List.nil_append, List.append_nil]

/-- With nothing waiting, the inbox is what the event set off. -/
theorem inboxAfter_nil (newer : List Msg) : inboxAfter newer [] = newer := by simp [inboxAfter]

/-- The inbox apart, one internal event evolves the state. -/
theorem drainOne_evolves {s0 s : State} {m : Msg} {rest : List Msg} (h : Evolves s0 s) :
    Evolves s0 (drainOne m rest s) := (handle_evolves h.withInbox).withInbox

/-- A cascade evolves the state. -/
theorem drain_evolves {s0 s : State} {n : Nat} (h : Evolves s0 s) : Evolves s0 (drain n s) := by
  induction n generalizing s with
  | zero => exact h.withInbox
  | succ n ih =>
    unfold drain
    split
    · exact h
    · exact ih (drainOne_evolves h)

/-- A cascade leaves no internal event. -/
theorem drain_inbox (n : Nat) (s : State) : (drain n s).inbox = [] := by
  induction n generalizing s with
  | zero => rfl
  | succ n ih =>
    unfold drain
    split
    · assumption
    · exact ih _

/-- With no internal event there is no cascade. -/
theorem drain_of_inbox {n : Nat} {s : State} (h : s.inbox = []) : drain n s = s := by
  cases n with
  | zero => cases s; simp_all [drain, State.withInbox]
  | succ n => unfold drain; rw [h]

theorem settled_of_inbox {s : State} (h : s.inbox = []) : settled s = .next s := by
  rw [settled, drain_of_inbox h]

/-- What a settled command answers has no internal event left. -/
theorem settled_eq {s t : State} (h : settled s = .next t) : t = drain Config.cascadeFuel s := by
  cases h
  rfl

end Sys2Proof.Machine
end

