-- ==== Sys2Proof/Laws/PerInstr.lean ====
section
/-! SUPPORT. Statements made for each command on its own. `RegisterWrite`: a command that a host register write spells is
well formed, whatever the address and the word (R187). -/

namespace Sys2Proof.Laws

/-- A host register write never spells an ill-formed command. -/
def RegisterWrite.Statement (i : Instr) : Prop :=
  ∀ (addr : BitVec 11) (value : Word), registerWriteCommand addr value = some i → i.wellFormed = true

/-- What a register write can spell: the six registers, and the addresses beyond them. -/
theorem registerWriteCommand_cases (addr : BitVec 11) (value : Word) (i : Instr)
    (h : registerWriteCommand addr value = some i) :
    i = .doze ∨ i = .wake ∨ i = .softReset ∨ i = .releaseFault ∨ i = .clearTally ∨ i = .offerWrite value ∨
      i = .doneWrite value ∨ i = .causeWrite value ∨ i = .causeenWrite value ∨ i = .lampsWrite value ∨
      (i = .unusedRegisterWrite addr value ∧ 6 ≤ addr.toNat) := by
  unfold registerWriteCommand at h
  split at h
  · split at h <;> simp_all
  · simp_all
  · simp_all
  · simp_all
  · simp_all
  · simp_all
  · simp only [Option.some.injEq] at h
    next h0 h1 h2 h3 h4 h5 =>
      have hge : 6 ≤ addr.toNat := by
        have e0 : addr.toNat ≠ 0 := h0
        have e1 : addr.toNat ≠ 1 := h1
        have e2 : addr.toNat ≠ 2 := h2
        have e3 : addr.toNat ≠ 3 := h3
        have e4 : addr.toNat ≠ 4 := h4
        have e5 : addr.toNat ≠ 5 := h5
        omega
      subst h
      simp [hge]

namespace RegisterWrite

theorem powerOnReset (straps : Straps) (pins : Pins) : Statement (.powerOnReset straps pins) := fun _ _ _ => rfl

theorem pinReset (straps : Straps) (pins : Pins) : Statement (.pinReset straps pins) := fun _ _ _ => rfl

theorem doze : Statement .doze := fun _ _ _ => rfl

theorem wake : Statement .wake := fun _ _ _ => rfl

theorem softReset : Statement .softReset := fun _ _ _ => rfl

theorem releaseFault : Statement .releaseFault := fun _ _ _ => rfl

theorem clearTally : Statement .clearTally := fun _ _ _ => rfl

theorem offerWrite (value : Word) : Statement (.offerWrite value) := fun _ _ _ => rfl

theorem doneWrite (value : Word) : Statement (.doneWrite value) := fun _ _ _ => rfl

theorem causeWrite (value : Word) : Statement (.causeWrite value) := fun _ _ _ => rfl

theorem causeenWrite (value : Word) : Statement (.causeenWrite value) := fun _ _ _ => rfl

theorem lampsWrite (value : Word) : Statement (.lampsWrite value) := fun _ _ _ => rfl

theorem unusedRegisterWrite (addr : BitVec 11) (value : Word) : Statement (.unusedRegisterWrite addr value) := by
  intro x v h
  have := registerWriteCommand_cases x v _ h
  simp_all [Instr.wellFormed]

theorem hostWrite (addr : BitVec 12) (value : Word) : Statement (.hostWrite addr value) := by
  intro x v h
  have := registerWriteCommand_cases x v _ h
  simp_all

theorem placeOrder : Statement .placeOrder := fun _ _ _ => rfl

theorem clearOrder : Statement .clearOrder := fun _ _ _ => rfl

theorem scanOrder : Statement .scanOrder := fun _ _ _ => rfl

theorem loadPlan : Statement .loadPlan := fun _ _ _ => rfl

theorem moduleOrder : Statement .moduleOrder := fun _ _ _ => rfl

theorem unknownKind : Statement .unknownKind := fun _ _ _ => rfl

theorem secondsClockAdvance : Statement .secondsClockAdvance := fun _ _ _ => rfl

theorem benchExpiry : Statement .benchExpiry := fun _ _ _ => rfl

theorem callPress : Statement .callPress := fun _ _ _ => rfl

theorem hookOn : Statement .hookOn := fun _ _ _ => rfl

theorem hookOff : Statement .hookOff := fun _ _ _ => rfl

theorem doorOpen : Statement .doorOpen := fun _ _ _ => rfl

theorem doorClosed : Statement .doorClosed := fun _ _ _ => rfl

theorem quietOn : Statement .quietOn := fun _ _ _ => rfl

theorem quietOff : Statement .quietOff := fun _ _ _ => rfl

theorem patternTimerExpiry (o : Output) : Statement (.patternTimerExpiry o) := fun _ _ _ => rfl

theorem wakeWaitExpiry : Statement .wakeWaitExpiry := fun _ _ _ => rfl

theorem gatherTimerExpiry : Statement .gatherTimerExpiry := fun _ _ _ => rfl

theorem backoffTimerExpiry : Statement .backoffTimerExpiry := fun _ _ _ => rfl

theorem launchStaggerExpiry : Statement .launchStaggerExpiry := fun _ _ _ => rfl

theorem attemptTimerExpiry (p : Pos) : Statement (.attemptTimerExpiry p) := fun _ _ _ => rfl

theorem hookMaskExpiry : Statement .hookMaskExpiry := fun _ _ _ => rfl

theorem callbackTimerExpiry : Statement .callbackTimerExpiry := fun _ _ _ => rfl

theorem acknowledgementTimerExpiry : Statement .acknowledgementTimerExpiry := fun _ _ _ => rfl

theorem gapTimerExpiry : Statement .gapTimerExpiry := fun _ _ _ => rfl

theorem phaseTimerExpiry : Statement .phaseTimerExpiry := fun _ _ _ => rfl

theorem pollTimerExpiry (p : Pos) : Statement (.pollTimerExpiry p) := fun _ _ _ => rfl

theorem bootTimerExpiry (p : Pos) : Statement (.bootTimerExpiry p) := fun _ _ _ => rfl

theorem pulseTimerExpiry (p : Pos) : Statement (.pulseTimerExpiry p) := fun _ _ _ => rfl

theorem probeRetryExpiry (p : Pos) : Statement (.probeRetryExpiry p) := fun _ _ _ => rfl

theorem replyDeadlineExpiry : Statement .replyDeadlineExpiry := fun _ _ _ => rfl

theorem idleWaitEnd : Statement .idleWaitEnd := fun _ _ _ => rfl

theorem idleWaitTimeout : Statement .idleWaitTimeout := fun _ _ _ => rfl

theorem scanStaggerExpiry : Statement .scanStaggerExpiry := fun _ _ _ => rfl

theorem scanIntervalExpiry (p : Pos) : Statement (.scanIntervalExpiry p) := fun _ _ _ => rfl

theorem scanLimitExpiry (p : Pos) : Statement (.scanLimitExpiry p) := fun _ _ _ => rfl

theorem graceTimerExpiry : Statement .graceTimerExpiry := fun _ _ _ => rfl

theorem copyCompletion : Statement .copyCompletion := fun _ _ _ => rfl

theorem storeMarkerDone : Statement .storeMarkerDone := fun _ _ _ => rfl

theorem erasePassDone (blank : Bool) : Statement (.erasePassDone blank) := fun _ _ _ => rfl

theorem programPassDone (matched : Bool) : Statement (.programPassDone matched) := fun _ _ _ => rfl

theorem storeCompleteDone : Statement .storeCompleteDone := fun _ _ _ => rfl

theorem strayCharacter (c : LinkChar) : Statement (.strayCharacter c) := fun _ _ _ => rfl

theorem takeQueueHead : Statement .takeQueueHead := fun _ _ _ => rfl

theorem replyOk : Statement .replyOk := fun _ _ _ => rfl

theorem replyNak (reason : NakReason) : Statement (.replyNak reason) := fun _ _ _ => rfl

theorem status (payload : List Byte) : Statement (.status payload) := by
  intro x v h
  have := registerWriteCommand_cases x v _ h
  simp_all

theorem scanList (payload : List Byte) : Statement (.scanList payload) := by
  intro x v h
  have := registerWriteCommand_cases x v _ h
  simp_all

theorem events (payload : List Byte) : Statement (.events payload) := by
  intro x v h
  have := registerWriteCommand_cases x v _ h
  simp_all

theorem atnAsserted (p : Pos) : Statement (.atnAsserted p) := fun _ _ _ => rfl

theorem callProceeding (p : Pos) : Statement (.callProceeding p) := fun _ _ _ => rfl

theorem callAlerting (p : Pos) : Statement (.callAlerting p) := fun _ _ _ => rfl

theorem callAnswered (p : Pos) : Statement (.callAnswered p) := fun _ _ _ => rfl

theorem callEnded (p : Pos) (cause : EndCause) : Statement (.callEnded p cause) := fun _ _ _ => rfl

theorem serviceLost (p : Pos) : Statement (.serviceLost p) := fun _ _ _ => rfl

theorem incoming (p : Pos) (caller : List Byte) : Statement (.incoming p caller) := by
  intro x v h
  have := registerWriteCommand_cases x v _ h
  simp_all

theorem scanReady (p : Pos) (count : Byte) : Statement (.scanReady p count) := fun _ _ _ => rfl

theorem dataResult (p : Pos) (verdict : DataVerdict) : Statement (.dataResult p verdict) := fun _ _ _ => rfl

theorem levelReport (p : Pos) (level : BitVec 16) (quality : Option Byte) : Statement (.levelReport p level quality) :=
  fun _ _ _ => rfl

theorem replyError (error : ReplyErrorKind) : Statement (.replyError error) := fun _ _ _ => rfl

theorem requestFrameSent : Statement .requestFrameSent := fun _ _ _ => rfl

theorem atnInactive (p : Pos) : Statement (.atnInactive p) := fun _ _ _ => rfl

theorem callRest : Statement .callRest := fun _ _ _ => rfl

theorem inputSample (pins : Pins) : Statement (.inputSample pins) := fun _ _ _ => rfl

theorem planWordDamaged (index : Nat) : Statement (.planWordDamaged index) := by
  intro x v h
  have := registerWriteCommand_cases x v _ h
  simp_all

theorem callStateFlagsDamaged (flags : BitVec 7) : Statement (.callStateFlagsDamaged flags) := by
  intro x v h
  have := registerWriteCommand_cases x v _ h
  simp_all

end RegisterWrite

end Sys2Proof.Laws
end

