-- ==== Sys2Proof/Tests/Slice0.lean ====
section
/-! SUPPORT. Our own tests: the checks of WellFormed on ill-formed commands, small states that meet the hypotheses of the
statements, and one step of commands on small states. -/

namespace Sys2Proof.Tests

open Sys2Proof.Machine

set_option Elab.async false

/-! ### Ill-formed commands -/

theorem test_illFormed_hostWrite_oddAddress : (Instr.hostWrite 0x681 5).wellFormed = false := by decide +kernel
theorem test_illFormed_unusedRegister_lampsAddress : (Instr.unusedRegisterWrite 5 0).wellFormed = false := by decide +kernel
theorem test_illFormed_status_tooLong : (Instr.status (List.replicate 251 0)).wellFormed = false := by decide +kernel
theorem test_illFormed_scanList_tooLong : (Instr.scanList (List.replicate 251 0)).wellFormed = false := by decide +kernel
theorem test_illFormed_events_tooLong : (Instr.events (List.replicate 251 0)).wellFormed = false := by decide +kernel
theorem test_illFormed_incoming_longCaller : (Instr.incoming 0 (List.replicate 21 0x31)).wellFormed = false := by decide +kernel
theorem test_illFormed_planWord_0 : (Instr.planWordDamaged 0).wellFormed = false := by decide +kernel
theorem test_illFormed_planWord_45 : (Instr.planWordDamaged 45).wellFormed = false := by decide +kernel
theorem test_illFormed_callFlags_oneSet : (Instr.callStateFlagsDamaged 0x10).wellFormed = false := by decide +kernel
theorem test_wellFormed_bounds :
    (Instr.hostWrite 0xFFE 5).wellFormed = true ∧ (Instr.unusedRegisterWrite 6 0).wellFormed = true ∧
      (Instr.status (List.replicate 250 0)).wellFormed = true ∧ (Instr.planWordDamaged 1).wellFormed = true ∧
      (Instr.planWordDamaged 44).wellFormed = true ∧ (Instr.callStateFlagsDamaged 0).wellFormed = true ∧
      (Instr.callStateFlagsDamaged 3).wellFormed = true := by decide +kernel

/-! ### Small states -/

/-- Whether a command or a step gives a next state. -/
def ran : Host.Outcome State Fault Refusal → Bool
  | .next _ => true
  | _ => false

/-- What of the next state a command leaves. -/
def after {α : Type} (c : Instr) (s : State) (f : State → α) : Option α :=
  match exec c s with
  | .next t => some (f t)
  | _ => none

/-- A module in service. -/
def servingModule : Module := { resetModule true false with state := .inService, poll := some ⟨5000, false⟩ }

/-- The box at rest: released, three ACTIVE modules in service. -/
def live : State :=
  (State.reset.withPln { State.reset.pln with phase := .released, grace := none }).withMlc
    { State.reset.mlc with modules := PerPos.all servingModule }

/-- The call in a state. -/
def inCall (x : CallState) (s : State) : State :=
  s.withCal { s.cal with ctx := { s.cal.ctx with state := x }, held7 := stateFlags x }

/-- The call context changed. -/
def ctx (f : Context → Context) (s : State) : State := s.withCal { s.cal with ctx := f s.cal.ctx }

/-- The call in a state, on an answered incoming call at position 0. -/
def connected (x : CallState) : State := ctx (fun c => { c with serving := some (.incoming 0) }) (inCall x live)

/-- An order in slot `k`, OFFERED. -/
def offered (k : Fin 8) (bytes : List Byte) (s : State) : State :=
  (s.withMem (memWriteAll s.smp.mem (slotBase k) bytes)).withOrd
    { s.ord with slots := s.ord.slots.set k .offered }

/-- One module changed. -/
def moduleAt (p : Pos) (f : Module → Module) (s : State) : State := s.withModule p (f (s.module p))

/-- One position of the watch changed. -/
def watchAt (p : Pos) (f : Watch → Watch) (s : State) : State := s.withWatch p (f (s.watch p))

/-- The hunt link of the call. -/
def linked (x : HuntLink) (s : State) : State := ctx (fun c => { c with huntLink := x }) s

/-- The link queue. -/
def queued (q : List Request) (s : State) : State := s.withMlc { s.mlc with queue := q, nextNumber := 9 }

/-- An order of a kind in slot 2, TAKEN with take number 1. -/
def taken (kind : Nat) (s : State) : State := s.withOrd { s.ord with slots := s.ord.slots.set 2 (.taken kind 1) }

/-- CAL holds the PLACE, or the CLEAR, of slot 2. -/
def holdingPlace (s : State) : State := (taken 1 s).withCal { s.cal with place := some ⟨2, 1⟩ }
def holdingClear (s : State) : State := (taken 2 s).withCal { s.cal with clear := some ⟨2, 1⟩ }

/-- A key and an entry of the table. -/
def key0 : Key := ⟨0, 0x5015, 3⟩
def entry0 : Entry :=
  { key := key0, band := .mid, level := -80, quality := some 9, networkBarred := false, planBarred := false,
    failures := 6, bench := none, age := 0, score := 160, last := .none, inAttempt := false, serving := false, seq := 1 }

/-- A table of one entry. -/
def oneEntry (e : Entry) (s : State) : State := s.withCtu { s.ctu with table := [e] }

/-- An attempt on `key0`. -/
def attempt0 (x : AttemptState) : Attempt :=
  { number := 1, key := key0, form := 0, state := x, timer := some 100, outcome := .none, releaseOnReply := false,
    strayOnEnd := false, request := none }

/-- A hunt with one attempt under way, in a call. -/
def hunting (h : HuntState) (x : AttemptState) : State :=
  let s := oneEntry { entry0 with inAttempt := true } (inCall .hunting live)
  s.withHnt { s.hnt with state := h, records := ⟨some (attempt0 x), none, none⟩ }

/-- A request in flight that awaits its reply. -/
def awaiting (owner : Requester) (kind : ReqKind) (n : Nat) (s : State) : State :=
  s.withMlc { s.mlc with tx := some ⟨⟨[owner], 0, kind, [], 7⟩, n, .waiting 250⟩ }

/-- The order that a LOAD PLAN in slot 2 left TAKEN. -/
def heldLoad : Held := ⟨2, 1⟩

/-- A copy under way of an image. -/
def copying (raw : List Byte) (s : State) : State :=
  (s.withPln { s.pln with copy := some ⟨false, false⟩, staged := .bytes raw, held := some heldLoad }).withOrd
    { s.ord with slots := s.ord.slots.set 2 (.taken 4 1) }

/-- An image that passes the checks of R174. -/
def goodImage : List Byte :=
  (List.range 287).map (fun i =>
    if i = 0 then 1 else if i = 2 then 1 else if 217 ≤ i ∧ i ≤ 219 then 7 else 0)

/-- A cell report of 10 bytes. -/
def report0 : List Byte := [0x15, 0x50, 0, 3, 0, 1, 0xB0, 0xFF, 1, 9]

/-! ### States that meet the hypotheses of the statements -/

theorem test_meets_StepRunsTheFront :
    (live.withPending [.doze, .wake]).pending = .doze :: [.wake] ∧ live.pending = [] := by decide +kernel

theorem test_meets_CommandsRunAndLeaveTheQueue :
    Instr.wellFormed .doze = true ∧ (0xFFF#12).toNat % 2 = 1 ∧ (1#12).toNat % 2 = 1 ∧ (5#11).toNat < 6 ∧
      (0#11).toNat < 6 ∧ 44 < 45 ∧ flagsSet 1 = 1 ∧ flagsSet 0x40 = 1 ∧ ran (exec .doze live) = true := by decide +kernel

/-- A state with something in every part that the invariants are about, and a command to run. -/
def busy : State :=
  let s := offered 1 [1, 0, 7] (hunting .round .sent)
  let s := s.withMlc { s.mlc with queue := [⟨[.mlc], 1, .poll, [0], 1⟩, ⟨[.wch], 1, .scan, [], 2⟩] }
  let s := s.withVsw
    { s.vsw with
      conn := .gap 0, gapTimer := some 40, requested := ⟨false, true, false, true⟩, active := some .wait,
      phaseOn := true, phaseTimer := some 200 }
  let s := s.withFlt { log := [⟨5, .linkError, some 1, 4, none⟩], tally := 1 }
  (s.withBsu { s.bsu with call := ⟨false, 19⟩ }).withPending [.callAnswered 0]

theorem test_meets_MemoryStaysCanonical : Memory.wf busy.smp.mem = true ∧ ran (step busy) = true := by decide +kernel
theorem test_meets_FaultLogStaysInRange : faultsOk busy.flt = true ∧ ran (step busy) = true := by decide +kernel
theorem test_meets_OneOrderOfAKindStaysTaken : ordersOk busy.ord.slots = true ∧ ran (step busy) = true := by decide +kernel
theorem test_meets_RequestQueueStaysSound : queueOk busy.mlc.queue = true ∧ ran (step busy) = true := by decide +kernel
theorem test_meets_CarrierTableStaysRanked :
    tableOk busy.ctu.table = true ∧ plansInRange busy.pln = true ∧ tableBounded busy.ctu.table = true ∧
      ran (step busy) = true ∧ planInRange builtInPlan = true ∧
      entryBounded { entry0 with score := 600, bench := some 600, seq := 4294967295 } = true ∧
      entryBounded { entry0 with score := 0, bench := some 1, seq := 1 } = true := by decide +kernel
theorem test_meets_SwitchAndTonesStaySound :
    switchOk busy.vsw = true ∧ tonesOk busy.vsw = true ∧ ran (step busy) = true := by decide +kernel
theorem test_meets_InputsAndOutputsStaySound :
    inputsOk busy = true ∧ outputsOk busy.bsu = true ∧ ran (step busy) = true ∧
      outputOk ⟨true, true, .blink 500 500, true, none⟩ = true ∧ outputOk ⟨true, false, .blink 500 500, true, some 5⟩ = true :=
  by decide +kernel
theorem test_meets_CallFlagsFollowTheState :
    callFlagsOk busy.cal = true ∧ (∀ f rest, busy.pending ≠ .callStateFlagsDamaged f :: rest) ∧
      ran (step busy) = true :=
  ⟨by decide +kernel, fun _ _ h => (nomatch h), by decide +kernel⟩
theorem test_meets_NoFinishedClearingStands : clearingOver busy = false ∧ ran (step busy) = true := by decide +kernel

theorem test_meets_frames :
    ran (exec (.callAnswered 0) busy) = true ∧ isReset (.callAnswered 0) = false ∧ Instr.callAnswered 0 ≠ .softReset ∧
      busy.flt.tally ≤ 255 ∧ Instr.callAnswered 0 ≠ .releaseFault ∧ Instr.callAnswered 0 ≠ .clearTally ∧
      generationsEven busy = true ∧ (∀ a v, Instr.callAnswered 0 ≠ .hostWrite a v) :=
  ⟨by decide +kernel, by decide +kernel, by decide +kernel, by decide +kernel, by decide +kernel, by decide +kernel,
    by decide +kernel, fun _ _ h => (nomatch h)⟩

/-- The beacon in the host's hands, its pattern a blink that the host has stopped. -/
def hostBeacon : State :=
  live.withBsu { live.bsu with outs := live.bsu.outs.set .beacon ⟨true, true, .blink 100 900, true, none⟩ }

theorem test_meets_frames_hostOutput :
    (hostBeacon.bsu.outs.get .beacon).host = true ∧ (hostBeacon.bsu.outs.get .beacon).timer = none ∧
      ran (exec (.patternTimerExpiry .beacon) hostBeacon) = true := by decide +kernel

theorem test_meets_ResetClearsTheHostSide :
    isReset (.powerOnReset defaultStraps defaultPins) = true ∧ isReset (.pinReset defaultStraps defaultPins) = true := by
  decide +kernel

theorem test_meets_ResetWithoutPlanHolds_blank :
    ∀ plan, storeAtReset live.pln = ⟨.complete, .image plan true⟩ → rolesTest defaultStraps plan = false :=
  fun _ h => nomatch (show Marker.blank = Marker.complete from congrArg PlanStore.marker h)

/-- A plan with no ACTIVE module among those wired. -/
def absentPlan : Plan := { builtInPlan with roles := PerPos.all .absent }

theorem test_meets_ResetWithoutPlanHolds_roles :
    ∀ plan, storeAtReset { live.pln with store := ⟨.complete, .image absentPlan true⟩ } = ⟨.complete, .image plan true⟩ →
      rolesTest defaultStraps plan = false := by
  intro plan h
  have h : absentPlan = plan := by
    have := congrArg PlanStore.area h
    simpa [storeAtReset, live, State.reset, resetPln, State.withPln, State.withMlc] using this
  subst h
  decide

theorem test_meets_ResetInstallsTheStoredPlan :
    storeAtReset { live.pln with store := ⟨.complete, .image builtInPlan true⟩ } = ⟨.complete, .image builtInPlan true⟩ ∧
      rolesTest defaultStraps builtInPlan = true := by decide +kernel

theorem test_meets_SoftResetLeavesTheBox :
    live.inbox = [] ∧ (ctx (fun c => { c with flags := { c.flags with clearDeferred := true } })
      (connected .locating)).cal.ctx.flags.clearDeferred = true := by decide +kernel
theorem test_meets_RegistersAndMemoryShowTheState :
    6 ≤ (6#11).toNat ∧ 6 ≤ (0x7FF#11).toNat ∧ (0xFFE#12).toNat % 2 = 0 ∧ busy.cal.ctx.summaries.get 0 = none ∧
      (ctx (fun c => { c with summaries := c.summaries.set 2 (some ⟨1, .sent, .none, 0⟩) }) live).cal.ctx.summaries.get 2 =
        some ⟨1, .sent, .none, 0⟩ ∧ busy.flt.log[0]? = some ⟨5, .linkError, some 1, 4, none⟩ ∧ busy.flt.log[3]? = none ∧
      busy.ctu.table[0]? = some { entry0 with inAttempt := true } ∧ busy.ctu.table[23]? = none ∧
      (∀ k, 0x180 ≠ slotBase k + 1) ∧ (∀ k, 0x37F ≠ slotBase k + 1) := by decide +kernel
theorem test_meets_LampsReadShowsPins : inputsOk live = true ∧ inputsOk busy = true := by decide +kernel

theorem test_meets_InterruptLineFollowsCauses :
    let s := live.withSmp { live.smp with causes := 0x0103, enables := 0x1FFF }
    s.inbox = [] ∧ causeLevel s = 3 ∧ (3#16).getLsbD 0 = true ∧ (3#16).getLsbD 1 = true ∧
      after (.causeWrite 3) s causeLevel = some 1 := by decide +kernel

theorem test_meets_RegisterWritesAct :
    live.inbox = [] ∧ live.flt.tally ≤ 255 ∧ live.flt.log = [] ∧
      busy.flt.log = ⟨5, .linkError, some 1, 4, none⟩ :: [] ∧ 6 ≤ (6#11).toNat := by decide +kernel

/-- Whether a host write is taken: the test of the statement on host writes. -/
def writeTaken (a : Nat) (s : State) : Bool :=
  decide (0xA80 ≤ a) || (decide (0x680 ≤ a) && decide (a < 0xA80) && !s.smp.planProtected)
    || (decide (0x180 ≤ a) && decide (a < 0x380) && slotOpen (s.ord.slots.get (slotOf a)))

theorem test_meets_HostWritesStoreOrTrespass_taken :
    live.inbox = [] ∧ Memory.wf live.smp.mem = true ∧
      [0x180, 0x37E, 0x680, 0xA7E, 0xA80, 0xFFE].all (fun a => writeTaken a live) = true := by decide +kernel

theorem test_meets_HostWritesStoreOrTrespass_dropped :
    [0x000, 0x03E, 0x040, 0x0FE, 0x100, 0x17E, 0x380, 0x67E].all (fun a => !writeTaken a live) = true ∧
      writeTaken 0x1C0 busy = false ∧
      writeTaken 0x680 (live.withSmp { live.smp with planProtected := true }) = false := by decide +kernel

theorem test_meets_LampsWriteTakesOutputs : busy.inbox = [] := by decide +kernel

theorem test_meets_DozeAndWakeCommands :
    (live.withWch { live.wch with reported := .talk }).wch.reported ≠ .idle ∧ live.wch.doze = false ∧
      live.pln.damaged = [] ∧ scansRest live = true ∧ roomFor 3 live = true ∧ live.wch.reported = .idle ∧
      usable (live.module 0) = true ∧ freeToSleep live 0 = true ∧
      wantsWake (moduleAt 2 (fun m => { m with state := .asleep }) (live.withWch { live.wch with doze := true })) 2 = true ∧
      scansRest (moduleAt 2 (fun m => { m with state := .asleep }) (live.withWch { live.wch with doze := true })) = true := by
  decide +kernel

theorem test_meets_DozeAndWakeCommands_sleeps :
    let q := queued [⟨[.wch], 0, .sleep, [], 1⟩, ⟨[.wch], 0, .sleep, [], 2⟩, ⟨[.mlc], 1, .sleep, [], 3⟩] live
    let s := watchAt 0 (fun w => { w with sleeps := [1, 2, 8] }) (q.withWch { q.wch with doze := true })
    s.inbox = [] ∧ s.wch.doze = true ∧ s.pln.damaged = [] ∧ scansRest s = true ∧ roomFor 3 s = true ∧
      (∀ p, ∀ r ∈ s.mlc.queue, r.number ∈ (s.watch p).sleeps → r.owners = [.wch] ∧ r.pos = p) ∧
      after .wake s (fun t => (t.mlc.queue.map (·.number), (t.watch 0).sleeps)) = some ([3], [8]) := by decide +kernel

theorem test_meets_OrdersAreTurnedAway_unknownKind :
    [0x00, 0x06, 0xFF].all (fun n : Byte =>
      decide (nextOffered (offered 3 [n] live) = some 3) && Memory.wf (offered 3 [n] live).smp.mem &&
        (decide (kindByte (offered 3 [n] live) 3 = 0) || decide (5 < kindByte (offered 3 [n] live) 3))) = true := by decide +kernel

theorem test_meets_OrdersAreTurnedAway_badParameter :
    let s := fun bytes => offered 3 bytes live
    nextOffered (s [1, 0, 0, 0, 2]) = some 3 ∧ badParameter 1 (s [1, 0, 0, 0, 2]) 3 = some 4 ∧
      badParameter 3 (s [3, 0, 0, 0, 2]) 3 = some 4 ∧ badParameter 4 (s [4, 0, 0, 0, 255]) 3 = some 4 ∧
      badParameter 5 (s [5, 0, 0, 0, 3, 0]) 3 = some 4 ∧ badParameter 5 (s [5, 0, 0, 0, 2, 3]) 3 = some 5 ∧
      kindByte (s [5, 0, 0, 0, 2, 3]) 3 = 5 := by decide +kernel

theorem test_meets_OrdersAreTurnedAway_sameKind :
    let s := (offered 3 [2] live).withOrd
      { live.ord with slots := (live.ord.slots.set 3 .offered).set 7 (.taken 2 9) }
    nextOffered s = some 3 ∧ badParameter 2 s 3 = none ∧ otherTaken 2 3 s = some 7 ∧ kindByte s 3 = 2 := by decide +kernel

theorem test_meets_OrdersAreTurnedAway_place :
    let s := offered 0 [1] (inCall .hunting live)
    let u := offered 0 [1, 0, 0, 0, 1] (inCall .callbackWait live)
    calmPart s = true ∧ Memory.wf s.smp.mem = true ∧ clearingOver s = false ∧ orderReady s 0 1 = true ∧
      s.cal.ctx.state ≠ .idle ∧ s.cal.ctx.state ≠ .callbackWait ∧ orderReady u 0 1 = true ∧
      firstParameter u 0 = 1 ∧ u.pln.plan.lists.testDial = none := by decide +kernel

theorem test_meets_PressOrPlaceStartsACall :
    let s := offered 5 [1] live
    s.inbox = [] ∧ s.cal.ctx.state = .idle ∧ flagsSound s = true ∧ s.bsu.call.level = false ∧
      orderReady s 5 1 = true ∧ firstParameter s 5 = 0 ∧ (inCall .callbackWait live).cal.ctx.state = .callbackWait ∧
      flagsSound (inCall .callbackWait live) = true ∧ orderReady (offered 5 [1] (inCall .callbackWait live)) 5 1 = true := by
  decide +kernel

/-- No module in service, one ACTIVE module with a wake in progress, a plan with a test dial string. -/
def waking : State :=
  let s := watchAt 1 (fun w => { w with waking := true })
    (live.withMlc { live.mlc with modules := PerPos.all { servingModule with state := .asleep } })
  s.withPln { s.pln with plan := { s.pln.plan with lists := { s.pln.plan.lists with testDial := some [0x31] } } }

theorem test_meets_PressOrPlaceStartsACall_fresh :
    let s := offered 5 [1, 0, 0, 0, 1] waking
    let e := offered 5 [1] waking
    s.cal.ctx.state = .idle ∧ orderReady s 5 1 = true ∧ firstParameter s 5 = 1 ∧ s.pln.plan.lists.testDial ≠ none ∧
      orderReady e 5 1 = true ∧ firstParameter e 5 = 0 ∧ s.pln.damaged = [] ∧ s.wch.doze = false ∧ s.hnt.state = .idle ∧
      noRecord s = true ∧ usableCount s = 0 ∧ wakeInProgress s = true ∧ flagsSound s = true := by decide +kernel

theorem test_meets_ClearOrdersAct :
    let s := offered 5 [2] live
    let l := offered 5 [2] (connected .locating)
    let u := offered 5 [2] (connected .talk)
    Memory.wf s.smp.mem = true ∧ orderReady s 5 2 = true ∧ s.cal.ctx.state = .idle ∧ orderReady l 5 2 = true ∧
      l.cal.ctx.state = .locating ∧ orderReady u 5 2 = true ∧ u.cal.ctx.state = .talk ∧
      servingPos u.cal.ctx.serving = some 0 ∧ huntSettled u = true ∧ u.wch.doze = false ∧ flagsSound u = true ∧
      callPlaceFree 0 u = true := by decide +kernel

theorem test_meets_ClearOrdersAct_hunt :
    let s := fun x => offered 5 [2] (linked .active (hunting .round x))
    let n := offered 5 [2] (linked .active ((inCall .reestablishing live).withHnt { live.hnt with state := .backoff }))
    orderReady (s .sent) 5 2 = true ∧ (s .sent).cal.ctx.state = .hunting ∧ (s .sent).cal.ctx.huntLink = .active ∧
      (s .sent).hnt.state ≠ .idle ∧ (s .sent).cal.ctx.serving = none ∧ (s .sent).pln.damaged = [] ∧
      flagsSound (s .sent) = true ∧ (s .sent).record 0 = some (attempt0 .sent) ∧
      (∀ q, q ≠ 0 → (s .sent).record q = none) ∧ callPlaceFree 0 (s .sent) = true ∧
      (s .releasing).record 0 = some (attempt0 .releasing) ∧ orderReady n 5 2 = true ∧
      n.cal.ctx.state = .reestablishing ∧ n.cal.ctx.huntLink = .active ∧ n.hnt.state ≠ .idle ∧ noRecord n = true ∧
      n.cal.ctx.releases = ⟨false, false, false⟩ ∧ n.cal.ctx.answer = none ∧ n.cal.place = none ∧ flagsSound n = true ∧
      (∀ p, (n.module p).pendingRole = none) := by decide +kernel

theorem test_meets_ClearOrdersAct_wait :
    let w := offered 5 [2] ((inCall .callbackWait live).withCal
      { (inCall .callbackWait live).cal with callbackTimer := some ⟨5, true⟩ })
    let c := offered 5 [2] (ctx (fun c => { c with releases := c.releases.set 0 true }) (inCall .clearing live))
    Memory.wf w.smp.mem = true ∧ orderReady w 5 2 = true ∧ w.cal.ctx.state = .callbackWait ∧
      w.cal.ctx.huntLink = .none ∧ w.cal.ctx.serving = none ∧ w.cal.ctx.releases = ⟨false, false, false⟩ ∧
      w.cal.ctx.flags.pressHeld = false ∧ w.wch.dozePending = false ∧ flagsSound w = true ∧
      orderReady c 5 2 = true ∧ c.cal.ctx.state = .clearing ∧ clearingOver c = false := by decide +kernel

theorem test_meets_ScanOrdersAct :
    let h := offered 5 [3] (live.withWch { live.wch with reported := .hunting })
    let n := offered 5 [3] (live.withMlc { live.mlc with modules := PerPos.all (resetModule true false) })
    let s := offered 5 [3, 0, 0, 0, 1] live
    orderReady h 5 3 = true ∧ h.wch.order = none ∧ h.wch.reported = .hunting ∧ orderReady n 5 3 = true ∧
      (∀ p, scanMember n p = false) ∧ firstParameter n 5 = 0 ∧ orderReady s 5 3 = true ∧ firstParameter s 5 = 1 ∧
      scanMember s 0 = true ∧ (∀ p, (s.module p).state ≠ .asleep) ∧ s.wch.reported ≠ .hunting ∧
      s.wch.reported ≠ .reestablishing := by decide +kernel

theorem test_meets_LoadPlanStartsACopy :
    let s := offered 5 [4, 0, 0, 0, 1] live
    let u := offered 5 [4] (inCall .hunting live)
    orderReady s 5 4 = true ∧ s.cal.ctx.state = .idle ∧ s.pln.storeState ≠ .storing ∧ orderReady u 5 4 = true ∧
      u.cal.ctx.state ≠ .idle := by decide +kernel

theorem test_meets_ModuleOrdersAct :
    let a := offered 5 [5, 0, 0, 0, 2] (moduleAt 2 (fun m => { m with wired := false, state := .absent }) live)
    let i := offered 5 [5, 0, 0, 0, 2] live
    let o := offered 5 [5, 0, 0, 0, 2, 1] (moduleAt 2 (fun m => { m with role := .spare }) live)
    let r := offered 5 [5, 0, 0, 0, 2, 2] live
    orderReady a 5 5 = true ∧ (a.module 2).wired = false ∧ orderReady i 5 5 = true ∧ secondParameter i 5 = 0 ∧
      lostState (i.module 2).state = false ∧ holdsCall i 2 = false ∧ orderReady o 5 5 = true ∧
      positionOf (firstParameter o 5) = 2 ∧ secondParameter o 5 = 1 ∧ (o.module 2).role = .spare ∧
      (o.module 2).pendingRole = none ∧ (o.module 2).state ≠ .outOfService ∧ o.mlc.tx = none ∧ huntRests o = true ∧
      scansRest o = true ∧ o.mlc.wait = none ∧ orderReady r 5 5 = true ∧ secondParameter r 5 = 2 ∧
      (r.module 2).state ≠ .held ∧ huntRests r = true ∧ scansRest r = true := by decide +kernel

theorem test_meets_ModuleOrdersAct_busy :
    let s := fun s => offered 5 [5, 0, 0, 0, 0, 2] s
    let a := s (ctx (fun c => { c with answer := some 0 }) live)
    orderReady (s (connected .talk)) 5 5 = true ∧ positionOf (firstParameter (s (connected .talk)) 5) = 0 ∧
      servingPos (s (connected .talk)).cal.ctx.serving = some 0 ∧ ((s (connected .talk)).module 0).wired = true ∧
      ((s (connected .talk)).module 0).state ≠ .absent ∧ ((s (hunting .round .sent)).record 0).isSome = true ∧
      orderReady (s (hunting .round .sent)) 5 5 = true ∧ a.cal.ctx.answer = some 0 ∧ orderReady a 5 5 = true := by
  decide +kernel

theorem test_meets_ModuleOrdersAct_lost :
    let s := fun x b => offered 5 [5, 0, 0, 0, 2] (moduleAt 2 (fun m => { m with state := x, replaced := b }) live)
    let h := offered 5 [5, 0, 0, 0, 2, 2] (moduleAt 2 (fun m => { m with state := .held }) live)
    orderReady (s .failed true) 5 5 = true ∧ positionOf (firstParameter (s .failed true) 5) = 2 ∧
      secondParameter (s .failed true) 5 = 0 ∧ ((s .failed true).module 2).state = .failed ∧
      ((s .failed true).module 2).replaced = true ∧ holdsCall (s .failed true) 2 = false ∧
      huntRests (s .failed true) = true ∧ scansRest (s .failed true) = true ∧
      ((s .outOfService false).module 2).state = .outOfService ∧ orderReady h 5 5 = true ∧ secondParameter h 5 = 2 ∧
      (h.module 2).state = .held := by decide +kernel

theorem test_meets_ModuleOrdersAct_outOfService :
    let s := fun x => offered 5 [5, 0, 0, 0, 0, 1] (moduleAt 1 (fun m => { m with role := .spare, state := x }) live)
    orderReady (s .asleep) 5 5 = true ∧ ((s .asleep).module 0).role = .active ∧ secondParameter (s .asleep) 5 = 1 ∧
      ((s .asleep).module 1).role = .spare ∧ ((s .asleep).module 1).state ≠ .absent ∧ (∀ x, x < 1 →
        ((s .asleep).module x).role ≠ .spare) ∧ (s .asleep).mlc.tx = none ∧ ((s .failed).module 1).state = .failed ∧
      (∀ q, ((s .failed).module q).role = .spare → q = 1) := by decide +kernel

theorem test_meets_InputsAreFilteredAndTaken :
    calmPart live = true ∧ ran (exec .quietOn live) = true ∧ ran (exec .quietOff live) = true := by decide +kernel

theorem test_meets_PressesAndHookOnAct :
    let s := connected .locating
    let m := ctx (fun c => { c with flags := { c.flags with masked := true } }) (connected .talk)
    let u := connected .talk
    s.inbox = [] ∧ s.pln.phase = .released ∧ clearingOver s = false ∧ s.bsu.call.level = false ∧
      s.cal.ctx.kind = .emergency ∧ s.cal.ctx.state = .locating ∧ s.straps.hook = true ∧ s.bsu.hook.level = false ∧
      m.cal.ctx.state = .talk ∧ m.cal.ctx.flags.masked = true ∧ clearingOver m = false ∧
      (live.withBsu { live.bsu with call := ⟨true, 0⟩ }).bsu.call.level = true ∧
      clearingOver (ctx (fun c => { c with releases := c.releases.set 0 true }) (inCall .clearing live)) = false ∧
      u.cal.ctx.state = .talk ∧ u.cal.ctx.flags.masked = false ∧ u.cal.ctx.flags.clearDeferred = false ∧
      servingPos u.cal.ctx.serving = some 0 ∧ huntSettled u = true ∧ flagsSound u = true ∧ callPlaceFree 0 u = true := by
  decide +kernel

theorem test_meets_PressesAndHookOnAct_hook :
    let h := fun x => inCall x live
    let r := fun m => ctx (fun c => { c with message := m }) (h .reestablishing)
    (h .hunting).cal.ctx.state = .hunting ∧ (r .pending).cal.ctx.state = .reestablishing ∧
      (r .pending).cal.ctx.message = .pending ∧ clearingOver (r .pending) = false ∧ live.cal.ctx.state = .idle ∧
      (h .callbackWait).cal.ctx.state = .callbackWait ∧ clearingOver (h .callbackWait) = false ∧
      (live.withStraps { live.straps with hook := false }).straps.hook = false := by decide +kernel

theorem test_meets_PressesAndHookOnAct_settled :
    let s := linked .active ((ctx (fun c => { c with message := .delivered }) (inCall .reestablishing live)).withHnt
      { live.hnt with state := .gather })
    let r := ctx (fun c => { c with releases := c.releases.set 2 true }) s
    let a := ctx (fun c => { c with answer := some 1 }) s
    calmPart s = true ∧ s.straps.hook = true ∧ s.bsu.hook.level = false ∧ s.cal.ctx.state = .reestablishing ∧
      s.cal.ctx.message ≠ .pending ∧ s.cal.ctx.huntLink = .active ∧ s.hnt.state ≠ .idle ∧ noRecord s = true ∧
      s.cal.ctx.serving = none ∧ flagsSound s = true ∧ s.cal.ctx.releases = ⟨false, false, false⟩ ∧
      s.cal.ctx.answer = none ∧ s.cal.clear = none ∧ 0 < s.pln.plan.call.callbackWindow ∧
      r.cal.ctx.releases.get 2 = true ∧ flagsSound r = true ∧ a.cal.ctx.answer.isSome = true := by decide +kernel

theorem test_meets_PressesAndHookOnAct_conversion :
    let s := fun x => holdingPlace (ctx (fun c => { c with kind := .test }) (connected x))
    (s .talk).pln.phase = .released ∧ (s .talk).bsu.call.level = false ∧ (s .talk).cal.ctx.kind = .test ∧
      (s .talk).cal.ctx.state = .talk ∧ servingPos (s .talk).cal.ctx.serving = some 0 ∧ huntSettled (s .talk) = true ∧
      flagsSound (s .talk) = true ∧ callPlaceFree 0 (s .talk) = true ∧ (s .talk).cal.place = some ⟨2, 1⟩ ∧
      (s .talk).ord.slots.get 2 = .taken 1 1 ∧ Memory.wf (s .talk).smp.mem = true ∧
      (s .locating).cal.ctx.state = .locating ∧ (s .locating).lmu.current = none ∧ flagsSound (s .locating) = true := by
  decide +kernel

theorem test_meets_HookOffClearsAbandon :
    let s := (connected .talk).withBsu { live.bsu with hook := ⟨true, 0⟩ }
    s.inbox = [] ∧ s.straps.hook = true ∧ s.bsu.hook.level = true ∧ clearingOver s = false := by decide +kernel

/-- The voice switch with a tone under way. -/
def tone (t : Tone) (r : ToneSet) (on : Bool) : State :=
  live.withVsw { live.vsw with requested := r, active := some t, phaseOn := on, phaseTimer := some 200 }

theorem test_meets_LampGapAndToneTimers :
    let b := live.withBsu
      { live.bsu with outs := live.bsu.outs.set .beacon ⟨true, false, .blink 100 900, true, some 100⟩ }
    (b.bsu.outs.get .beacon).timer.isSome = true ∧ (b.bsu.outs.get .beacon).pattern = .blink 100 900 ∧
      (live.bsu.outs.get .beacon).timer = none ∧ busy.vsw.conn = .gap 0 ∧ busy.vsw.gapTimer.isSome = true ∧
      live.vsw.gapTimer = none ∧ calmPart busy = true ∧
      (tone .reassure ⟨false, false, false, true⟩ true).vsw.active = some .reassure ∧
      (tone .reassure ⟨false, false, false, true⟩ true).vsw.phaseOn = true ∧
      (tone .chime ⟨true, false, false, false⟩ true).vsw.active = some .chime ∧
      (tone .wait ⟨false, true, false, false⟩ false).vsw.phaseOn = false := by decide +kernel

theorem test_meets_MaskAndCallbackExpiries :
    let m := (connected .talk).withCal { (connected .talk).cal with mask := some 5000 }
    let a := ctx (fun c => { c with flags := { c.flags with abandonPending := true } }) m
    let w := (inCall .callbackWait live).withCal { (inCall .callbackWait live).cal with callbackTimer := some ⟨5, true⟩ }
    live.cal.mask = none ∧ live.cal.callbackTimer = none ∧ clearingOver m = false ∧ m.cal.mask.isSome = true ∧
      m.cal.ctx.flags.abandonPending = false ∧ a.cal.mask.isSome = true ∧ a.cal.ctx.flags.abandonPending = true ∧
      a.cal.ctx.state = .talk ∧ servingPos a.cal.ctx.serving = some 0 ∧ huntSettled a = true ∧ flagsSound a = true ∧
      callPlaceFree 0 a = true ∧ w.cal.callbackTimer.isSome = true ∧ w.cal.ctx.state = .callbackWait ∧
      w.cal.ctx.answer = none ∧ flagsSound w = true ∧ w.wch.dozePending = false ∧
      (∀ p, (w.module p).pendingRole = none) := by decide +kernel

/-- A hunt with nothing to hunt with. -/
def bareHunt (f : Hnt → Hnt) : State :=
  let s := inCall .hunting (live.withMlc { live.mlc with modules := PerPos.all (resetModule true false) })
  s.withHnt (f s.hnt)

theorem test_meets_EmptyRoundsBackOff :
    let w := bareHunt (fun h => { h with state := .round, wakeWait := some 5000 })
    let g := bareHunt (fun h => { h with state := .gather, gather := some 20000 })
    let b := bareHunt (fun h => { h with state := .backoff, backoff := some ⟨4000, true⟩, rounds := 255 })
    calmPart w = true ∧ w.hnt.kind = .emergency ∧ w.ctu.table = [] ∧ usableCount w = 0 ∧ noRecord w = true ∧
      w.cal.ctx.state ≠ .clearing ∧ w.hnt.wakeWait.isSome = true ∧ g.hnt.gather.isSome = true ∧ g.hnt.state = .gather ∧
      g.hnt.wakeWait = none ∧ usableCount g = 0 ∧ b.hnt.backoff.isSome = true ∧ b.hnt.state = .backoff ∧
      usableCount b = 0 := by decide +kernel

theorem test_meets_StaggerEndLaunches :
    let s := oneEntry { entry0 with failures := 0, score := 320 } (inCall .hunting live)
    let s := s.withHnt { s.hnt with state := .round, set := [key0], stagger := some 250 }
    calmPart s = true ∧ s.hnt.kind = .emergency ∧ s.hnt.state = .round ∧ s.hnt.wakeWait = none ∧
      s.hnt.stagger.isSome = true ∧ s.hnt.set = [key0] ∧ freeForLaunch s key0.pos = true ∧
      eligibleKey s.mlc.modules s.pln.plan s.ctu.table key0 = true ∧ inFlightCount s < effectiveConcurrency s ∧
      callPlaceFree key0.pos s = true ∧ s.cal.ctx.state ≠ .clearing := by decide +kernel

theorem test_meets_AttemptsProgressAndTimeOut :
    let s := hunting .round .sent
    let r := hunting .round .proceeding
    calmPart s = true ∧ clearingOver s = false ∧ s.record 1 = none ∧ s.record 0 = some (attempt0 .sent) ∧
      (attempt0 .sent).state = .sent ∧ r.record 0 = some (attempt0 .proceeding) ∧ s.hnt.kind = .emergency ∧
      (attempt0 .sent).timer.isSome = true ∧ s.hnt.set = [] ∧ callPlaceFree 0 s = true ∧
      s.cal.ctx.state ≠ .clearing ∧ (attempt0 .sent).strayOnEnd = false ∧ (attempt0 .sent).key.pos = 0 ∧
      findEntry s.ctu.table key0 = some { entry0 with inAttempt := true } ∧ 6 ≤ entry0.failures ∧
      lostState (s.module 0).state = false ∧ servingPos s.cal.ctx.serving ≠ some 0 ∧
      EndCause.numberRejected ≠ .refusedNetwork := by decide +kernel

theorem test_meets_FirstAnswerConnects :
    let s := hunting .round .alerting
    calmPart s = true ∧ s.record 0 = some (attempt0 .alerting) ∧ s.record 1 = none ∧ s.record 2 = none ∧
      s.hnt.state = .round ∧ (attempt0 .alerting).key.pos = 0 ∧
      findEntry s.ctu.table key0 = some { entry0 with inAttempt := true } ∧ s.cal.ctx.state = .hunting ∧
      flagsSound s = true ∧ s.wch.doze = false ∧ s.lmu.state = .idle ∧ messagePlace s.mlc.queue 0 = none ∧
      roomFor 1 s = true := by decide +kernel

/-- A second record in a hunt whose attempt at position 0 is SENT. -/
def second (x : AttemptState) (n : Option Nat) : State :=
  let s := hunting .round .sent
  s.withHnt { s.hnt with
    records := s.hnt.records.set 1 (some { attempt0 x with key := { key0 with pos := 1 }, request := n }) }

theorem test_meets_FirstAnswerConnects_second :
    let q := queued [⟨[.attempt], 1, .originate, [], 7⟩] (second .queued (some 7))
    let f := queued [] (second .queued (some 7))
    let s := queued [] (second .alerting none)
    calmPart q = true ∧ q.record 0 = some (attempt0 .sent) ∧ (q.record 1).isSome = true ∧ q.record 2 = none ∧
      q.hnt.state = .round ∧ q.cal.ctx.state = .hunting ∧ flagsSound q = true ∧ q.wch.doze = false ∧
      q.lmu.state = .idle ∧ messagePlace q.mlc.queue 0 = none ∧ roomFor 2 q = true ∧ 7 ≤ q.mlc.nextNumber ∧
      (∃ r ∈ q.mlc.queue, r.number = 7) ∧ (∀ r ∈ q.mlc.queue, r.number = 7 → r.owners = [.attempt]) ∧
      (∀ r ∈ f.mlc.queue, r.number ≠ 7) ∧ flagsSound f = true ∧ callPlace s.mlc.queue 1 = none ∧
      (s.record 1).map (·.state) = some .alerting ∧ ((second .releasing (some 7)).record 1).isSome = true := by
  decide +kernel

theorem test_meets_AnswerAfterTheWinnerIsSurplus :
    let s := hunting .won .sent
    calmPart s = true ∧ s.record 0 = some (attempt0 .sent) ∧ s.hnt.state = .won ∧ callPlaceFree 0 s = true ∧
      clearingOver s = false := by decide +kernel

/-- A delivery at position 0 of a call in LOCATING. -/
def delivering : State :=
  (connected .locating).withLmu
    { resetLmu with
      state := .awaiting, pos := some 0, record := some (messageRecord none resetContext 0 []), tries := 1,
      replySeen := true, ackTimer := some 8000 }

theorem test_meets_MessagesAreDelivered :
    let s := delivering
    calmPart s = true ∧ s.lmu.pos = some 0 ∧ s.lmu.record = some (messageRecord none resetContext 0 []) ∧
      s.lmu.state = .awaiting ∧ s.lmu.ackTimer.isSome = true ∧ s.lmu.tries < s.pln.plan.hunt.messageRetries + 1 ∧
      messagePlace s.mlc.queue 0 = none ∧ roomFor 1 s = true ∧
      (delivering.withLmu { delivering.lmu with tries := 3 }).lmu.tries < s.pln.plan.hunt.messageRetries + 1 ∧
      s.pln.plan.hunt.messageRetries + 1 ≤ (delivering.withLmu { delivering.lmu with tries := 4 }).lmu.tries ∧
      live.lmu.state = .idle ∧ s.lmu.pos ≠ some 1 ∧
      (s.withLmu { s.lmu with replySeen := false }).lmu.replySeen = false ∧
      (s.withLmu { s.lmu with state := .sending }).lmu.state = .sending ∧ s.lmu.state ≠ .idle ∧ s.lmu.replySeen = true ∧ s.lmu.current = none ∧
      s.cal.ctx.state = .locating ∧ flagsSound s = true ∧ s.cal.ctx.flags.clearDeferred = false ∧
      0 < s.pln.plan.call.holdAfter ∧ s.wch.doze = false := by decide +kernel

theorem test_meets_MessagesAreDelivered_verdict :
    let d := fun (x : Delivery) => queued [⟨[.lmu], 0, .data, [1], 7⟩]
      (delivering.withLmu { delivering.lmu with state := x, current := some 7 })
    let h := fun s : State => s.withPln { s.pln with plan := { s.pln.plan with call := { s.pln.plan.call with holdAfter := 0 } } }
    let x := fun (a c : Bool) => ctx (fun y => { y with flags := { y.flags with abandonPending := a, clearDeferred := c } })
    let s := d .sending
    calmPart s = true ∧ s.lmu.state ≠ .idle ∧ s.lmu.replySeen = true ∧ s.cal.ctx.state = .locating ∧
      flagsSound s = true ∧ (∀ r ∈ s.mlc.queue, s.lmu.current = some r.number → r.owners = [.lmu]) ∧
      servingPos s.cal.ctx.serving = some 0 ∧ huntSettled s = true ∧ callPlaceFree 0 s = true ∧
      (h s).pln.plan.call.holdAfter = 0 ∧ (h s).cal.ctx.flags.abandonPending = false ∧
      (h (x true false s)).cal.ctx.flags.abandonPending = true ∧ flagsSound (h (x true false s)) = true ∧
      (x false true s).cal.ctx.flags.clearDeferred = true ∧ flagsSound (x false true s) = true ∧
      after (.dataResult 0 .accepted) (x false true s) (fun t => (t.cal.ctx.state, t.mlc.queue.map (·.kind))) =
        some (.clearing, [.release]) := by decide +kernel

/-- A location record with a text of 32 characters. -/
def location0 : Location :=
  ⟨3, List.replicate 16 0x41, 51500000#32, 0xFFFF0000#32, 25, 1200, List.replicate 32 0x62⟩

theorem test_meets_MessagesAreDelivered_record :
    location0.boxId.length = 16 ∧
      segmentCount (messageRecord (some location0) resetContext 9 []) = 2 ∧
      segmentCount (messageRecord none resetContext 9 []) = 1 := by decide +kernel

theorem test_meets_ConnectionEndsInTalk :
    let s := connected .talk
    s.inbox = [] ∧ s.pln.damaged = [] ∧ s.cal.ctx.state = .talk ∧ servingPos s.cal.ctx.serving = some 0 ∧
      s.record 0 = none ∧ flagsSound s = true ∧ s.cal.ctx.kind = .emergency ∧ s.hnt.kind = .emergency ∧
      s.cal.ctx.flags.clearDeferred = false ∧ s.cal.ctx.flags.abandonPending = false ∧ EndCause.other ≠ .normal ∧
      huntSettled s = true ∧ s.wch.doze = false ∧ 0 < s.pln.plan.call.callbackWindow := by decide +kernel

theorem test_meets_ConnectionEndsInTalk_locating :
    let s := ctx (fun c => { c with serving := some (.hunted key0), message := .pending })
      (oneEntry { entry0 with serving := true } delivering)
    s.inbox = [] ∧ s.pln.damaged = [] ∧ s.cal.ctx.state = .locating ∧ servingPos s.cal.ctx.serving = some 0 ∧
      s.record 0 = none ∧ flagsSound s = true ∧ s.cal.ctx.message = .pending ∧ s.lmu.state ≠ .idle ∧
      findEntry s.ctu.table key0 = some { entry0 with serving := true } ∧ lostState (s.module 0).state = false ∧
      6 ≤ entry0.failures ∧ huntSettled s = true ∧ 0 < s.pln.plan.call.callbackWindow := by decide +kernel

theorem test_meets_IncomingCallsAreAnswered :
    let a := ctx (fun c => { c with answer := some 1 }) (inCall .callbackWait live)
    calmPart a = true ∧ clearingOver a = false ∧ callPlaceFree 1 a = true ∧ a.cal.ctx.answer = some 1 ∧
      callPlaceFree 2 a = true ∧ (1 : Pos) ≠ 2 ∧
      (inCall .callbackWait live).cal.ctx.answer = none ∧ callPlaceFree 1 (inCall .callbackWait live) = true ∧
      (connected .talk).cal.ctx.answer = none ∧ callPlaceFree 1 (connected .talk) = true ∧
      clearingOver (connected .talk) = false := by decide +kernel

theorem test_meets_ModuleTimersRun :
    let b := moduleAt 1 (fun m => { m with state := .booting .boot, boot := some 8000 }) live
    let r := moduleAt 1 (fun m => { m with state := .booting .reset, pulse := some 100 }) live
    let p := moduleAt 1 (fun m => { m with state := .booting .probe, probeRetry := some 1000 }) live
    let x := moduleAt 1 (fun m => { m with state := .suspect, pulse := some 100 }) live
    live.inbox = [] ∧ roomFor 1 live = true ∧ (live.module 1).poll.isSome = true ∧ (live.module 1).sleepAgain = false ∧
      live.mlc.queue.any (fun q => q.pos == 1 && q.kind == .poll) = false ∧ (live.module 1).boot = none ∧
      (live.module 1).pulse = none ∧ (live.module 1).probeRetry = none ∧
      (moduleAt 1 (fun m => { m with poll := none }) live).inbox = [] ∧ (b.module 1).boot.isSome = true ∧
      (b.module 1).state = .booting .boot ∧ (r.module 1).state = .booting .reset ∧
      (p.module 1).state = .booting .probe ∧ (x.module 1).state = .suspect ∧ (x.module 1).pulse.isSome = true ∧
      (x.module 1).pendingRole = none ∧ huntRests x = true ∧ scansRest x = true ∧ calmPart x = true ∧
      x.cal.ctx.state = .idle := by decide +kernel

theorem test_meets_TransactionSteps :
    let r : Request := ⟨[.mlc], 1, .poll, [0], 1⟩
    busy.mlc.tx = none ∧ queueHead busy.mlc.queue = some r ∧ canTake .poll (busy.module 1).state = true ∧
      live.mlc.queue = [] ∧ (awaiting .mlc .poll 2 live).mlc.tx = some ⟨⟨[.mlc], 0, .poll, [], 7⟩, 2, .waiting 250⟩ ∧
      (live.withMlc { live.mlc with tx := some ⟨r, 1, .sending⟩ }).mlc.tx = some ⟨r, 1, .sending⟩ ∧
      (live.withMlc { live.mlc with tx := some ⟨r, 1, .idleWait 25⟩ }).mlc.tx = some ⟨r, 1, .idleWait 25⟩ := by decide +kernel

theorem test_meets_TransactionSteps_notReady :
    let s := fun o k x => moduleAt 0 (fun m => { m with state := x }) (queued [⟨[o], 0, k, [], 7⟩] live)
    let r := s .calRelease .release (.booting .boot)
    r.inbox = [] ∧ r.mlc.tx = none ∧ queueHead r.mlc.queue = some ⟨[.calRelease], 0, .release, [], 7⟩ ∧
      (r.module 0).state ≠ .inService ∧ r.mlc.queue = [⟨[.calRelease], 0, .release, [], 7⟩] ∧
      r.cal.ctx.state ≠ .clearing ∧ queueHead (s .calReject .reject .asleep).mlc.queue =
        some ⟨[.calReject], 0, .reject, [], 7⟩ ∧ ((s .mlc .probe (.booting .boot)).module 0).state ≠ .booting .probe ∧
      ((s .mlc .probe (.booting .probe)).module 0).state = .booting .probe ∧
      queueHead (s .mlc .sleep .suspect).mlc.queue = some ⟨[.mlc], 0, .sleep, [], 7⟩ ∧
      ((s .mlc .wake .inService).module 0).state ≠ .asleep := by decide +kernel

theorem test_meets_QueueHeadAndFrames :
    queueHead busy.mlc.queue = some ⟨[.mlc], 1, .poll, [0], 1⟩ ∧ (List.replicate 250 (0 : Byte)).length ≤ 250 ∧
      (allowedReplies .originate).contains 16 = true ∧ (allowedReplies .wake).contains 16 = true := by decide +kernel

theorem test_meets_ThirdFailureEndsTheTransaction :
    let s := moduleAt 0 (fun m => { m with failures := 2 }) (awaiting .mlc .poll 3 live)
    s.inbox = [] ∧ s.mlc.tx = some ⟨⟨[.mlc], 0, .poll, [], 7⟩, 3, .waiting 250⟩ ∧ s.flt.tally < 255 ∧
      s.flt.log.length < 4 ∧ s.pln.damaged = [] ∧ (s.module 0).failures = 2 ∧ (s.module 0).state = .inService ∧
      (s.module 0).restart = none ∧ (s.module 0).pendingRole = none ∧ huntRests s = true ∧ scansRest s = true ∧
      s.cal.ctx.state = .idle := by decide +kernel

/-- The module at position 0 on its third failure, restarted some seconds ago, the others as given. -/
def failing (kind : ReqKind) (ago : BitVec 32) (x : ModState) (spare : ModState) : State :=
  let s := (awaiting .mlc kind 3 live).withClock 1000
  let s := moduleAt 0 (fun m => { m with state := x, failures := 2, restart := some (1000 - ago) }) s
  moduleAt 1 (fun m => { m with role := .spare, state := spare }) s

theorem test_meets_ThirdFailureEndsTheTransaction_restart :
    let recent := fun s : State => ((s.module 0).restart.any (fun u => decide ((s.clock - u).toNat < 300)))
    recent (failing .poll 300 .inService .inService) = false ∧ recent (failing .poll 299 .asleep .inService) = true ∧
      (failing .poll 299 .asleep .asleep).mlc.tx = some ⟨⟨[.mlc], 0, .poll, [], 7⟩, 3, .waiting 250⟩ ∧
      ((failing .poll 299 .asleep .inService).module 0).state = .asleep ∧
      (failing .poll 299 .asleep .inService).flt.log.length < 3 ∧
      ((failing .probe 500 (.booting .probe) .failed).module 0).state = .booting .probe ∧
      huntRests (failing .probe 500 (.booting .probe) .failed) = true ∧
      scansRest (failing .probe 500 (.booting .probe) .failed) = true := by decide +kernel

/-- Whether a position can stand in: the test of the statement on third failures. -/
def standsIn (s : State) (q : Pos) : Bool :=
  (s.module q).role == .spare && (s.module q).state != .failed && (s.module q).state != .outOfService
    && (s.module q).state != .absent

theorem test_meets_ThirdFailureEndsTheTransaction_substitute :
    let a := failing .poll 299 .inService .asleep
    let n := failing .poll 299 .inService .outOfService
    (a.module 0).role = .active ∧ standsIn a 1 = true ∧ standsIn a 0 = false ∧ (a.module 1).state = .asleep ∧
      roomFor 1 a = true ∧ standsIn (failing .poll 299 .inService .inService) 1 = true ∧ (∀ q, standsIn n q = false) := by
  decide +kernel

theorem test_meets_RepliesAreTaken_originate :
    let a : Attempt := { attempt0 .queued with timer := none, request := some 7 }
    let s := awaiting .attempt .originate 1 (hunting .round .queued)
    let s := s.withHnt { s.hnt with records := ⟨some a, none, none⟩ }
    calmPart s = true ∧ s.mlc.tx = some ⟨⟨[.attempt], 0, .originate, [], 7⟩, 1, .waiting 250⟩ ∧ s.record 0 = some a ∧
      a.request = some 7 ∧ a.key.pos = 0 ∧ a.releaseOnReply = false ∧ a.strayOnEnd = false ∧ s.hnt.set = [] ∧
      s.hnt.kind = .emergency ∧ s.cal.ctx.state ≠ .clearing ∧
      findEntry s.ctu.table a.key = some { entry0 with inAttempt := true } ∧ (s.module 0).state = .inService ∧
      a.state = .queued ∧ 6 ≤ entry0.failures ∧ NakReason.busy ≠ .badFrame ∧
      (awaiting .calReject .reject 1 live).mlc.tx = some ⟨⟨[.calReject], 0, .reject, [], 7⟩, 1, .waiting 250⟩ := by decide +kernel

theorem test_meets_RepliesAreTaken_sleepAndWake :
    let s := awaiting .wch .sleep 1 live
    let w := watchAt 0 (fun w => { w with wakeRequest := some 7 })
      (moduleAt 0 (fun m => { m with state := .asleep }) (awaiting .wch .wake 1 live))
    calmPart s = true ∧ s.mlc.tx = some ⟨⟨[.wch], 0, .sleep, [], 7⟩, 1, .waiting 250⟩ ∧ huntRests s = true ∧
      scansRest s = true ∧ s.cal.ctx.state = .idle ∧ (s.module 0).pendingRole = none ∧ s.mlc.wait = none ∧
      (s.module 0).state = .inService ∧ (w.module 0).state = .asleep ∧ (w.watch 0).wakeRequest = some 7 ∧
      huntRests w = true ∧ scansRest w = true := by decide +kernel

theorem test_meets_RepliesAreTaken_release :
    let y := awaiting .stray .release 1 (live.withHnt { live.hnt with stray := live.hnt.stray.set 0 (some 7) })
    let a : Attempt := { attempt0 .releasing with timer := none, outcome := .timeout, request := some 7 }
    let h := awaiting .attempt .release 1 (hunting .won .releasing)
    let h := h.withHnt { h.hnt with records := ⟨some a, none, none⟩ }
    calmPart y = true ∧ y.mlc.tx = some ⟨⟨[.stray], 0, .release, [], 7⟩, 1, .waiting 250⟩ ∧
      y.hnt.stray.get 0 = some 7 ∧ y.hnt.state = .idle ∧ NakReason.noService ≠ .badFrame ∧ calmPart h = true ∧
      h.mlc.tx = some ⟨⟨[.attempt], 0, .release, [], 7⟩, 1, .waiting 250⟩ ∧ h.record 0 = some a ∧ a.key.pos = 0 ∧
      h.hnt.state = .won ∧ clearingOver h = false ∧ lostState (h.module 0).state = false ∧
      findEntry h.ctu.table a.key = some { entry0 with inAttempt := true } ∧
      Outcome.surplus ≠ .timeout := by decide +kernel

theorem test_meets_RepliesAreTaken_calRelease :
    let s := fun b x => holdingClear ((awaiting .calRelease .release 1
      (ctx (fun c => { c with releases := c.releases.set 0 true }) (inCall x live))).withCal
        { (ctx (fun c => { c with releases := c.releases.set 0 true }) (inCall x live)).cal with destination := b })
    let e := s true .clearing
    calmPart e = true ∧ e.mlc.tx = some ⟨⟨[.calRelease], 0, .release, [], 7⟩, 1, .waiting 250⟩ ∧
      e.cal.ctx.state = .clearing ∧ e.cal.ctx.releases.set 0 false = ⟨false, false, false⟩ ∧
      e.cal.ctx.huntLink = .none ∧ e.cal.ctx.answer = none ∧ flagsSound e = true ∧ e.wch.dozePending = false ∧
      (∀ q, (e.module q).pendingRole = none) ∧ e.cal.place = none ∧ e.cal.destination = true ∧
      0 < e.pln.plan.call.callbackWindow ∧ (s false .clearing).cal.destination = false ∧
      e.cal.clear = some ⟨2, 1⟩ ∧ e.ord.slots.get 2 = .taken 2 1 ∧ Memory.wf e.smp.mem = true ∧
      (s false .talk).cal.ctx.state ≠ .clearing ∧ (linked .stopping e).cal.ctx.huntLink ≠ .none := by decide +kernel

theorem test_meets_RepliesAreTaken_answer :
    let s := fun x => awaiting .calAnswer .answer 1 (ctx (fun c => { c with answer := some 0 }) (inCall x live))
    let w := (s .callbackWait).withCal { (s .callbackWait).cal with callbackTimer := some ⟨5, true⟩ }
    let h := (s .hunting).withHnt { live.hnt with state := .round }
    calmPart w = true ∧ w.mlc.tx = some ⟨⟨[.calAnswer], 0, .answer, [], 7⟩, 1, .waiting 250⟩ ∧
      w.cal.ctx.answer = some 0 ∧ flagsSound w = true ∧ w.wch.doze = false ∧ w.cal.ctx.state = .callbackWait ∧
      w.cal.callbackTimer.isSome = true ∧ (s .idle).cal.ctx.state = .idle ∧ flagsSound (s .idle) = true ∧
      h.cal.ctx.state = .hunting ∧ h.hnt.state = .round ∧ noRecord h = true ∧ h.lmu.state = .idle ∧
      messagePlace h.mlc.queue 0 = none ∧ roomFor 1 h = true ∧ (s .clearing).cal.ctx.state = .clearing ∧
      callPlaceFree 0 (s .clearing) = true ∧ callPlaceFree 0 (s .talk) = true ∧
      (s .reestablishing).cal.ctx.state = .reestablishing := by decide +kernel

theorem test_meets_RepliesAreTaken_dataAndScan :
    let d := (awaiting .lmu .data 1 (connected .locating)).withLmu
      { delivering.lmu with state := .sending, current := some 7, segments := 2 }
    let c := watchAt 0 (fun w => { w with scanRequest := some 7, phase := .scanQueued }) (awaiting .wch .scan 1 live)
    let c := c.withWch { c.wch with stagger := some 100 }
    calmPart d = true ∧ d.mlc.tx = some ⟨⟨[.lmu], 0, .data, [], 7⟩, 1, .waiting 250⟩ ∧ d.lmu.state = .sending ∧
      d.lmu.current = some 7 ∧ d.lmu.pos = some 0 ∧ d.lmu.record.isSome = true ∧ messagePlace d.mlc.queue 0 = none ∧
      roomFor 1 d = true ∧ d.lmu.segment < d.lmu.segments ∧ d.lmu.tries < d.pln.plan.hunt.messageRetries + 1 ∧
      (d.withLmu { d.lmu with segments := 1 }).lmu.segments ≤ d.lmu.segment ∧ (c.watch 0).scanRequest = some 7 ∧
      c.mlc.tx = some ⟨⟨[.wch], 0, .scan, [], 7⟩, 1, .waiting 250⟩ ∧ (c.watch 0).requested = false ∧
      c.wch.order = none ∧ c.wch.gatherReport = false ∧ c.wch.doze = false ∧ c.wch.stagger.isSome = true ∧
      (∀ q, (c.module q).state ≠ .asleep) ∧ (c.module 0).role = .active := by decide +kernel

/-- A full table: `protect` says which of its entries are in attempt. -/
def fullTable (protect : Nat → Bool) : List Entry :=
  (List.range 24).map (fun i =>
    { entry0 with key := { key0 with channel := BitVec.ofNat 16 i }, seq := i + 1, inAttempt := protect i })

theorem test_meets_CellReportsAreTakenIn_intake :
    let last := { entry0 with key := { key0 with channel := 23 }, seq := 24 }
    tableOk (fullTable (fun _ => false)) = true ∧ (fullTable (fun _ => false)).length = 24 ∧
      fullTable (fun _ => false) = (fullTable (fun _ => false)).take 23 ++ last :: [] ∧ last.inAttempt = false ∧
      last.serving = false ∧ tableOk (fullTable (fun _ => true)) = true ∧
      (fullTable (fun _ => true)).all (fun e => e.inAttempt || e.serving) = true ∧
      (fullTable (fun _ => false)).all (fun e => e.key != ⟨0, 0x5015, 24⟩) = true ∧
      [entry0] = [] ++ entry0 :: [] ∧ entry0.key = ⟨0, 0x5015, 3⟩ ∧ { entry0 with serving := true }.serving = true := by
  decide +kernel

theorem test_meets_CellReportsAreTakenIn :
    let s := moduleAt 0 (fun m => { m with state := .booting .probe, poll := none }) (awaiting .mlc .probe 1 live)
    calmPart s = true ∧ huntRests s = true ∧ s.cal.ctx.state = .idle ∧ tableOk s.ctu.table = true ∧
      s.mlc.tx = some ⟨⟨[.mlc], 0, .probe, [], 7⟩, 1, .waiting 250⟩ ∧ (parseStatus report0).isSome = true ∧
      (s.module 0).state = .booting .probe ∧ (s.module 0).pendingRole = none ∧ s.mlc.wait = none ∧
      (s.module 0).role = .active ∧ scansRest s = true ∧ roomFor 3 s = true ∧
      (awaiting .wch .scanFetch 1 live).mlc.tx = some ⟨⟨[.wch], 0, .scanFetch, [], 7⟩, 1, .waiting 250⟩ ∧
      (parseScanList (1 :: report0)).isSome = true ∧ (parseScanList [0]).isSome = true ∧
      (parseScanList (8 :: (List.replicate 8 report0).flatten)).isSome = true := by decide +kernel

theorem test_meets_CellReportsAreTakenIn_spareAndLevel :
    let s := moduleAt 0 (fun m => { m with state := .booting .probe, role := .spare }) (awaiting .mlc .probe 1 live)
    let l := oneEntry { entry0 with serving := true } (ctx (fun c => { c with serving := some (.hunted key0) })
      (connected .talk))
    (s.module 0).role = .spare ∧ (s.module 0).state = .booting .probe ∧ roomFor 3 s = true ∧
      calmPart l = true ∧ tableOk l.ctu.table = true ∧ l.hnt.state = .idle ∧
      (l.withHnt { l.hnt with state := .won }).hnt.state = .won ∧
      after (.levelReport 0 0xFFA0 (some 3)) l (fun t => t.ctu.table.map (·.level)) = some [-96] := by decide +kernel

theorem test_meets_EventBatchesAndAtn :
    let s := awaiting .mlc .poll 1 live
    s.mlc.tx = some ⟨⟨[.mlc], 0, .poll, [], 7⟩, 1, .waiting 250⟩ ∧ (s.module 0).atn = false ∧
      (s.module 0).lastBatch = 0 ∧ parseEvents [0, 0] = some (0, []) ∧ parseEvents [9, 1, 2, 0] = some (9, [(2, [])]) ∧
      (9 : Byte) ≠ (s.module 0).lastBatch ∧ eventOf (2, []) = some .alerting ∧
      (moduleAt 1 (fun m => { m with atn := true }) live).inbox = [] ∧
      ((moduleAt 1 (fun m => { m with atn := true }) live).module 1).atn = true ∧
      (State.reset.module 1).state ≠ .inService ∧ roomFor 1 s = true ∧ s.mlc.queue = [] := by decide +kernel

theorem test_meets_EventBatchesAndAtn_batch :
    let s := moduleAt 0 (fun m => { m with atn := true }) (awaiting .mlc .poll 1 (hunting .won .sent))
    parseEvents [9, 2, 1, 0, 2, 0] = some (9, [(1, []), (2, [])]) ∧ (9 : Byte) ≠ (s.module 0).lastBatch ∧
      [(1, []), (2, [])].filterMap eventOf = [.proceeding, .alerting] ∧ quietEvent .proceeding = true ∧
      quietEvent .alerting = true ∧ s.pln.damaged = [] ∧ s.hnt.state = .won ∧ s.cal.ctx.state ≠ .clearing ∧
      (s.module 0).atn = true ∧ (s.module 0).state = .inService ∧
      s.mlc.queue.any (fun x => x.pos == 0 && x.kind == .poll) = false ∧ roomFor 1 s = true ∧
      after (.events [9, 2, 1, 0, 2, 0]) s (fun t => ((t.record 0).map (·.state), t.mlc.queue.map (·.payload))) =
        some (some .alerting, [[9]]) := by decide +kernel

theorem test_meets_ScansStartEndAndFetch_start :
    let g := (watchAt 0 (fun w => { w with due := true }) live).withWch
      { (watchAt 0 (fun w => { w with due := true }) live).wch with stagger := some 250 }
    let u := g.withWch { g.wch with stagger := none }
    let i := watchAt 0 (fun w => { w with interval := some 300000 }) live
    let v := i.withWatch 0 { i.watch 0 with interval := none, due := true }
    calmPart g = true ∧ g.wch.stagger.isSome = true ∧ (∀ q, wakesForScan u q = false) ∧ nextWaiting u [] = some 0 ∧
      (u.watch 0).phase = .none ∧ busyWithCall u 0 = false ∧ 0 < g.pln.plan.hunt.stagger ∧ roomFor 1 g = true ∧
      (i.watch 0).interval.isSome = true ∧ i.wch.stagger = none ∧ (∀ q, wakesForScan v q = false) ∧
      nextWaiting v [] = some 0 := by decide +kernel

theorem test_meets_ScansStartEndAndFetch_end :
    let s := (watchAt 0 (fun w => { w with phase := .awaitReady, limit := some 20000, scanRequest := some 3 }) live).withWch
      { (watchAt 0 (fun w => { w with phase := .awaitReady, limit := some 20000, scanRequest := some 3 }) live).wch with
        stagger := some 100 }
    (live.watch 0).limit = none ∧ (s.watch 0).limit.isSome = true ∧ (s.watch 0).requested = false ∧ s.wch.order = none ∧
      s.wch.gatherReport = false ∧ s.wch.doze = false ∧ s.wch.stagger.isSome = true ∧
      (∀ q, (s.module q).state ≠ .asleep) ∧ (s.module 0).role = .active ∧ (live.watch 0).phase ≠ .awaitReady ∧
      (s.watch 0).phase = .awaitReady ∧ (1 : Byte) ≠ 0 ∧ roomFor 1 s = true := by decide +kernel

theorem test_meets_SecondsPass :
    let e := { entry0 with bench := some 1, failures := 7, age := 31 }
    let s := oneEntry e live
    calmPart s = true ∧ s.wch.gatherReport = false ∧ e ∈ s.ctu.table ∧ tableOk s.ctu.table = true ∧
      s.ctu.table.any benchEnds = true ∧ (oneEntry entry0 live).ctu.table.any benchEnds = false := by decide +kernel

theorem test_meets_SecondsPass_stale :
    let goes := fun e : Entry => !e.inAttempt && !e.serving && decide (1800 ≤ min (e.age + 1) 65535)
    live.pln.plan.hunt.staleLimit = 1800 ∧ goes { entry0 with age := 1799 } = true ∧
      goes { entry0 with age := 1798 } = false ∧ goes { entry0 with age := 65535, serving := true } = false := by
  decide +kernel

theorem test_meets_GraceEndsHolding :
    let s := State.reset
    calmPart live = true ∧ live.pln.phase = .released ∧ calmPart s = true ∧ s.pln.phase = .holding ∧
      s.pln.grace.isSome = true ∧ huntRests s = true ∧ scansRest s = true ∧ s.cal.ctx.state = .idle ∧
      s.cal.ctx.serving = none ∧ s.mlc.wait = none ∧ (s.module 2).state = .held := by decide +kernel

theorem test_meets_CopiesComplete :
    let s := copying goodImage live
    let c := copying goodImage (inCall .hunting live)
    let b := copying [] live
    calmPart s = true ∧ Memory.wf s.smp.mem = true ∧ s.pln.copy = some ⟨false, false⟩ ∧
      s.pln.staged = .bytes goodImage ∧ s.pln.held = some heldLoad ∧ s.ord.slots.get heldLoad.slot = .taken 4 heldLoad.take ∧
      c.cal.ctx.state ≠ .idle ∧ s.cal.ctx.state = .idle ∧ imageFails b.straps [] 1 = true ∧
      imageFails b.straps [] 0 = false ∧ huntRests s = true ∧ tableOk s.ctu.table = true := by
  decide +kernel

theorem test_meets_CopiesComplete_rest :
    scansRest (copying goodImage live) = true ∧ (copying goodImage live).mlc.wait = none ∧
      ((copying goodImage live).withPln { (copying goodImage live).pln with copy := some ⟨true, true⟩ }).pln.copy =
        some ⟨true, true⟩ := by decide +kernel

/-- The good image with a present location record whose text has a character out of range: index 44 fails first. -/
def badText : List Byte :=
  (((List.range 16).foldl (fun l i => l.set (224 + i) 0x41) goodImage).set 221 1).set 254 1

theorem test_meets_CopiesComplete_image :
    (List.range 45).all (fun i => !imageFails live.straps goodImage i) = true ∧
      (List.range 44).all (fun i => !imageFails live.straps badText i) = true ∧
      imageFails live.straps badText 44 = true := by decide +kernel

theorem test_meets_StorePhasesRun :
    let s := fun (x : StorePhase) => live.withPln { live.pln with storePhase := some x, staged := .plan builtInPlan }
    (s .marker).inbox = [] ∧ (s .marker).pln.storePhase = some .marker ∧
      (s (.erase 3)).pln.storePhase = some (.erase 3) ∧ (3 < 4 ∧ 4 ≤ 4) ∧
      (s (.program 2)).pln.storePhase = some (.program 2) ∧ (s (.program 2)).pln.staged = .plan builtInPlan ∧
      (2 < 3 ∧ 3 ≤ 3) ∧ (s .complete).pln.storePhase = some .complete ∧ live.pln.storePhase = none := by decide +kernel

theorem test_meets_StorePhasesRun_order :
    let s := taken 4 (live.withPln { live.pln with
      storePhase := some (.erase 4), storeState := .storing, held := some heldLoad, detail := 0x8003 })
    let e : FaultEntry := ⟨5, .linkError, some 1, 4, none⟩
    s.pln.held = some heldLoad ∧ s.ord.slots.get heldLoad.slot = .taken 4 heldLoad.take ∧ Memory.wf s.smp.mem = true ∧
      s.flt.log.length < 4 ∧ ¬ (s.withFlt { log := [e, e, e, e], tally := 4 }).flt.log.length < 4 ∧
      after (.erasePassDone false) s (fun t => (t.ord.slots.get 2, t.flt.log.map (·.detail))) = some (.done, [1]) := by
  decide +kernel

theorem test_meets_DamageIsFoundAtTheRead :
    let s := live.withPln { live.pln with damaged := [14] }
    live.inbox = [] ∧ live.pln.damaged.contains 1 = false ∧ live.pln.damaged.contains 44 = false ∧
      live.bsu.quiet.level = false ∧ flagsSet 0 ≠ 1 ∧ flagsSet 0x7F ≠ 1 ∧ s.pln.damaged.contains 14 = true ∧
      s.pln.damaged.contains 13 = false ∧ s.flt.log.length < 4 ∧ tableOk s.ctu.table = true ∧
      (live.withBsu { live.bsu with quiet := ⟨true, 0⟩ }).bsu.quiet.level = true := by decide +kernel

theorem test_meets_DamageIsFoundAtTheRead_store :
    let s := fun (x : StoreState) (a : ImageArea) =>
      live.withPln { live.pln with damaged := [14], storeState := x, store := ⟨.complete, a⟩ }
    let a := s .valid (.image builtInPlan true)
    a.pln.storeState = .valid ∧ a.pln.store.area = .image builtInPlan true ∧
      (isWired a.straps 0 = true ∧ builtInPlan.roles.get 0 = .active) ∧
      (s .valid (.image absentPlan true)).pln.store.area = .image absentPlan true ∧
      (∀ p, isWired live.straps p = true → absentPlan.roles.get p ≠ .active) ∧
      ImageArea.image builtInPlan false ≠ .image builtInPlan true ∧ (s .damaged .partly).pln.storeState ≠ .valid := by
  decide +kernel

theorem test_meets_DamageIsFoundAtTheRead_recovery :
    let damage := fun (s : State) => s.withCal { s.cal with held7 := 0x48 }
    let i := damage live
    let d := damage (ctx (fun c => { c with start := some 3, message := .delivered }) (connected .talk))
    let r := damage (ctx (fun c => { c with start := some 3, message := .undelivered }) (connected .talk))
    calmPart i = true ∧ flagsSound i = false ∧ i.cal.place = none ∧ i.cal.clear = none ∧
      i.cal.ctx.flags.pressHeld = false ∧ i.wch.doze = false ∧ i.wch.dozePending = false ∧ i.cal.ctx.state = .idle ∧
      i.cal.ctx.start = none ∧ i.cal.ctx.serving = none ∧ i.cal.ctx.huntLink = .none ∧ i.bsu.call.level = false ∧
      i.pln.phase = .released ∧ (∀ p, (i.module p).pendingRole = none) ∧ flagsSound d = false ∧ calmPart d = true ∧
      d.cal.ctx.state = .talk ∧ servingPos d.cal.ctx.serving = some 0 ∧ d.record 0 = none ∧
      d.cal.ctx.start.isSome = true ∧ huntSettled d = true ∧ callPlaceFree 0 d = true ∧
      d.cal.ctx.message = .delivered ∧ 0 < d.pln.plan.call.callbackWindow ∧ flagsSound r = false ∧
      r.cal.ctx.message ≠ .delivered ∧ r.cal.ctx.kind = .emergency ∧ r.hnt.kind = .emergency ∧
      huntSettled r = true ∧ callPlaceFree 0 r = true := by decide +kernel

/-- A call whose seven flags are damaged, in a state with a start time and a message status. -/
def damagedCall (x : CallState) (m : MessageStatus) (s : State) : State :=
  let s := ctx (fun c => { c with state := x, start := some 3, message := m }) s
  s.withCal { s.cal with held7 := 0x48 }

theorem test_meets_DamageIsFoundAtTheRead_orders :
    let i := offered 5 [1] (live.withCal { live.cal with held7 := 0x48 })
    let d := holdingPlace (damagedCall .talk .delivered (connected .talk))
    let l := damagedCall .locating .pending delivering
    let c := holdingClear (ctx (fun c => { c with flags := { c.flags with clearDeferred := true } }) l)
    flagsSound i = false ∧ i.cal.ctx.start = none ∧ orderReady i 5 1 = true ∧ firstParameter i 5 = 0 ∧
      Memory.wf i.smp.mem = true ∧ d.cal.place = some ⟨2, 1⟩ ∧ d.ord.slots.get 2 = .taken 1 1 ∧
      flagsSound d = false ∧ d.cal.ctx.message = .delivered ∧ d.cal.clear = none ∧ calmPart l = true ∧
      flagsSound l = false ∧ l.cal.ctx.state = .locating ∧ servingPos l.cal.ctx.serving = some 0 ∧ l.record 0 = none ∧
      huntSettled l = true ∧ callPlaceFree 0 l = true ∧ l.cal.ctx.message ≠ .delivered ∧ c.cal.clear.isSome = true ∧
      c.cal.ctx.flags.pressHeld = false ∧ flagsSound c = false := by decide +kernel

theorem test_meets_DamageIsFoundAtTheRead_hunting :
    let s := linked .active (damagedCall .hunting .pending (hunting .round .sent))
    calmPart s = true ∧ flagsSound s = false ∧ s.cal.ctx.state = .hunting ∧ s.cal.ctx.start.isSome = true ∧
      s.cal.ctx.message ≠ .delivered ∧ s.cal.ctx.serving = none ∧ s.cal.ctx.kind = .emergency ∧
      s.hnt.kind = .emergency ∧ s.cal.ctx.huntLink = .active ∧ s.hnt.state = .round ∧
      s.record 0 = some (attempt0 .sent) ∧ (attempt0 .sent).key.pos = 0 ∧ (∀ q, q ≠ 0 → s.record q = none) ∧
      callPlaceFree 0 s = true ∧ s.cal.clear = none := by decide +kernel

theorem test_meets_DamageIsFoundAtTheRead_clearing :
    let s := ctx (fun c => { c with releases := c.releases.set 0 true }) (damagedCall .clearing .delivered live)
    let h := ctx (fun c => { c with flags := { c.flags with pressHeld := true } }) s
    calmPart s = true ∧ flagsSound s = false ∧ s.cal.ctx.state = .clearing ∧
      s.cal.ctx.releases.set 0 false = ⟨false, false, false⟩ ∧ s.cal.ctx.huntLink = .none ∧ s.cal.ctx.answer = none ∧
      s.cal.ctx.serving = none ∧ s.record 0 = none ∧ s.cal.ctx.message = .delivered ∧
      0 < s.pln.plan.call.callbackWindow ∧ (∀ q, (s.module q).pendingRole = none) ∧
      (holdingPlace s).cal.place = some ⟨2, 1⟩ ∧ (holdingClear s).cal.clear.isSome = true ∧
      (holdingClear s).cal.place = none ∧ h.cal.ctx.flags.pressHeld = true ∧ h.cal.clear = none := by decide +kernel

theorem test_meets_ScoresRanksAndPauses :
    -130 ≤ entry0.level ∧ entry0.failures ≤ 7 ∧ scoreOf builtInPlan entry0 = 64 ∧ 1 ≤ 1 := by decide +kernel

/-! ### The worked cases of spec/ -/

/-- An entry that only its scoring fields tell from `entry0`. -/
def scored (band : Band) (level : Int) (quality : Option Nat) (failures age : Nat) : Entry :=
  { entry0 with band := band, level := level, quality := quality, failures := failures, age := age }

/-- The built-in plan with the tag of `entry0` at place 2 of the preferred list. -/
def preferring : Plan := { builtInPlan with lists := { builtInPlan.lists with preferred := [1, 2, 0x5015] } }

theorem test_worked_scores :
    scoreOf preferring (scored .low (-97) (some 9) 1 40) = 250 ∧
      scoreOf preferring (scored .low (-97) (some 9) 1 48) = 249 ∧
      scoreOf builtInPlan (scored .high (-121) none 0 0) = 108 ∧
      scoreOf builtInPlan (scored .high (-130) (some 0) 7 5000) = 0 := by decide +kernel

theorem test_worked_tieOrder :
    let e := fun (p : Pos) (tag : BitVec 24) (channel : BitVec 16) (seq : Nat) =>
      { entry0 with key := ⟨p, tag, channel⟩, score := 136, seq := seq }
    ([e 1 20501 3150 312, e 0 20700 5000 400, e 0 20700 4000 405, e 0 20800 4000 290].foldl
      (fun t x => placeEntry x t) []).map (·.seq) = [290, 405, 400, 312] := by decide +kernel

theorem test_worked_backoff :
    let p := fun base cap =>
      { builtInPlan with hunt := { builtInPlan.hunt with backoffBase := base, backoffCap := cap } }
    [1, 2, 3, 4, 5, 10].map (backoffPause (p 4 60)) = [4, 8, 16, 32, 60, 60] ∧
      [1, 2, 3, 4, 5].map (backoffPause (p 30 300)) = [30, 60, 120, 240, 300] ∧
      [1, 8, 9, 10, 255].map (backoffPause (p 1 300)) = [1, 128, 256, 256, 256] ∧
      [6, 8, 9].map (backoffPause (p 2 300)) = [64, 256, 300] := by decide +kernel

theorem test_worked_messageRecord :
    let c := { resetContext with
      sequence := 42, start := some 100, attempts := 3, presses := 1, serving := some (.hunted ⟨2, 20777, 412⟩)
      flags := ⟨true, false, false, false, false, false⟩ }
    let t := [{ entry0 with key := ⟨2, 20777, 412⟩, band := .high }]
    let r := messageRecord (some { location0 with text := List.replicate 20 0x54 }) c 131 t
    r.length = 64 ∧ (segmentBytes r 1).length = 48 ∧ (segmentBytes r 2).length = 16 ∧ r.getD 1 0 = 0x14 ∧
      (r.drop 35).take 8 = [3, 31, 0, 2, 0x29, 0x51, 0, 20] := by decide +kernel

theorem test_worked_pollFrame :
    (requestFrame ⟨[.mlc], 0, .poll, [41], 1⟩).length = 4 ∧
      (requestFrame ⟨[.mlc], 0, .poll, [41], 1⟩).map (·.data) = [0x09, 1, 41, 0xCD] := by decide +kernel

/-! ### One step of a command -/

theorem test_step_powerOnReset :
    after (.powerOnReset defaultStraps defaultPins) busy (fun t => (t.pln.phase, t.clock, t.pending.length)) =
      some (.holding, 0, 1) := by decide +kernel

theorem test_step_pinReset :
    after (.pinReset defaultStraps defaultPins) (live.withMem [(0x1C0, 5), (0x680, 9)]) (·.smp.mem) =
      some [(0x680, 9)] := by decide +kernel

theorem test_step_softReset :
    after .softReset (offered 5 [2] (connected .talk)) (fun t => (t.ord.slots.get 5, t.cal.ctx.state)) =
      some (.free, .talk) := by decide +kernel

theorem test_step_offerWrite :
    after (.offerWrite 0x22) (offered 5 [2] live) (fun t => (t.ord.slots.get 1, t.flt.log.map (·.detail))) =
      some (.offered, [5]) := by decide +kernel

theorem test_step_hostWrite_trespass :
    after (.hostWrite 0x40 7) live (fun t => (t.smp.mem, t.flt.log.map (fun e => (e.detail, e.address)))) =
      some ([], [(2, some 0x40)]) := by decide +kernel

theorem test_step_hostWrite_stored :
    after (.hostWrite 0x682 0x1203) live (·.smp.mem) = some [(0x682, 3), (0x683, 0x12)] := by decide +kernel

theorem test_step_callPress :
    after .callPress live (fun t => (t.cal.ctx.state, t.hnt.state, t.cal.ctx.sequence, t.vsw.active)) =
      some (.hunting, .gather, 1, some .reassure) := by decide +kernel

theorem test_step_callAnswered :
    after (.callAnswered 0) (hunting .round .alerting)
      (fun t => (t.cal.ctx.state, t.hnt.state, t.lmu.state, t.mlc.queue.map (·.kind))) =
      some (.locating, .won, .sending, [.data]) := by decide +kernel

theorem test_step_dataResult :
    after (.dataResult 0 .accepted) delivering (fun t => (t.cal.ctx.state, t.cal.ctx.message, t.cal.mask)) =
      some (.talk, .delivered, some 5000) := by decide +kernel

theorem test_step_serviceLost :
    after (.serviceLost 0) (connected .talk) (fun t => (t.cal.ctx.state, t.cal.ctx.lastEnd)) =
      some (.reestablishing, .radioLost) := by decide +kernel

theorem test_step_callEnded :
    after (.callEnded 0 .normal) (connected .talk) (fun t => (t.cal.ctx.state, t.cal.ctx.callback)) =
      some (.callbackWait, 900) := by decide +kernel

theorem test_step_status :
    after (.status report0) (moduleAt 0 (fun m => { m with state := .booting .probe }) (awaiting .mlc .probe 1 live))
      (fun t => ((t.module 0).state, t.ctu.table.map (fun e => (e.key, e.level, e.score)))) =
      some (.inService, [(key0, -80, 304)]) := by decide +kernel

theorem test_step_replyDeadline_third :
    after .replyDeadlineExpiry (moduleAt 0 (fun m => { m with failures := 2 }) (awaiting .mlc .poll 3 live))
      (fun t => ((t.module 0).state, t.flt.log.map (·.kind))) =
      some (.suspect, [.linkError, .moduleRestarted]) := by decide +kernel

theorem test_step_copyCompletion :
    after .copyCompletion (copying goodImage live) (fun t => (t.pln.source, t.ord.slots.get 2, t.pln.plan.hunt.perRound)) =
      some (.host, .done, 1) := by decide +kernel

theorem test_step_secondsClock :
    after .secondsClockAdvance (oneEntry { entry0 with bench := some 1, failures := 7 } live)
      (fun t => (t.clock, t.ctu.table.map (fun e => (e.failures, e.bench, e.age)))) =
      some (1, [(4, none, 1)]) := by decide +kernel

theorem test_step_flagsDamaged_recovery :
    after (.serviceLost 0) ((connected .talk).withCal { (connected .talk).cal with held7 := 0x48 })
      (fun t => (t.cal.ctx.state, t.cal.ctx.lastEnd, t.flt.log.map (fun e => (e.kind, e.detail)))) =
      some (.idle, .stateCheck, [(.stateCheck, 0x48)]) := by decide +kernel

theorem test_step_planDamaged_found :
    after .secondsClockAdvance (live.withPln { live.pln with damaged := [14] })
      (fun t => (t.pln.source, t.pln.damaged, t.flt.log.map (fun e => (e.kind, e.detail)))) =
      some (.default, [], [(.planCheck, 14)]) := by decide +kernel

/-- A working plan whose loss brings another: some fields are damaged, and the store holds the plan that a recovery
installs. -/
def damagedPlan (fields : List Nat) (now stored : PlanHunt) (s : State) : State :=
  s.withPln
    { s.pln with
      plan := { builtInPlan with hunt := now }, damaged := fields, storeState := .valid,
      store := ⟨.complete, .image { builtInPlan with hunt := stored } true⟩ }

/-- A second key, at another position. -/
def key2 : Key := ⟨2, 0x5016, 3⟩

/-- A launch whose read brings a plan of lower concurrency: CAL is told of the new record before its end (R48, R64). -/
theorem test_step_launchStaggerExpiry_reports :
    let s := damagedPlan [17] builtInPlan.hunt { builtInPlan.hunt with concurrency := 1 } (hunting .round .sent)
    let s := s.withCtu
      { s.ctu with table := s.ctu.table ++ [{ entry0 with key := key2, failures := 0, score := 60, seq := 2 }] }
    after .launchStaggerExpiry (s.withHnt { s.hnt with set := [key2], stagger := some 250, counter := 1 })
      (fun t => (t.hnt.counter, t.record 2, t.cal.ctx.attempts, t.cal.ctx.summaries.get 2)) =
      some (2, none, 2, none) := by decide +kernel

/-- A launch reads its dial fields before the stagger: the fault names field 2, and the stagger is the new plan's (R46). -/
theorem test_step_launchStaggerExpiry_readOrder :
    let s := damagedPlan [2, 17] builtInPlan.hunt { builtInPlan.hunt with stagger := 400 } (hunting .round .sent)
    let s := s.withCtu
      { s.ctu with table := s.ctu.table ++ [{ entry0 with key := key2, failures := 0, score := 60, seq := 2 }] }
    after .launchStaggerExpiry (s.withHnt { s.hnt with set := [key2], stagger := some 250, counter := 1 })
      (fun t => (t.flt.log.map (fun e => (e.kind, e.detail)), t.hnt.stagger, t.hnt.counter)) =
      some ([(.planCheck, 2)], some 400, 2) := by decide +kernel

/-- A pause whose reading brings newly eligible keys: CAL shows the pause, then the 0 of the early end (R61, R62). -/
theorem test_step_gatherTimerExpiry_reports :
    let s := damagedPlan [20] { builtInPlan.hunt with scoreFloor := 700 } builtInPlan.hunt
      (oneEntry { entry0 with failures := 0, score := 304 } (inCall .hunting live))
    after .gatherTimerExpiry (s.withHnt { s.hnt with state := .gather, gather := some 20000 })
      (fun t => (t.hnt.state, t.hnt.backoff, t.cal.ctx.rounds, t.cal.ctx.backoff)) =
      some (.round, none, 1, 0) := by decide +kernel

end Sys2Proof.Tests
end

section
/-! PROOFS. What every command keeps, but for the few whose own work it is to change it: the relation `Keeps`, and one
lemma for each command that goes beyond `Evolves` (the link's transaction, the clock, the box inputs). -/

namespace Sys2Proof.Machine

/-! ### The relation -/

/-- What a command leaves of the parts that the host's own commands and the resets alone may change, and the invariants
that it keeps. `Evolves` says as much of the blocks' own doing; beyond it a command may move the clock, the transaction in
flight, the filtered inputs and the outputs, of which `Keeps` says nothing. -/
structure Keeps (s t : State) : Prop where
  pending : t.pending = s.pending
  straps : t.straps = s.straps
  takeNumber : t.ord.takeNumber = s.ord.takeNumber
  enables : t.smp.enables = s.smp.enables
  causes : ∀ i, s.smp.causes.getLsbD i = true → t.smp.causes.getLsbD i = true
  slots : ∀ k, SlotStep (s.ord.slots.get k) (t.ord.slots.get k)
  mem : ∀ a, memRead t.smp.mem a = memRead s.smp.mem a ∨
    ∃ k, inResult k a ∧ isTaken (s.ord.slots.get k) = true ∧ t.ord.slots.get k = .done
  memWf : Memory.wf s.smp.mem = true → Memory.wf t.smp.mem = true
  log : s.flt.log <+: t.flt.log
  tally : s.flt.tally ≤ 255 → s.flt.tally ≤ t.flt.tally ∧ t.flt.tally ≤ 255
  faults : faultsOk s.flt = true → faultsOk t.flt = true
  switch : switchOk s.vsw = true → switchOk t.vsw = true
  tones : tonesOk s.vsw = true → tonesOk t.vsw = true
  queue : queueOk s.mlc.queue = true → queueOk t.mlc.queue = true
  table : tableOk s.ctu.table = true → tableOk t.ctu.table = true
  bounded : Bounded s → Bounded t
  clockGen : t.smp.clockGen.getLsbD 0 = s.smp.clockGen.getLsbD 0
  statusGen : t.smp.statusGen.getLsbD 0 = s.smp.statusGen.getLsbD 0
  mirrorGen : t.ctu.mirrorGen.getLsbD 0 = s.ctu.mirrorGen.getLsbD 0
  fileGen : t.cal.fileGen.getLsbD 0 = s.cal.fileGen.getLsbD 0

theorem Evolves.keeps {s t : State} (h : Evolves s t) : Keeps s t :=
  { h with
    clockGen := congrArg (·.getLsbD 0) h.clockGen
    mem := fun a => (h.mem a).imp_right fun ⟨k, lo, hi, taken, done⟩ => ⟨k, ⟨lo, hi⟩, taken, done⟩ }

theorem Keeps.refl (s : State) : Keeps s s := (Evolves.refl s).keeps

/-- Of a byte that two commands might change: at most one of them does, since a slot that is DONE is not TAKEN. -/
theorem mem_step_trans {s t u : State} {a : Nat}
    (h : memRead t.smp.mem a = memRead s.smp.mem a ∨
      ∃ k, inResult k a ∧ isTaken (s.ord.slots.get k) = true ∧ t.ord.slots.get k = .done)
    (g : memRead u.smp.mem a = memRead t.smp.mem a ∨
      ∃ k, inResult k a ∧ isTaken (t.ord.slots.get k) = true ∧ u.ord.slots.get k = .done)
    (hs : ∀ k, SlotStep (s.ord.slots.get k) (t.ord.slots.get k))
    (gs : ∀ k, SlotStep (t.ord.slots.get k) (u.ord.slots.get k)) :
    memRead u.smp.mem a = memRead s.smp.mem a ∨
      ∃ k, inResult k a ∧ isTaken (s.ord.slots.get k) = true ∧ u.ord.slots.get k = .done := by
  rcases g with same | ⟨k, inside, taken, done⟩
  · rcases h with same' | ⟨k, inside, taken, done⟩
    · exact Or.inl (same.trans same')
    · refine Or.inr ⟨k, inside, taken, ?_⟩
      rcases gs k with e | ⟨again, _⟩
      · rw [e, done]
      · simp [done, isTaken] at again
  · rcases hs k with e | ⟨_, early⟩
    · exact Or.inr ⟨k, inside, e ▸ taken, done⟩
    · simp [early, isTaken] at taken

theorem Keeps.trans {s t u : State} (h : Keeps s t) (g : Keeps t u) : Keeps s u where
  pending := g.pending.trans h.pending
  straps := g.straps.trans h.straps
  takeNumber := g.takeNumber.trans h.takeNumber
  enables := g.enables.trans h.enables
  causes i x := g.causes i (h.causes i x)
  slots k := (h.slots k).trans (g.slots k)
  mem a := mem_step_trans (h.mem a) (g.mem a) h.slots g.slots
  memWf x := g.memWf (h.memWf x)
  log := h.log.trans g.log
  tally x := ⟨(h.tally x).1.trans (g.tally (h.tally x).2).1, (g.tally (h.tally x).2).2⟩
  faults x := g.faults (h.faults x)
  switch x := g.switch (h.switch x)
  tones x := g.tones (h.tones x)
  queue x := g.queue (h.queue x)
  table x := g.table (h.table x)
  bounded x := g.bounded (h.bounded x)
  clockGen := g.clockGen.trans h.clockGen
  statusGen := g.statusGen.trans h.statusGen
  mirrorGen := g.mirrorGen.trans h.mirrorGen
  fileGen := g.fileGen.trans h.fileGen

theorem Keeps.evolves {s t u : State} (h : Keeps s t) (g : Evolves t u) : Keeps s u := h.trans g.keeps

theorem Keeps.withMlc {s0 s : State} (h : Keeps s0 s) {x : Mlc}
    (hq : queueOk s.mlc.queue = true → queueOk x.queue = true) : Keeps s0 (s.withMlc x) :=
  { h with queue := fun a => hq (h.queue a) }

theorem Keeps.withBsu {s0 s : State} (h : Keeps s0 s) {x : Bsu} : Keeps s0 (s.withBsu x) := { h with }

theorem Keeps.withClock {s0 s : State} (h : Keeps s0 s) {x : BitVec 32} : Keeps s0 (s.withClock x) := { h with }

/-- What a command answers keeps what the command itself has kept: its cascade evolves the state. -/
theorem Keeps.settled {s u t : State} (h : Keeps s u) (e : settled u = .next t) : Keeps s t := by
  rw [settled_eq e]
  exact h.evolves (drain_evolves (Evolves.refl u))

/-! ### The link's transaction -/

theorem takeHeads_keeps {s0 s : State} {n : Nat} (h : Keeps s0 s) : Keeps s0 (takeHeads n s) := by
  induction n generalizing s with
  | zero => exact h
  | succ n ih =>
    unfold takeHeads
    split
    · exact h
    next r _ =>
      have dropped : Keeps s0 (s.withQueue (dropNumber r.number s.mlc.queue)) :=
        h.withMlc fun q => queueOk_filter q _
      dsimp only
      split
      · exact dropped.withMlc id
      · exact ih (dropped.evolves (deliver_evolves (Evolves.refl _)))

theorem endSuccess_keeps {s0 s : State} {t : Transaction} (h : Keeps s0 s) : Keeps s0 (endSuccess t s) :=
  (h.withMlc id).withMlc id

theorem linkFailed_keeps {s0 s : State} {t : Transaction} {error : Nat} (h : Keeps s0 s) :
    Keeps s0 (linkFailed t error s) := by
  unfold linkFailed
  dsimp only
  have told := ((h.withMlc (x := { s.mlc with tx := none }) id).evolves
    (deliver_evolves (req := t.req) (r := .linkFailed) (reportFault_evolves (kind := .linkError) (pos := some t.req.pos)
      (detail := error) (address := none) ((Evolves.refl _).withModule (p := t.req.pos)
        (m := { (s.withMlc { s.mlc with tx := none }).module t.req.pos with
          failures := min (((s.withMlc { s.mlc with tx := none }).module t.req.pos).failures + 1) 3 })))))
  split
  · split
    · exact told.evolves (enterFailed_evolves (Evolves.refl _))
    · exact told
  · split
    · exact told.evolves (thirdFailure_evolves (Evolves.refl _))
    · exact told

theorem failTry_keeps {s0 s : State} {t : Transaction} {error : Nat} (h : Keeps s0 s) :
    Keeps s0 (failTry t error s) := by
  unfold failTry
  split
  · exact linkFailed_keeps h
  · exact h.withMlc id

theorem onReply_keeps {s0 s : State} {kind : Nat} {f : Transaction → State → State}
    (hf : ∀ t {s}, Keeps s0 s → Keeps s0 (f t s)) (h : Keeps s0 s) : Keeps s0 (onReply kind f s) := by
  unfold onReply
  split
  · exact h
  · split
    · exact hf _ h
    · exact failTry_keeps h

theorem cutTransaction_keeps {s0 s : State} {p : Pos} (h : Keeps s0 s) : Keeps s0 (cutTransaction p s) := by
  unfold cutTransaction
  split
  next t _ =>
    split
    · have freed : Keeps s0 (s.withMlc { s.mlc with tx := none }) := h.withMlc id
      exact freed.evolves (deliver_evolves (Evolves.refl _))
    · exact h
  · exact h

theorem replyOkModule_evolves {s0 s : State} {p : Pos} {kind : ReqKind} (h : Evolves s0 s) :
    Evolves s0 (replyOkModule p kind s) := by
  unfold replyOkModule
  split
  · split
    · exact enterAsleep_evolves h
    · exact h
  · split
    · exact enterBoot_evolves h
    · exact h
  · exact h

theorem takeStatus_keeps {s0 s : State} {r : CellReport} {t : Transaction} (h : Keeps s0 s) :
    Keeps s0 (takeStatus r t s) := by
  have taken := (endSuccess_keeps (t := t) h).evolves
    (ctuIntake_evolves (p := t.req.pos) (reports := [r]) (Evolves.refl _))
  unfold takeStatus
  dsimp only
  split
  · exact taken.evolves (enterService_evolves (Evolves.refl _))
  · exact taken

theorem takeBatch_keeps {s0 s : State} {batch : Byte} {records : List EventRecord} {t : Transaction}
    (h : Keeps s0 s) : Keeps s0 (takeBatch batch records t s) := by
  refine (endSuccess_keeps (t := t) h).evolves ?_
  have polled {u v : State} (g : Evolves u v) : Evolves u (if (v.module t.req.pos).atn ∧
      (v.module t.req.pos).state = .inService then queuePoll t.req.pos v else v) := by
    split
    · exact queuePoll_evolves g
    · exact g
  unfold takeBatch
  dsimp only
  split
  · exact dispatchRecords_evolves (polled (Evolves.refl _).withModule)
  · exact polled (Evolves.refl _)

/-! ### The clock, the inputs and the outputs -/

theorem advanceClock_keeps (s : State) : Keeps s (advanceClock s) :=
  { Keeps.refl s with clockGen := getLsbD_add_two _ }

theorem secondPasses_keeps (s : State) : Keeps s (secondPasses s) :=
  (advanceClock_keeps s).evolves (upkeep_evolves (calEvent_evolves (fun _ _ g => takeCallbackSecond_evolves g)
    (hntSecond_evolves (ctuAgeTick_evolves (Evolves.refl _)))))

theorem acceptCall_keeps {s0 s : State} {active : Bool} (h : Keeps s0 s) : Keeps s0 (acceptCall active s) :=
  h.withBsu.evolves (postAll_evolves (Evolves.refl _))

theorem acceptHook_keeps {s0 s : State} {active : Bool} (h : Keeps s0 s) : Keeps s0 (acceptHook active s) :=
  h.withBsu.evolves (postAll_evolves (Evolves.refl _))

theorem acceptDoor_keeps {s0 s : State} {active : Bool} (h : Keeps s0 s) : Keeps s0 (acceptDoor active s) :=
  h.withBsu.evolves (raise_evolves (Evolves.refl _))

theorem acceptQuiet_keeps {s0 s : State} {active : Bool} (h : Keeps s0 s) : Keeps s0 (acceptQuiet active s) := by
  unfold acceptQuiet
  dsimp only
  split
  · exact h.withBsu.evolves (touch_evolves (Evolves.refl _))
  · exact h.withBsu

theorem sampleCall_keeps {s0 s : State} {x : Bool} (h : Keeps s0 s) : Keeps s0 (sampleCall x s) := by
  unfold sampleCall
  dsimp only
  split
  · exact acceptCall_keeps h
  · exact h.withBsu

theorem sampleHook_keeps {s0 s : State} {x : Bool} (h : Keeps s0 s) : Keeps s0 (sampleHook x s) := by
  unfold sampleHook
  dsimp only
  split
  · split
    · exact acceptHook_keeps h
    · exact h.withBsu
  · exact h

theorem sampleDoor_keeps {s0 s : State} {x : Bool} (h : Keeps s0 s) : Keeps s0 (sampleDoor x s) := by
  unfold sampleDoor
  dsimp only
  split
  · exact acceptDoor_keeps h
  · exact h.withBsu

theorem sampleQuiet_keeps {s0 s : State} {x : Bool} (h : Keeps s0 s) : Keeps s0 (sampleQuiet x s) := by
  unfold sampleQuiet
  dsimp only
  split
  · exact acceptQuiet_keeps h
  · exact h.withBsu

theorem writeLamp_keeps {s0 s : State} {v : Word} {o : Output} (h : Keeps s0 s) : Keeps s0 (writeLamp v o s) := by
  unfold writeLamp
  split
  · exact h.withBsu
  · exact h

theorem writeLamps_keeps {s0 s : State} {v : Word} (h : Keeps s0 s) : Keeps s0 (writeLamps v s) :=
  writeLamp_keeps (writeLamp_keeps (writeLamp_keeps (writeLamp_keeps h)))

theorem damagePlan_keeps (s : State) (index : Nat) : Keeps s (damagePlan index s) := by
  have damaged : Evolves s (s.withPln { s.pln with
      damaged := if s.pln.damaged.contains index then s.pln.damaged else index :: s.pln.damaged }) :=
    (Evolves.refl s).withPln id
  have read {u : State} (g : Evolves s u) :
      Evolves s (if index = 35 ∧ u.bsu.quiet.level then touch 35 u else u) := by
    split
    · exact touch_evolves g
    · exact g
  exact (read damaged).keeps

end Sys2Proof.Machine
end

section
/-! PROOFS. What each command keeps: `exec_keeps` for the ordinary commands, and one lemma for each kind of command that is
none (the orders, the host's writes, the resets). -/

namespace Sys2Proof.Machine

/-! ### The ordinary commands -/

/-- The commands that keep everything `Keeps` names: all but the resets, the taking of an order, and the register and
memory writes whose own work it is to change the fault log, a slot, a cause, an enable or the memory. -/
def ordinary : Instr → Bool
  | .softReset => false
  | .releaseFault => false
  | .clearTally => false
  | .offerWrite _ => false
  | .doneWrite _ => false
  | .causeWrite _ => false
  | .causeenWrite _ => false
  | .hostWrite _ _ => false
  | c => !isReset c && !takesOrder c

theorem Keeps.ite {s u v : State} {c : Prop} [Decidable c] (hu : Keeps s u) (hv : Keeps s v) :
    Keeps s (if c then u else v) := by
  split
  · exact hu
  · exact hv

theorem execRequestFrameSent_keeps {s t : State} (h : execRequestFrameSent s = .next t) : Keeps s t := by
  refine Keeps.settled ?_ h
  split
  · split
    · exact (Keeps.refl s).withMlc id
    · exact Keeps.refl s
  · exact Keeps.refl s

theorem execIdleWaitEnd_keeps {s t : State} (h : execIdleWaitEnd s = .next t) : Keeps s t := by
  refine Keeps.settled ?_ h
  split
  · split
    · exact (Keeps.refl s).withMlc id
    · exact Keeps.refl s
  · exact Keeps.refl s

theorem execIdleWaitTimeout_keeps {s t : State} (h : execIdleWaitTimeout s = .next t) : Keeps s t := by
  refine Keeps.settled ?_ h
  split
  · split
    · exact failTry_keeps (Keeps.refl s)
    · exact Keeps.refl s
  · exact Keeps.refl s

theorem failAwaited_keeps (s : State) (error : Nat) :
    Keeps s (match awaited s with | some t => failTry t error s | none => s) := by
  split
  · exact failTry_keeps (Keeps.refl s)
  · exact Keeps.refl s

theorem execPollTimerExpiry_keeps {s t : State} {p : Pos} (h : execPollTimerExpiry p s = .next t) : Keeps s t := by
  refine Keeps.settled (Keeps.ite ?_ (Keeps.refl s)) h
  have polled : Evolves s (let s := queuePoll p s
      s.withModule p { s.module p with poll := some (longTimer (currentPollInterval s)) }) :=
    (queuePoll_evolves (Evolves.refl s)).withModule
  exact Keeps.ite (queueSpareSleep_evolves polled).keeps polled.keeps

theorem execPulseTimerExpiry_keeps {s t : State} {p : Pos} (h : execPulseTimerExpiry p s = .next t) : Keeps s t := by
  refine Keeps.settled (Keeps.ite ?_ (Keeps.refl s)) h
  split
  · exact (enterBoot_evolves (Evolves.refl s)).keeps
  · exact (Evolves.refl s).withModule.keeps
  · exact Keeps.refl s

theorem execAtnAsserted_keeps {s t : State} {p : Pos} (h : execAtnAsserted p s = .next t) : Keeps s t := by
  have active : Evolves s (s.withModule p { s.module p with atn := true }) := (Evolves.refl s).withModule
  exact (Keeps.ite (Keeps.refl s) (Keeps.ite (queuePoll_evolves active).withModule.keeps active.keeps)).settled h

theorem execReplyNak_keeps {s t : State} {reason : NakReason} (h : execReplyNak reason s = .next t) : Keeps s t := by
  refine Keeps.settled (Keeps.ite ?_ ?_) h
  · exact failAwaited_keeps s _
  · exact onReply_keeps (fun _ _ g => (endSuccess_keeps g).evolves (deliver_evolves (Evolves.refl _))) (Keeps.refl s)

theorem execStatus_keeps {s t : State} {payload : List Byte} (h : execStatus payload s = .next t) : Keeps s t := by
  refine (onReply_keeps (fun _ _ g => ?_) (Keeps.refl s)).settled h
  split
  · exact takeStatus_keeps g
  · exact failTry_keeps g

theorem execScanList_keeps {s t : State} {payload : List Byte} (h : execScanList payload s = .next t) : Keeps s t := by
  refine (onReply_keeps (fun _ _ g => ?_) (Keeps.refl s)).settled h
  split
  · exact (endSuccess_keeps g).evolves (post_evolves (ctuIntake_evolves (Evolves.refl _)))
  · exact failTry_keeps g

theorem execEvents_keeps {s t : State} {payload : List Byte} (h : execEvents payload s = .next t) : Keeps s t := by
  refine (onReply_keeps (fun _ _ g => ?_) (Keeps.refl s)).settled h
  split
  · exact takeBatch_keeps g
  · exact failTry_keeps g

/-- A copy that completes keeps everything: it ends the protection of the plan area, of which `Keeps` says nothing. -/
theorem plnCopyCompletion_keeps (s : State) : Keeps s (plnCopyCompletion s) := by
  unfold plnCopyCompletion
  split
  next c raw _ _ =>
    have ended : Keeps s ((s.withSmp { s.smp with planProtected := false }).withPln { s.pln with copy := none }) :=
      { Keeps.refl s with }
    dsimp only
    split
    · exact ended.evolves (discardStaged_evolves (completeLoad_evolves (Evolves.refl _)))
    · split
      · exact ended.evolves (discardStaged_evolves (completeLoad_evolves (Evolves.refl _)))
      · exact ended.evolves (loadImage_evolves (Evolves.refl _))
  · exact Keeps.refl s

/-- The ordinary commands keep everything that `Keeps` names. -/
theorem exec_keeps {c : Instr} {s t : State} (hc : ordinary c = true) (h : exec c s = .next t) : Keeps s t := by
  have here : Evolves s s := Evolves.refl s
  cases c with
  | powerOnReset | pinReset | softReset | releaseFault | clearTally | offerWrite | doneWrite | causeWrite
  | causeenWrite | hostWrite | placeOrder | clearOrder | scanOrder | loadPlan | moduleOrder | unknownKind =>
    exact absurd hc Bool.false_ne_true
  | doze => exact (wchDoze_evolves here).keeps.settled h
  | wake => exact (wchWake_evolves here).keeps.settled h
  | lampsWrite v => exact (writeLamps_keeps here.keeps).settled h
  | unusedRegisterWrite addr v =>
    change (if addr.toNat < 6 then Host.Outcome.fault Fault.registerInUse else settled s) = .next t at h
    split at h
    · cases h
    · exact here.keeps.settled h
  | secondsClockAdvance => exact (secondPasses_keeps s).settled h
  | benchExpiry => exact (Keeps.ite (secondPasses_keeps s) here.keeps).settled h
  | callPress => exact (Keeps.ite here.keeps (acceptCall_keeps here.keeps)).settled h
  | hookOn => exact (Keeps.ite (acceptHook_keeps here.keeps) here.keeps).settled h
  | hookOff => exact (Keeps.ite (acceptHook_keeps here.keeps) here.keeps).settled h
  | doorOpen => exact (Keeps.ite here.keeps (acceptDoor_keeps here.keeps)).settled h
  | doorClosed => exact (Keeps.ite (acceptDoor_keeps here.keeps) here.keeps).settled h
  | quietOn => exact (Keeps.ite here.keeps (acceptQuiet_keeps here.keeps)).settled h
  | quietOff => exact (Keeps.ite (acceptQuiet_keeps here.keeps) here.keeps).settled h
  | patternTimerExpiry o => exact (Keeps.ite here.keeps.withBsu here.keeps).settled h
  | wakeWaitExpiry => exact (endWakeWait_evolves here).keeps.settled h
  | gatherTimerExpiry => exact (hntGatherExpiry_evolves here).keeps.settled h
  | backoffTimerExpiry => exact (hntBackoffExpiry_evolves here).keeps.settled h
  | launchStaggerExpiry => exact (hntStaggerExpiry_evolves here).keeps.settled h
  | attemptTimerExpiry p => exact (hntAttemptExpiry_evolves here).keeps.settled h
  | hookMaskExpiry => exact (calEvent_evolves (fun _ _ g => takeMaskExpiry_evolves g) here).keeps.settled h
  | callbackTimerExpiry => exact (calEvent_evolves (fun _ _ g => takeCallbackExpiry_evolves g) here).keeps.settled h
  | acknowledgementTimerExpiry => exact (lmuAckExpiry_evolves here).keeps.settled h
  | gapTimerExpiry => exact (vswGapExpiry_evolves here).keeps.settled h
  | phaseTimerExpiry => exact (vswPhaseExpiry_evolves here).keeps.settled h
  | pollTimerExpiry p => exact execPollTimerExpiry_keeps h
  | bootTimerExpiry p =>
    exact (Keeps.ite (queueProbe_evolves here.withModule).keeps here.keeps).settled h
  | pulseTimerExpiry p => exact execPulseTimerExpiry_keeps h
  | probeRetryExpiry p => exact (Keeps.ite (queueProbe_evolves here.withModule).keeps here.keeps).settled h
  | replyDeadlineExpiry => exact (failAwaited_keeps s _).settled h
  | idleWaitEnd => exact execIdleWaitEnd_keeps h
  | idleWaitTimeout => exact execIdleWaitTimeout_keeps h
  | scanStaggerExpiry => exact (wchStaggerExpiry_evolves here).keeps.settled h
  | scanIntervalExpiry p => exact (wchIntervalExpiry_evolves here).keeps.settled h
  | scanLimitExpiry p => exact (wchLimitExpiry_evolves here).keeps.settled h
  | graceTimerExpiry => exact (plnGraceExpiry_evolves here).keeps.settled h
  | copyCompletion => exact (plnCopyCompletion_keeps s).settled h
  | storeMarkerDone => exact (plnMarkerDone_evolves here).keeps.settled h
  | erasePassDone blank => exact (plnEraseDone_evolves here).keeps.settled h
  | programPassDone matched => exact (plnProgramDone_evolves here).keeps.settled h
  | storeCompleteDone => exact (plnCompleteDone_evolves here).keeps.settled h
  | strayCharacter c => exact here.keeps.settled h
  | takeQueueHead => exact (Keeps.ite (takeHeads_keeps here.keeps) here.keeps).settled h
  | replyOk =>
    exact (onReply_keeps (fun _ _ g => (endSuccess_keeps g).evolves (deliver_evolves
      (replyOkModule_evolves (Evolves.refl _)))) here.keeps).settled h
  | replyNak reason => exact execReplyNak_keeps h
  | status payload => exact execStatus_keeps h
  | scanList payload => exact execScanList_keeps h
  | events payload => exact execEvents_keeps h
  | atnAsserted p => exact execAtnAsserted_keeps h
  | callProceeding p => exact (dispatchEvent_evolves here).keeps.settled h
  | callAlerting p => exact (dispatchEvent_evolves here).keeps.settled h
  | callAnswered p => exact (dispatchEvent_evolves here).keeps.settled h
  | callEnded p cause => exact (dispatchEvent_evolves here).keeps.settled h
  | serviceLost p => exact (dispatchEvent_evolves here).keeps.settled h
  | incoming p caller => exact (dispatchEvent_evolves here).keeps.settled h
  | scanReady p count => exact (dispatchEvent_evolves here).keeps.settled h
  | dataResult p verdict => exact (dispatchEvent_evolves here).keeps.settled h
  | levelReport p level quality => exact (dispatchEvent_evolves here).keeps.settled h
  | replyError error => exact (failAwaited_keeps s _).settled h
  | requestFrameSent => exact execRequestFrameSent_keeps h
  | atnInactive p => exact here.withModule.keeps.settled h
  | callRest => exact (Keeps.ite (acceptCall_keeps here.keeps) here.keeps).settled h
  | inputSample pins =>
    exact (sampleQuiet_keeps (sampleDoor_keeps (sampleHook_keeps (sampleCall_keeps here.keeps)))).settled h
  | planWordDamaged index =>
    change (if 1 ≤ index ∧ index ≤ 44 then settled (damagePlan index s) else .fault .noSuchPlanField) = .next t at h
    split at h
    · exact (damagePlan_keeps s index).settled h
    · cases h
  | callStateFlagsDamaged flags =>
    change (if flagsSet flags = 1 then .fault .flagsNotDamaged else settled (s.withCal { s.cal with held7 := flags }))
      = .next t at h
    split at h
    · cases h
    · have flagged : Evolves s (s.withCal { s.cal with held7 := flags }) := here.withCal rfl
      exact flagged.keeps.settled h

/-! ### The taking of an order -/

theorem ownerPlace_keeps {s0 s : State} {held : Held} {k : Fin 8} (h : Keeps s0 s) :
    Keeps s0 (ownerPlace held k s) :=
  h.evolves (calEvent_evolves (fun _ _ g => takePlace_evolves g) (Evolves.refl s))

theorem ownerClear_keeps {s0 s : State} {held : Held} {k : Fin 8} (h : Keeps s0 s) :
    Keeps s0 (ownerClear held k s) :=
  h.evolves (calEvent_evolves (fun _ _ g => takeClear_evolves g) (Evolves.refl s))

theorem ownerScan_keeps {s0 s : State} {held : Held} {k : Fin 8} (h : Keeps s0 s) :
    Keeps s0 (ownerScan held k s) := h.evolves (wchScanOrder_evolves (Evolves.refl s))

theorem ownerLoadPlan_keeps {s0 s : State} {held : Held} {k : Fin 8} (h : Keeps s0 s) :
    Keeps s0 (ownerLoadPlan held k s) := by
  have protectedArea : Keeps s (s.withSmp { s.smp with planProtected := true }) := { Keeps.refl s with }
  refine h.trans (Keeps.ite (protectedArea.evolves ((Evolves.refl _).withPln fun a => ?_))
    (complete_evolves (Evolves.refl s)).keeps)
  simp only [plansInRange, Bool.and_eq_true] at a ⊢
  exact ⟨a.1, rfl⟩

theorem setReturnRole_evolves {s0 s : State} {p : Pos} (h : Evolves s0 s) : Evolves s0 (setReturnRole p s) := by
  unfold setReturnRole
  dsimp only
  split
  · exact changeRole_evolves (touch_evolves h).withModule
  · split
    · exact changeRole_evolves h.withModule
    · exact h

theorem returning_evolves {s0 s : State} {p : Pos} (h : Evolves s0 s) : Evolves s0 (returning p s) := by
  unfold returning
  split
  · exact setReturnRole_evolves h
  · exact h

theorem completeModule_evolves {s0 s : State} {held : Held} {p : Pos} (h : Evolves s0 s) :
    Evolves s0 (completeModule held p s) := complete_evolves h

theorem waitForBoot_evolves {s0 s : State} {held : Held} {p : Pos} (h : Evolves s0 s) :
    Evolves s0 (waitForBoot held p s) := h.withMlc rfl id

theorem takeOut_keeps {s0 s : State} {held : Held} {p : Pos} (h : Keeps s0 s) : Keeps s0 (takeOut held p s) := by
  refine Keeps.ite (h.evolves (completeModule_evolves (Evolves.refl s))) ((cutTransaction_keeps (p := p) h).evolves ?_)
  have out := changeState_evolves (p := p) (new := .outOfService) (Evolves.refl (cutTransaction p s))
  refine completeModule_evolves ?_
  split
  · exact substitute_evolves out
  · exact out

theorem bringBack_evolves {s0 s : State} {held : Held} {p : Pos} (h : Evolves s0 s) :
    Evolves s0 (bringBack held p s) := by
  unfold bringBack
  split
  · exact waitForBoot_evolves (enterBoot_evolves (returning_evolves h).withModule)
  · exact completeModule_evolves h

theorem restartModule_keeps {s0 s : State} {held : Held} {p : Pos} (h : Keeps s0 s) :
    Keeps s0 (restartModule held p s) :=
  Keeps.ite (h.evolves (completeModule_evolves (Evolves.refl s)))
    ((cutTransaction_keeps h).evolves
      (waitForBoot_evolves (enterReset_evolves (returning_evolves (Evolves.refl _)).withModule)))

theorem ownerModule_keeps {s0 s : State} {held : Held} {k : Fin 8} (h : Keeps s0 s) :
    Keeps s0 (ownerModule held k s) := by
  have answered {o : OrderOutcome} {d : Word} : Keeps s0 (complete held o d s) :=
    h.evolves (complete_evolves (Evolves.refl s))
  refine Keeps.ite answered (Keeps.ite answered ?_)
  split
  · exact takeOut_keeps h
  · exact h.evolves (bringBack_evolves (Evolves.refl s))
  · exact restartModule_keeps h

theorem checkOrder_keeps {kind : Nat} {owner : Held → Fin 8 → State → State} {held : Held} {s0 s : State}
    (ho : ∀ {held k s}, Keeps s0 s → Keeps s0 (owner held k s)) (h : Keeps s0 s) :
    Keeps s0 (checkOrder kind owner held s) := by
  unfold checkOrder
  split
  · exact h.evolves (complete_evolves (Evolves.refl s))
  · split
    · exact h.evolves (complete_evolves (Evolves.refl s))
    · exact ho h

theorem takeOrder_cases {kind : Nat} {owner : Held → Fin 8 → State → State} {s : State}
    (ho : ∀ {held k s0 s}, Keeps s0 s → Keeps s0 (owner held k s)) :
    takeOrder kind owner s = s ∨
      ∃ k, nextOffered s = some k ∧ Keeps (takeSlot k s).2 (takeOrder kind owner s) := by
  unfold takeOrder
  split
  · exact Or.inl rfl
  next k offered =>
    split
    · exact Or.inr ⟨k, offered, checkOrder_keeps ho (Keeps.refl _)⟩
    · exact Or.inl rfl

theorem takeUnknown_cases (s : State) :
    takeUnknown s = s ∨ ∃ k, nextOffered s = some k ∧ Keeps (takeSlot k s).2 (takeUnknown s) := by
  unfold takeUnknown
  split
  · exact Or.inl rfl
  next k offered =>
    split
    · exact Or.inl rfl
    · exact Or.inr ⟨k, offered, (complete_evolves (Evolves.refl _)).keeps⟩

/-- A command that takes orders finds none of its kind, or takes the next slot and keeps everything from there. -/
theorem exec_takesOrder {c : Instr} {s t : State} (hc : takesOrder c = true) (h : exec c s = .next t) :
    Keeps s t ∨ ∃ k, nextOffered s = some k ∧ Keeps (takeSlot k s).2 t := by
  have taken {u : State} (cases : u = s ∨ ∃ k, nextOffered s = some k ∧ Keeps (takeSlot k s).2 u)
      (e : settled u = .next t) : Keeps s t ∨ ∃ k, nextOffered s = some k ∧ Keeps (takeSlot k s).2 t := by
    rcases cases with rfl | ⟨k, offered, kept⟩
    · exact Or.inl ((Keeps.refl u).settled e)
    · exact Or.inr ⟨k, offered, kept.settled e⟩
  cases c with
  | placeOrder => exact taken (takeOrder_cases ownerPlace_keeps) h
  | clearOrder => exact taken (takeOrder_cases ownerClear_keeps) h
  | scanOrder => exact taken (takeOrder_cases ownerScan_keeps) h
  | loadPlan => exact taken (takeOrder_cases ownerLoadPlan_keeps) h
  | moduleOrder => exact taken (takeOrder_cases ownerModule_keeps) h
  | unknownKind => exact taken (takeUnknown_cases s) h
  | _ => exact absurd hc Bool.false_ne_true

/-! ### The host's writes and the resets -/

/-- A host write stores bytes or is dropped; with it nothing else of what `Keeps` names changes. -/
theorem exec_hostWrite {a : BitVec 12} {v : Word} {s t : State} (h : exec (.hostWrite a v) s = .next t) :
    ∃ m, (Memory.wf s.smp.mem = true → Memory.wf m = true) ∧ Keeps (s.withMem m) t := by
  change execHostWrite a v s = .next t at h
  unfold execHostWrite at h
  dsimp only at h
  split at h
  · cases h
  next even =>
    have bound : a.toNat + 1 < 4096 := by omega
    have stored : ∃ m, (Memory.wf s.smp.mem = true → Memory.wf m = true) ∧
        Keeps (s.withMem m) (storeWord a.toNat v s) :=
      ⟨_, fun wf => wf_memWrite (wf_memWrite wf (by omega)) bound, Keeps.refl _⟩
    have dropped (region : Nat) : Keeps s (trespass region a s) :=
      Keeps.ite (noteTrespass_evolves (raise_evolves (reportFault_evolves (Evolves.refl s)))).keeps
        (raise_evolves (reportFault_evolves (Evolves.refl s))).keeps
    have ignored {u : State} (kept : Keeps s u) :
        ∃ m, (Memory.wf s.smp.mem = true → Memory.wf m = true) ∧ Keeps (s.withMem m) u := ⟨s.smp.mem, id, kept⟩
    suffices ∃ m, (Memory.wf s.smp.mem = true → Memory.wf m = true) ∧ Keeps (s.withMem m) _ by
      obtain ⟨m, wf, kept⟩ := this
      exact ⟨m, wf, kept.settled h⟩
    split
    · exact stored
    · split
      · exact ignored (dropped 6)
      · exact stored
    · split
      · unfold storeSlotWord
        split
        · exact ⟨_, fun wf => wf_memWrite wf (by omega), Keeps.refl _⟩
        · exact stored
      · exact ignored (dropped 4)
    · exact ignored (dropped _)

end Sys2Proof.Machine
end

section
/-! PROOFS. The commands that are not ordinary: what they change themselves, and `Keeps` from there. Then the carrier table
and the plans under every command, and the host's side of every command. -/

namespace Sys2Proof.Machine

/-! ### OFFER and DONE -/

/-- Slots apart, what is kept between two states is kept whatever the slots are: no byte changes with the slots fixed. -/
theorem Keeps.sameOrd {s t : State} (h : Keeps (s.withOrd t.ord) t) (x : Ord) : Keeps (s.withOrd x) (t.withOrd x) :=
  { h with
    takeNumber := rfl
    slots := fun _ => SlotStep.refl _
    bounded := h.bounded
    mem := fun a => Or.inl <| by
      rcases h.mem a with same | ⟨k, _, taken, done⟩
      · exact same
      · have taken : isTaken (t.ord.slots.get k) = true := taken
        simp [done, isTaken] at taken }

/-- What OFFER and DONE do to the order unit: no slot becomes TAKEN, and the take number stays. -/
structure SlotsGiven (s t : State) : Prop where
  kept : Keeps (s.withOrd t.ord) t
  take : t.ord.takeNumber = s.ord.takeNumber
  slots : ∀ k, isTaken (t.ord.slots.get k) = true → s.ord.slots.get k = t.ord.slots.get k

theorem SlotsGiven.refl (s : State) : SlotsGiven s s := ⟨Keeps.refl s, rfl, fun _ _ => rfl⟩

theorem SlotsGiven.trans {s t u : State} (h : SlotsGiven s t) (g : SlotsGiven t u) : SlotsGiven s u where
  kept := (h.kept.sameOrd u.ord).trans g.kept
  take := g.take.trans h.take
  slots k taken := by
    have same := g.slots k taken
    rw [h.slots k (same ▸ taken), same]

theorem SlotsGiven.setSlot {s : State} {k : Fin 8} {x : SlotState} (hx : isTaken x = false) :
    SlotsGiven s (setSlot k x s) where
  kept := Keeps.refl _
  take := rfl
  slots j taken := by
    have e : (Machine.setSlot k x s).ord.slots.get j = if j = k then x else s.ord.slots.get j := get_set_slot _ _ _ _
    rw [e] at taken ⊢
    split at taken
    · simp [hx] at taken
    · rename_i other
      rw [if_neg other]

theorem reportFault_ord (kind : FaultKind) (pos : Option Pos) (detail : Nat) (address : Option (BitVec 12)) (s : State) :
    (reportFault kind pos detail address s).ord = s.ord := by
  unfold reportFault
  dsimp only
  split <;> rfl

theorem offerSlot_given (s : State) (k : Fin 8) : SlotsGiven s (offerSlot s k) := by
  unfold offerSlot
  split
  · exact SlotsGiven.setSlot rfl
  · have same := reportFault_ord .badOffer none k.val none s
    refine ⟨?_, by rw [same], fun _ _ => by rw [same]⟩
    rw [same]
    exact (reportFault_evolves (Evolves.refl s)).keeps

theorem giveBackSlot_given (s : State) (k : Fin 8) : SlotsGiven s (giveBackSlot s k) := by
  unfold giveBackSlot
  split
  · exact SlotsGiven.setSlot rfl
  · exact SlotsGiven.refl s

theorem foldl_given {f : State → Fin 8 → State} (hf : ∀ s k, SlotsGiven s (f s k)) (ks : List (Fin 8)) (s : State) :
    SlotsGiven s (ks.foldl f s) := by
  induction ks generalizing s with
  | nil => exact SlotsGiven.refl s
  | cons k ks ih => exact (hf s k).trans (ih _)

/-- An OFFER or DONE write changes slots, none of them to TAKEN, and keeps everything from there. -/
theorem exec_givesSlots {c : Instr} {s t : State} (hc : (∃ v, c = .offerWrite v) ∨ ∃ v, c = .doneWrite v)
    (h : exec c s = .next t) : ∃ u, SlotsGiven s u ∧ Keeps u t := by
  rcases hc with ⟨v, rfl⟩ | ⟨v, rfl⟩
  · exact ⟨_, foldl_given offerSlot_given _ s, (Keeps.refl _).settled h⟩
  · exact ⟨_, foldl_given giveBackSlot_given _ s, (Keeps.refl _).settled h⟩

/-! ### The resets -/

theorem startUp_evolves (s : State) : Evolves s (startUp s) := by
  unfold startUp
  split
  next plan matching state area =>
    split
    · refine endHolding_evolves (install_evolves (fun ranges => ?_) (Evolves.refl s))
      have stored := area_inRange ranges
      rwa [area] at stored
    · exact Evolves.refl s
  · exact Evolves.refl s

/-- A reset sets every block as after a reset, over a memory, and keeps everything from there. -/
theorem exec_reset {c : Instr} {s t : State} (hc : isReset c = true) (h : exec c s = .next t) :
    ∃ straps pins mem, (Memory.wf s.smp.mem = true → Memory.wf mem = true) ∧
      Keeps (blocksAtReset straps pins mem s) t := by
  have started (straps : Straps) (pins : Pins) (mem : List Host.Cell) :
      Keeps (blocksAtReset straps pins mem s) (resetPart straps pins mem s) :=
    { (startUp_evolves (blocksAtReset straps pins mem s)).keeps with clockGen := rfl, statusGen := rfl }
  cases c with
  | powerOnReset straps pins => exact ⟨straps, pins, [], fun _ => rfl, (started _ _ _).settled h⟩
  | pinReset straps pins =>
    exact ⟨straps, pins, keptMemory s.smp.mem, wf_keptMemory, (started _ _ _).settled h⟩
  | _ => exact absurd hc Bool.false_ne_true

theorem bsuSoftReset_eq (s : State) : ∃ x, bsuSoftReset s = s.withBsu x := by
  have one (o : Output) (u : State) (x : Bsu) (e : u = s.withBsu x) : ∃ y, softResetOutput o u = s.withBsu y := by
    unfold softResetOutput
    dsimp only
    split
    · subst e
      exact ⟨_, rfl⟩
    · exact ⟨x, e⟩
  obtain ⟨_, e⟩ := one .lampCall s s.bsu rfl
  obtain ⟨_, e⟩ := one .lampLink _ _ e
  obtain ⟨_, e⟩ := one .lampFault _ _ e
  exact one .beacon _ _ e

theorem ownersSoftReset_evolves (s : State) : Evolves s (ownersSoftReset s) :=
  (((plnSoftReset_evolves (publishCall_evolves (calSoftReset_evolves (Evolves.refl s)))).withWch)).withMlc rfl id

/-- A soft reset: the slots are FREE, FLT and the lamps as it leaves them, causes and enables 0, and everything kept from
there. -/
theorem exec_softReset {s t : State} (h : exec .softReset s = .next t) :
    ∃ u flt bsu, Keeps (ordSoftReset s) u ∧
      Keeps (((u.withFlt flt).withBsu bsu).withSmp { u.smp with causes := 0, enables := 0 }) t := by
  obtain ⟨bsu, e⟩ := bsuSoftReset_eq ((ownersSoftReset (ordSoftReset s)).withFlt resetFlt)
  refine ⟨ownersSoftReset (ordSoftReset s), resetFlt, bsu, (ownersSoftReset_evolves _).keeps, ?_⟩
  change settled (causesSoftReset (bsuSoftReset ((ownersSoftReset (ordSoftReset s)).withFlt resetFlt))) = .next t at h
  rw [e] at h
  exact (Keeps.refl _).settled h

/-! ### The carrier table and the plans under every command (O7) -/

/-- The carrier table keeps its soundness, and with every plan in range its bounds. -/
def KeepsTable (s t : State) : Prop :=
  (tableOk s.ctu.table = true → tableOk t.ctu.table = true) ∧ (Bounded s → Bounded t)

theorem KeepsTable.trans {s t u : State} (h : KeepsTable s t) (g : KeepsTable t u) : KeepsTable s u :=
  ⟨g.1 ∘ h.1, g.2 ∘ h.2⟩

theorem Keeps.keepsTable {s t : State} (h : Keeps s t) : KeepsTable s t := ⟨h.table, h.bounded⟩

/-- What touches neither CTU nor PLN keeps the table. -/
theorem KeepsTable.of_eq {s t : State} (hc : t.ctu = s.ctu) (hp : t.pln = s.pln) : KeepsTable s t := by
  simp [KeepsTable, Bounded, hc, hp]

/-- The stored image of a reset is the one PLN held: its range is kept. -/
theorem plansInRange_resetPln {x : Pln} (h : plansInRange x = true) :
    plansInRange (resetPln (storeAtReset x)) = true := by
  have area : (storeAtReset x).area = x.store.area := by
    unfold storeAtReset
    split <;> rfl
  have stored : areaInRange (resetPln (storeAtReset x)).store.area = true := by
    change areaInRange (storeAtReset x).area = true
    rw [area]
    exact area_inRange h
  simp only [plansInRange, Bool.and_eq_true]
  exact ⟨⟨builtInPlan_inRange, stored⟩, rfl⟩

/-- Every command keeps the table's soundness and bounds. -/
theorem exec_keepsTable {c : Instr} {s t : State} (h : exec c s = .next t) : KeepsTable s t := by
  have around {u : State} (kept : Keeps u t) (hc : u.ctu = s.ctu) (hp : u.pln = s.pln) : KeepsTable s t :=
    (KeepsTable.of_eq hc hp).trans kept.keepsTable
  cases hr : isReset c with
  | true =>
    obtain ⟨straps, pins, mem, _, kept⟩ := exec_reset hr h
    exact ⟨fun _ => kept.table rfl, fun b => kept.bounded ⟨plansInRange_resetPln b.1, rfl, rfl⟩⟩
  | false =>
    cases ho : takesOrder c with
    | true =>
      rcases exec_takesOrder ho h with kept | ⟨k, _, kept⟩
      · exact kept.keepsTable
      · exact around kept rfl rfl
    | false =>
      cases c with
      | softReset =>
        obtain ⟨u, flt, bsu, first, second⟩ := exec_softReset h
        exact (KeepsTable.of_eq (s := s) rfl rfl).trans
          (first.keepsTable.trans ((KeepsTable.of_eq rfl rfl).trans second.keepsTable))
      | releaseFault => exact around ((Keeps.refl _).settled h) rfl rfl
      | clearTally => exact around ((Keeps.refl _).settled h) rfl rfl
      | causeWrite v => exact around ((Keeps.refl _).settled h) rfl rfl
      | causeenWrite v => exact around ((Keeps.refl _).settled h) rfl rfl
      | offerWrite v =>
        obtain ⟨u, given, kept⟩ := exec_givesSlots (Or.inl ⟨v, rfl⟩) h
        exact (KeepsTable.of_eq (s := s) rfl rfl).trans (given.kept.keepsTable.trans kept.keepsTable)
      | doneWrite v =>
        obtain ⟨u, given, kept⟩ := exec_givesSlots (Or.inr ⟨v, rfl⟩) h
        exact (KeepsTable.of_eq (s := s) rfl rfl).trans (given.kept.keepsTable.trans kept.keepsTable)
      | hostWrite a v =>
        obtain ⟨m, _, kept⟩ := exec_hostWrite h
        exact around kept rfl rfl
      | powerOnReset | pinReset => exact absurd hr (by simp [isReset])
      | placeOrder | clearOrder | scanOrder | loadPlan | moduleOrder | unknownKind =>
        exact absurd ho (by simp [takesOrder])
      | _ => exact (exec_keeps rfl h).keepsTable

/-- A step is the command at the front on the state with the queue's rest, or idles. -/
theorem step_cases {s t : State} (h : step s = .next t) :
    t = s ∨ ∃ c rest, s.pending = c :: rest ∧ exec c (s.withPending rest) = .next t := by
  unfold step at h
  split at h
  · cases h
    exact Or.inl rfl
  next c rest pending => exact Or.inr ⟨c, rest, pending, h⟩

theorem step_keepsTable {s t : State} (h : step s = .next t) : KeepsTable s t := by
  rcases step_cases h with rfl | ⟨c, rest, _, run⟩
  · exact KeepsTable.of_eq rfl rfl
  · have queued : KeepsTable s (s.withPending rest) := KeepsTable.of_eq rfl rfl
    exact queued.trans (exec_keepsTable run)

/-- Settles O7: every command keeps the table (`exec_keepsTable`), so every step does. -/
theorem carrierTableStaysRanked : Obligations.CarrierTableStaysRanked := by
  refine ⟨fun s t sound h => (step_keepsTable h).1 sound, fun s t ranges sound bounded h => ?_⟩
  obtain ⟨ranges', _, bounded'⟩ := (step_keepsTable h).2 ⟨ranges, sound, bounded⟩
  exact ⟨ranges', bounded'⟩

end Sys2Proof.Machine
end

section
/-! PROOFS. The host's side of every command: enables, causes, take number, slots, memory and generation words (O14). -/

namespace Sys2Proof.Machine

/-! ### Slots and memory -/

theorem nextOffered_offered {s : State} {k : Fin 8} (h : nextOffered s = some k) : s.ord.slots.get k = .offered := by
  have := List.find?_some h
  simpa using this

theorem takeSlot_slots (k j : Fin 8) (s : State) :
    (takeSlot k s).2.ord.slots.get j =
      if j = k then .taken (kindByte s k) (s.ord.takeNumber + 1) else s.ord.slots.get j := get_set_slot _ _ _ _

theorem takeSlot_mem {k : Fin 8} {a : Nat} (s : State) (h : ¬ inResult k a) :
    memRead (takeSlot k s).2.smp.mem a = memRead s.smp.mem a := by
  refine memRead_memWriteAll_ne ?_
  have length : (resultBytes 0 0 0).length = 8 := rfl
  unfold inResult at h
  omega

/-- A byte of the memory is as it was, or lies in the result fields of a slot that has changed. -/
def MemoryFramed (s t : State) : Prop :=
  ∀ a, memRead t.smp.mem a = memRead s.smp.mem a ∨ ∃ k, inResult k a ∧ t.ord.slots.get k ≠ s.ord.slots.get k

/-- From a state with the same bytes, what `Keeps` allows is framed where no slot has newly become TAKEN. -/
theorem Keeps.memoryFramed {s u t : State} (h : Keeps u t) (mem : ∀ a, memRead u.smp.mem a = memRead s.smp.mem a)
    (slots : ∀ k, isTaken (u.ord.slots.get k) = true → s.ord.slots.get k = u.ord.slots.get k) : MemoryFramed s t := by
  intro a
  rcases h.mem a with same | ⟨k, inside, taken, done⟩
  · exact Or.inl (same.trans (mem a))
  · refine Or.inr ⟨k, inside, fun e => ?_⟩
    rw [← slots k taken, ← e, done] at taken
    simp [isTaken] at taken

/-- Between states with the same slots no byte changes: only a slot that changes takes a result. -/
theorem Keeps.same_memory {s t : State} (h : Keeps s t) (slots : t.ord.slots = s.ord.slots) (a : Nat) :
    memRead t.smp.mem a = memRead s.smp.mem a := by
  rcases h.mem a with same | ⟨k, _, taken, done⟩
  · exact same
  · rw [← slots, done] at taken
    simp [isTaken] at taken

/-- A soft reset finds no slot TAKEN when its owners are told: it leaves every slot FREE. -/
theorem Keeps.slots_free {s u : State} (h : Keeps (ordSoftReset s) u) (k : Fin 8) : u.ord.slots.get k = .free := by
  have free : (ordSoftReset s).ord.slots.get k = .free := by fin_cases k <;> rfl
  rcases h.slots k with same | ⟨taken, _⟩
  · rw [same, free]
  · simp [free, isTaken] at taken

/-- The slot taken was OFFERED and is TAKEN or DONE after its command, so its result fields may change. -/
theorem takeSlot_memoryFramed {s t : State} {k : Fin 8} (offered : s.ord.slots.get k = .offered)
    (h : Keeps (takeSlot k s).2 t) : MemoryFramed s t := by
  have moved : t.ord.slots.get k ≠ s.ord.slots.get k := by
    rcases h.slots k with same | ⟨_, done⟩
    · simp [same, takeSlot_slots, offered]
    · simp [done, offered]
  intro a
  by_cases own : inResult k a
  · exact Or.inr ⟨k, own, moved⟩
  rcases h.mem a with same | ⟨j, inside, taken, done⟩
  · exact Or.inl (same.trans (takeSlot_mem s own))
  · have other : j ≠ k := fun e => own (e ▸ inside)
    rw [takeSlot_slots, if_neg other] at taken
    refine Or.inr ⟨j, inside, fun e => ?_⟩
    rw [← e, done] at taken
    simp [isTaken] at taken

/-- But for a host write and a reset, a command changes no byte outside the result fields of a changed slot. -/
theorem exec_memoryFramed {c : Instr} {s t : State} (h : exec c s = .next t) (hr : isReset c = false)
    (hw : ∀ a v, c ≠ .hostWrite a v) : MemoryFramed s t := by
  cases ho : takesOrder c with
  | true =>
    rcases exec_takesOrder ho h with kept | ⟨k, offered, kept⟩
    · exact kept.memoryFramed (fun _ => rfl) fun _ _ => rfl
    · exact takeSlot_memoryFramed (nextOffered_offered offered) kept
  | false =>
    have around {u : State} (kept : Keeps u t) (mem : u.smp.mem = s.smp.mem) (ord : u.ord = s.ord) :
        MemoryFramed s t := kept.memoryFramed (fun _ => by rw [mem]) fun _ _ => by rw [ord]
    have given (hg : (∃ v, c = .offerWrite v) ∨ ∃ v, c = .doneWrite v) : MemoryFramed s t := by
      obtain ⟨u, given, kept⟩ := exec_givesSlots hg h
      exact kept.memoryFramed (given.kept.same_memory rfl) given.slots
    cases c with
    | softReset =>
      obtain ⟨u, flt, bsu, first, second⟩ := exec_softReset h
      have free := first.slots_free
      refine second.memoryFramed (fun a => ?_) fun k taken => ?_
      · rcases first.mem a with same | ⟨k, _, _, done⟩
        · exact same
        · simp [free k] at done
      · change isTaken (u.ord.slots.get k) = true at taken
        simp [free k, isTaken] at taken
    | releaseFault => exact around ((Keeps.refl _).settled h) rfl rfl
    | clearTally => exact around ((Keeps.refl _).settled h) rfl rfl
    | causeWrite v => exact around ((Keeps.refl _).settled h) rfl rfl
    | causeenWrite v => exact around ((Keeps.refl _).settled h) rfl rfl
    | offerWrite v => exact given (Or.inl ⟨v, rfl⟩)
    | doneWrite v => exact given (Or.inr ⟨v, rfl⟩)
    | hostWrite a v => exact absurd rfl (hw a v)
    | powerOnReset | pinReset => exact absurd hr (by simp [isReset])
    | placeOrder | clearOrder | scanOrder | loadPlan | moduleOrder | unknownKind =>
      exact absurd ho (by simp [takesOrder])
    | _ => exact (exec_keeps rfl h).memoryFramed (fun _ => rfl) fun _ _ => rfl

/-! ### Generation words -/

/-- The four generation words keep their lowest bits. -/
def GenerationsKept (s t : State) : Prop :=
  t.smp.clockGen.getLsbD 0 = s.smp.clockGen.getLsbD 0 ∧ t.smp.statusGen.getLsbD 0 = s.smp.statusGen.getLsbD 0 ∧
    t.ctu.mirrorGen.getLsbD 0 = s.ctu.mirrorGen.getLsbD 0 ∧ t.cal.fileGen.getLsbD 0 = s.cal.fileGen.getLsbD 0

theorem Keeps.generations {s t : State} (h : Keeps s t) : GenerationsKept s t :=
  ⟨h.clockGen, h.statusGen, h.mirrorGen, h.fileGen⟩

theorem GenerationsKept.even {s t : State} (h : GenerationsKept s t) (even : generationsEven s = true) :
    generationsEven t = true := by
  obtain ⟨clock, status, mirror, file⟩ := h
  unfold generationsEven at even ⊢
  rwa [clock, status, mirror, file]

theorem exec_generationsEven {c : Instr} {s t : State} (h : exec c s = .next t) (even : generationsEven s = true) :
    generationsEven t = true := by
  have around {u : State} (kept : Keeps u t) (even : generationsEven u = true) : generationsEven t = true :=
    kept.generations.even even
  cases hr : isReset c with
  | true =>
    obtain ⟨straps, pins, mem, _, kept⟩ := exec_reset hr h
    exact around kept (by simp [generationsEven, blocksAtReset, resetSmp, resetCtu, resetCal])
  | false =>
    cases ho : takesOrder c with
    | true =>
      rcases exec_takesOrder ho h with kept | ⟨k, _, kept⟩
      · exact around kept even
      · exact around kept even
    | false =>
      have given (hg : (∃ v, c = .offerWrite v) ∨ ∃ v, c = .doneWrite v) : generationsEven t = true := by
        obtain ⟨u, given, kept⟩ := exec_givesSlots hg h
        exact around kept (given.kept.generations.even even)
      cases c with
      | softReset =>
        obtain ⟨u, flt, bsu, first, second⟩ := exec_softReset h
        have told : generationsEven u = true := first.generations.even even
        exact around second told
      | releaseFault => exact around ((Keeps.refl _).settled h) even
      | clearTally => exact around ((Keeps.refl _).settled h) even
      | causeWrite v => exact around ((Keeps.refl _).settled h) even
      | causeenWrite v => exact around ((Keeps.refl _).settled h) even
      | offerWrite v => exact given (Or.inl ⟨v, rfl⟩)
      | doneWrite v => exact given (Or.inr ⟨v, rfl⟩)
      | hostWrite a v =>
        obtain ⟨m, _, kept⟩ := exec_hostWrite h
        exact around kept even
      | powerOnReset | pinReset => exact absurd hr (by simp [isReset])
      | placeOrder | clearOrder | scanOrder | loadPlan | moduleOrder | unknownKind =>
        exact absurd ho (by simp [takesOrder])
      | _ => exact around (exec_keeps rfl h) even

/-! ### Enables, causes, the take number and the slots -/

/-- What a command other than a reset may do to the enables, the pending causes, the take number and the slots. -/
structure HostSideStep (c : Instr) (s t : State) : Prop where
  enables : t.smp.enables = s.smp.enables ∨ ∃ v, c = .causeenWrite v
  causes : ∀ i, s.smp.causes.getLsbD i = true → t.smp.causes.getLsbD i = true ∨ ∃ v : Word, c = .causeWrite v ∧
    v.getLsbD i = true
  take : t.ord.takeNumber = s.ord.takeNumber ∨ (takesOrder c = true ∧ t.ord.takeNumber = s.ord.takeNumber + 1)
  slots : ∀ k, t.ord.slots.get k = s.ord.slots.get k ∨
    ((∃ kind take, s.ord.slots.get k = .taken kind take) ∧ t.ord.slots.get k = .done) ∨
    takesOrder c = true ∨ (∃ v, c = .offerWrite v) ∨ ∃ v, c = .doneWrite v

theorem isTaken_iff (x : SlotState) : isTaken x = true ↔ ∃ kind take, x = .taken kind take := by
  cases x <;> simp [isTaken]

/-- Where the command itself leaves the host's side alone, `Keeps` gives the whole step. -/
theorem Keeps.hostSide {c : Instr} {s u t : State} (h : Keeps u t) (ord : u.ord = s.ord)
    (enables : u.smp.enables = s.smp.enables) (causes : u.smp.causes = s.smp.causes) : HostSideStep c s t where
  enables := Or.inl (h.enables.trans enables)
  causes i set := Or.inl (h.causes i (causes ▸ set))
  take := Or.inl (h.takeNumber.trans (by rw [ord]))
  slots k := by
    rcases h.slots k with same | ⟨taken, done⟩
    · exact Or.inl (same.trans (by rw [ord]))
    · rw [ord] at taken
      exact Or.inr (Or.inl ⟨(isTaken_iff _).mp taken, done⟩)

theorem exec_takesOrder_hostSide {c : Instr} {s t : State} (hc : takesOrder c = true) (h : exec c s = .next t) :
    HostSideStep c s t := by
  rcases exec_takesOrder hc h with kept | ⟨k, _, kept⟩
  · exact kept.hostSide rfl rfl rfl
  · exact
      { enables := Or.inl kept.enables
        causes := fun i set => Or.inl (kept.causes i set)
        take := Or.inr ⟨hc, kept.takeNumber⟩
        slots := fun _ => Or.inr (Or.inr (Or.inl hc)) }

theorem exec_givesSlots_hostSide {c : Instr} {s t : State}
    (hc : (∃ v, c = .offerWrite v) ∨ ∃ v, c = .doneWrite v) (h : exec c s = .next t) : HostSideStep c s t := by
  obtain ⟨u, given, kept⟩ := exec_givesSlots hc h
  exact
    { enables := Or.inl (kept.enables.trans given.kept.enables)
      causes := fun i set => Or.inl (kept.causes i (given.kept.causes i set))
      take := Or.inl (kept.takeNumber.trans given.take)
      slots := fun _ => Or.inr (Or.inr (Or.inr hc)) }

/-- CAUSE clears the causes whose bits it names, and no other (R192). -/
theorem causeWrite_hostSide {v : Word} {s t : State} (h : exec (.causeWrite v) s = .next t) :
    HostSideStep (.causeWrite v) s t := by
  have kept : Keeps (s.withSmp { s.smp with causes := s.smp.causes &&& ~~~(namedCauses v) }) t :=
    (Keeps.refl _).settled h
  refine { kept.hostSide (s := s.withSmp { s.smp with causes := s.smp.causes &&& ~~~(namedCauses v) }) rfl rfl rfl with
    causes := fun i set => ?_ }
  cases named : v.getLsbD i with
  | true => exact Or.inr ⟨v, rfl, named⟩
  | false =>
    refine Or.inl (kept.causes i ?_)
    have low : i < 13 := by
      by_contra high
      rw [BitVec.getLsbD_of_ge _ _ (by omega)] at set
      cases set
    simp [namedCauses, set, named, low]

theorem causeenWrite_hostSide {v : Word} {s t : State} (h : exec (.causeenWrite v) s = .next t) :
    HostSideStep (.causeenWrite v) s t := by
  have kept : Keeps (s.withSmp { s.smp with enables := namedCauses v }) t := (Keeps.refl _).settled h
  exact { kept.hostSide (s := s.withSmp { s.smp with enables := namedCauses v }) rfl rfl rfl with
    enables := Or.inr ⟨v, rfl⟩ }

theorem exec_hostSide {c : Instr} {s t : State} (h : exec c s = .next t) (hr : isReset c = false)
    (hs : c ≠ .softReset) : HostSideStep c s t := by
  cases ho : takesOrder c with
  | true => exact exec_takesOrder_hostSide ho h
  | false =>
    cases c with
    | softReset => exact absurd rfl hs
    | releaseFault =>
      exact Keeps.hostSide (u := s.withFlt { s.flt with log := s.flt.log.drop 1 }) ((Keeps.refl _).settled h) rfl rfl rfl
    | clearTally =>
      exact Keeps.hostSide (u := s.withFlt { s.flt with tally := 0 }) ((Keeps.refl _).settled h) rfl rfl rfl
    | causeWrite v => exact causeWrite_hostSide h
    | causeenWrite v => exact causeenWrite_hostSide h
    | offerWrite v => exact exec_givesSlots_hostSide (Or.inl ⟨v, rfl⟩) h
    | doneWrite v => exact exec_givesSlots_hostSide (Or.inr ⟨v, rfl⟩) h
    | hostWrite a v =>
      obtain ⟨m, _, kept⟩ := exec_hostWrite h
      exact kept.hostSide rfl rfl rfl
    | powerOnReset | pinReset => exact absurd hr (by simp [isReset])
    | placeOrder | clearOrder | scanOrder | loadPlan | moduleOrder | unknownKind =>
      exact absurd ho (by simp [takesOrder])
    | _ => exact (exec_keeps rfl h).hostSide rfl rfl rfl

/-- Settles O14: the enables, causes, take number and slots by `exec_hostSide`, the memory by `exec_memoryFramed`, the
generation words by `exec_generationsEven`. -/
theorem hostSideAndMemoryChangeAtTheirCommands : Obligations.HostSideAndMemoryChangeAtTheirCommands := by
  refine ⟨fun c s t h hr hs => ?_, fun c s t h hr hw => exec_memoryFramed h hr hw, fun c s t h => exec_generationsEven h⟩
  obtain ⟨enables, causes, take, slots⟩ := exec_hostSide h hr hs
  exact ⟨enables, causes, take, slots⟩

end Sys2Proof.Machine
end

section
/-! PROOFS. A reset that finds no stored plan to install (O18). -/

namespace Sys2Proof.Machine

/-- Only a COMPLETE marker over a matching image reads as VALID (the table of R179). -/
theorem readStoreState_valid {x : PlanStore} {plan : Plan} {matching : Bool} (h : readStoreState x = .valid)
    (area : x.area = .image plan matching) : x = ⟨.complete, .image plan true⟩ := by
  obtain ⟨marker, area'⟩ := x
  cases area
  cases marker <;> cases matching <;> simp [readStoreState] at h ⊢

/-- Start-up leaves the part in HOLDING where no stored plan passes (R179, R180). -/
theorem startUp_of_no_plan {s : State} (state : s.pln.storeState = readStoreState s.pln.store)
    (h : ∀ plan, s.pln.store = ⟨.complete, .image plan true⟩ → rolesTest s.straps plan = false) : startUp s = s := by
  unfold startUp
  split
  next plan matching valid area =>
    rw [h plan (readStoreState_valid (state ▸ valid) area)]
    simp
  · rfl

theorem memRead_keptMemory (m : List Host.Cell) (a : Nat) :
    memRead (keptMemory m) a = if planBase ≤ a then memRead m a else 0 := by
  induction m with
  | nil => simp [keptMemory, memRead]
  | cons cell rest ih =>
    obtain ⟨x, b⟩ := cell
    have ih : memRead (rest.filter fun c => decide (planBase ≤ c.1)) a = if planBase ≤ a then memRead rest a else 0 := ih
    by_cases kept : planBase ≤ x
    · by_cases here : x = a
      · subst here
        simp [keptMemory, memRead, kept]
      · simp [keptMemory, memRead, kept, here, ih]
    · have other : planBase ≤ a → x ≠ a := fun low e => kept (e ▸ low)
      by_cases low : planBase ≤ a
      · simp [keptMemory, memRead, kept, other low, ih]
      · simp [keptMemory, kept, low, ih]

/-- What a reset without an installable plan answers: every block as after a reset. -/
theorem resetPart_of_no_plan {straps : Straps} {pins : Pins} {mem : List Host.Cell} {s : State}
    (h : ∀ plan, storeAtReset s.pln = ⟨.complete, .image plan true⟩ → rolesTest straps plan = false) :
    settled (resetPart straps pins mem s) = .next (blocksAtReset straps pins mem s) := by
  have held : startUp (blocksAtReset straps pins mem s) = blocksAtReset straps pins mem s := startUp_of_no_plan rfl h
  have whole : resetPart straps pins mem s = blocksAtReset straps pins mem s := by
    unfold resetPart
    rw [held]
    rfl
  rw [whole]
  exact settled_of_inbox rfl

theorem blocksAtReset_module (straps : Straps) (pins : Pins) (mem : List Host.Cell) (s : State) (p : Pos) :
    (blocksAtReset straps pins mem s).module p = resetModule (isWired straps p) (s.module p).atn := by
  fin_cases p <;> rfl

theorem blocksAtReset_out (straps : Straps) (pins : Pins) (mem : List Host.Cell) (s : State) (o : Output) :
    (blocksAtReset straps pins mem s).bsu.outs.get o = steadyOutput (o == .lampFault) := by
  cases o <;> rfl

/-- Settles O18: such a reset answers `blocksAtReset`, over no memory or the kept one. -/
theorem resetWithoutPlanHolds : Obligations.ResetWithoutPlanHolds := by
  intro c straps pins s command noPlan
  obtain ⟨mem, run, reads⟩ : ∃ mem, exec c s = settled (resetPart straps pins mem s) ∧
      ∀ a, memRead mem a = if c = .pinReset straps pins ∧ 0x680 ≤ a then memRead s.smp.mem a else 0 := by
    rcases command with rfl | rfl
    · exact ⟨[], rfl, fun a => by simp [memRead]⟩
    · refine ⟨keptMemory s.smp.mem, rfl, fun a => ?_⟩
      by_cases low : 0x680 ≤ a <;> simp [memRead_keptMemory, planBase, low]
  refine ⟨blocksAtReset straps pins mem s, run.trans (resetPart_of_no_plan noPlan), rfl, rfl, rfl, rfl, rfl, rfl, rfl, rfl,
    rfl, rfl, rfl, rfl, rfl, rfl, rfl, fun p => blocksAtReset_module .., rfl, rfl, rfl, rfl, rfl, rfl, rfl, rfl,
    rfl, rfl, rfl, rfl, rfl, rfl, rfl, rfl, rfl, fun o => ?_, reads⟩
  rw [blocksAtReset_out]
  cases o <;> simp [steadyOutput]

end Sys2Proof.Machine
end

section
/-! PROOFS. What the host reads: the registers, and the part-owned regions as views of their owners (O21). -/

namespace Sys2Proof.Machine

/-! ### Bits and bytes -/

theorem testBit_bits (bs : List Bool) (i : Nat) :
    (bs.foldr (fun b n => bit b + 2 * n) 0).testBit i = bs.getD i false := by
  induction bs generalizing i with
  | nil => simp
  | cons b bs ih =>
    cases i with
    | zero => cases b <;> simp [bit, Nat.testBit_zero]
    | succ i =>
      have half : (bit b + 2 * bs.foldr (fun b n => bit b + 2 * n) 0) / 2 = bs.foldr (fun b n => bit b + 2 * n) 0 := by
        cases b <;> simp only [bit, Bool.false_eq_true, if_true, if_false] <;> omega
      rw [List.foldr_cons, Nat.testBit_succ, half, ih, List.getD_cons_succ]

theorem wordOfBits_getLsbD (bs : List Bool) {i : Nat} (h : i < 16) : (wordOfBits bs).getLsbD i = bs.getD i false := by
  rw [wordOfBits, BitVec.getLsbD_ofNat, testBit_bits]
  simp [h]

theorem byteOfFlags_getLsbD (bs : List Bool) {i : Nat} (h : i < 8) : (byteOfFlags bs).getLsbD i = bs.getD i false := by
  have bits : byteOfFlags bs = BitVec.ofNat 8 (bs.foldr (fun b n => bit b + 2 * n) 0) := rfl
  rw [bits, BitVec.getLsbD_ofNat, testBit_bits]
  simp [h]

theorem byteOfFlags_bits (bs : List Bool) :
    (List.range 8).map (byteOfFlags bs).getLsbD = (List.range 8).map fun i => bs.getD i false :=
  List.map_congr_left fun _ h => byteOfFlags_getLsbD bs (List.mem_range.mp h)

theorem word_of_bytes16 (x : BitVec 16) : x.extractLsb' 8 8 ++ x.extractLsb' 0 8 = x := by
  rw [BitVec.extractLsb'_append_extractLsb'_eq_extractLsb' (by omega)]
  exact BitVec.extractLsb'_eq_self

theorem word_of_bytes24 (x : BitVec 24) :
    x.extractLsb' 16 8 ++ (x.extractLsb' 8 8 ++ x.extractLsb' 0 8) = x := by
  rw [BitVec.extractLsb'_append_extractLsb'_eq_extractLsb' (by omega),
    BitVec.extractLsb'_append_extractLsb'_eq_extractLsb' (by omega)]
  exact BitVec.extractLsb'_eq_self

theorem word_of_bytes32 (x : BitVec 32) :
    (x.extractLsb' 24 8 ++ x.extractLsb' 16 8) ++ (x.extractLsb' 8 8 ++ x.extractLsb' 0 8) = x := by
  rw [BitVec.extractLsb'_append_extractLsb'_eq_extractLsb' (by omega),
    BitVec.extractLsb'_append_extractLsb'_eq_extractLsb' (by omega),
    BitVec.extractLsb'_append_extractLsb'_eq_extractLsb' (by omega)]
  exact BitVec.extractLsb'_eq_self

theorem zeros_getD (n i : Nat) : (zeros n).getD i 0 = 0 := by
  by_cases h : i < n
  · exact List.getD_replicate _ h
  · exact List.getD_eq_default _ _ (by simpa [zeros] using h)

/-- A record that ends in zero bytes reads 0 from there on. -/
theorem getD_append_zeros {front : List Byte} {n i : Nat} (h : front.length ≤ i) : (front ++ zeros n).getD i 0 = 0 := by
  rw [List.getD_append_right _ _ _ _ h, zeros_getD]

theorem byteOf_pos (p : Pos) : (byteOf p.val).toNat = p.val := by
  fin_cases p <;> rfl

/-! ### The registers (R187) -/

theorem readCtrl_fields (s : State) :
    (readCtrl s).getLsbD 0 = s.wch.doze ∧ (readCtrl s).getLsbD 1 = s.wch.dozePending ∧
      ((readCtrl s).extractLsb' 2 2).toNat = sourceCode s.pln.source ∧
      ((readCtrl s).extractLsb' 4 2).toNat = storeCode s.pln.storeState := by
  unfold readCtrl
  generalize s.wch.doze = doze, s.wch.dozePending = waiting, s.pln.source = source, s.pln.storeState = store
  cases doze <;> cases waiting <;> cases source <;> cases store <;> decide

theorem readCause_getLsbD (s : State) {i : Nat} (h : i < 13) : (readCause s).getLsbD i = s.smp.causes.getLsbD i := by
  have level : (causeLevel s * 0x4000).testBit i = false := by
    rw [show 0x4000 = 2 ^ 14 from rfl, Nat.testBit_mul_two_pow]
    simp
    omega
  rw [readCause, BitVec.getLsbD_or, BitVec.getLsbD_ofNat, level]
  simp [show i < 16 by omega]

theorem slotBits_getLsbD (q : Fin 8 → Bool) (k : Fin 8) : (wordOfBits (slotNumbers.map q)).getLsbD k.val = q k := by
  rw [wordOfBits_getLsbD _ (by omega)]
  fin_cases k <;> rfl

theorem readRegister_unused (s : State) {addr : BitVec 11} (h : 6 ≤ addr.toNat) : readRegister s addr = 0 := by
  unfold readRegister
  split <;> first | omega | rfl

/-! ### The regions of the memory (R182) -/

theorem readByte_header (s : State) {a : Nat} (h : a < 0x40) : readByte s a = (headerBytes s).getD a 0 := by
  simp [readByte, regionOf, h]

theorem readByte_callFile (s : State) {i : Nat} (h : i < 0xC0) :
    readByte s (0x40 + i) = (callFileBytes s.cal).getD i 0 := by
  simp [readByte, regionOf, show 0x40 + i < 0x100 by omega]

theorem logRow_length (f : Flt) (x : Option FaultEntry) : (logRow f x).length = 32 := by
  rcases x with _ | ⟨time, kind, pos, detail, _ | address⟩ <;> rfl

/-- The rows of the fault log stand one after another, 32 bytes each. -/
theorem faultLogBytes_getD (f : Flt) {i j : Nat} (hi : i < 4) (hj : j < 32) :
    (faultLogBytes f).getD (32 * i + j) 0 = (logRow f f.log[i]?).getD j 0 := by
  have front (xs ys : List Byte) (h : 32 * i + j < xs.length) :
      (xs ++ ys).getD (32 * i + j) 0 = xs.getD (32 * i + j) 0 := List.getD_append _ _ _ _ h
  have back (xs ys : List Byte) (h : xs.length = 32 * i) : (xs ++ ys).getD (32 * i + j) 0 = ys.getD j 0 := by
    rw [List.getD_append_right _ _ _ _ (by omega), h]
    simp
  unfold faultLogBytes
  obtain rfl | rfl | rfl | rfl : i = 0 ∨ i = 1 ∨ i = 2 ∨ i = 3 := by omega
  · rw [front _ _ (by simp [logRow_length]; omega), front _ _ (by simp [logRow_length]; omega),
      front _ _ (by simp [logRow_length]; omega), Nat.mul_zero, Nat.zero_add]
  · rw [front _ _ (by simp [logRow_length]; omega), front _ _ (by simp [logRow_length]; omega),
      back _ _ (by simp [logRow_length])]
  · rw [front _ _ (by simp [logRow_length]; omega), back _ _ (by simp [logRow_length])]
  · rw [back _ _ (by simp [logRow_length])]

theorem readByte_faultLog (s : State) {i j : Nat} (hi : i < 4) (hj : j < 32) :
    readByte s (0x100 + 32 * i + j) = (logRow s.flt s.flt.log[i]?).getD j 0 := by
  have region : regionOf (0x100 + 32 * i + j) = 3 := by
    simp only [regionOf]
    rw [if_neg (by omega), if_neg (by omega), if_pos (by omega)]
  have offset : 0x100 + 32 * i + j - 0x100 = 32 * i + j := by omega
  simp only [readByte, region, offset]
  exact faultLogBytes_getD s.flt hi hj

theorem readByte_mirror (s : State) {i j : Nat} (hi : i < 24) (hj : j < 32) :
    readByte s (0x380 + 32 * i + j) = (mirrorRow s.ctu.mirrorGen s.ctu.table[i]?).getD j 0 := by
  have region : regionOf (0x380 + 32 * i + j) = 5 := by
    simp only [regionOf]
    rw [if_neg (by omega), if_neg (by omega), if_neg (by omega), if_neg (by omega), if_pos (by omega)]
  have row : (0x380 + 32 * i + j - 0x380) / 32 = i := by omega
  have column : (0x380 + 32 * i + j - 0x380) % 32 = j := by omega
  simp only [readByte, region, mirrorByte, row, column]

theorem readByte_slotState (s : State) (k : Fin 8) :
    readByte s (slotBase k + 1) = byteOf (slotStateCode (s.ord.slots.get k)) := by
  fin_cases k <;> rfl

/-- Outside the part-owned regions and the state bytes a read returns the stored byte (R182, R190). -/
theorem readByte_stored (s : State) {a : Nat} (h : (0x180 ≤ a ∧ a < 0x380) ∨ 0x680 ≤ a)
    (state : ∀ k, a ≠ slotBase k + 1) : readByte s a = memRead s.smp.mem a := by
  have region : regionOf a = 4 ∨ regionOf a = 6 ∨ regionOf a = 7 := by
    simp only [regionOf]
    split_ifs <;> omega
  rcases region with r | r | r <;> simp only [readByte, r]
  rw [if_neg (state _)]

/-! ### The records as lists of bytes -/

/-- The first 29 bytes of the identity header, one by one. -/
def headerFront (s : State) : List Byte :=
  let m := fun p : Pos => s.module p
  [0x03, 0x5C, 1, 0, 1, strapByte s.straps, byteOf (wiredCount s.straps), 0,
    s.smp.clockGen.extractLsb' 0 8, s.smp.clockGen.extractLsb' 8 8,
    s.clock.extractLsb' 0 8, s.clock.extractLsb' 8 8, s.clock.extractLsb' 16 8, s.clock.extractLsb' 24 8, 0, 0,
    s.smp.statusGen.extractLsb' 0 8, s.smp.statusGen.extractLsb' 8 8,
    byteOf (sourceCode s.pln.source), byteOf (storeCode s.pln.storeState),
    byteOf (stateCode (m 0).state), byteOf (roleCode (m 0).role), bandsByte (m 0).bands,
    byteOf (stateCode (m 1).state), byteOf (roleCode (m 1).role), bandsByte (m 1).bands,
    byteOf (stateCode (m 2).state), byteOf (roleCode (m 2).role), bandsByte (m 2).bands]

theorem headerBytes_eq (s : State) : headerBytes s = headerFront s ++ zeros 35 := by
  simp only [headerBytes, headerFront, bytes16, bytes32, moduleMap, zeros, List.replicate, List.cons_append,
    List.nil_append]
  rfl

/-- The first 36 bytes of the call file, one by one. -/
def callFileFront (c : Cal) : List Byte :=
  let x := c.ctx
  let start := x.start.getD 0
  let connect := x.connect.getD 0
  let tag := servingTag x.serving
  let channel := servingChannel x.serving
  let attempts := BitVec.ofNat 16 x.attempts
  let backoff := BitVec.ofNat 16 x.backoff
  let callback := BitVec.ofNat 16 x.callback
  [c.fileGen.extractLsb' 0 8, c.fileGen.extractLsb' 8 8, byteOf (callCode x.state), byteOf (kindCode x.kind),
    x.sequence.extractLsb' 0 8, x.sequence.extractLsb' 8 8, byteOf (messageCode x.message), callFlagsByte x,
    start.extractLsb' 0 8, start.extractLsb' 8 8, start.extractLsb' 16 8, start.extractLsb' 24 8,
    connect.extractLsb' 0 8, connect.extractLsb' 8 8, connect.extractLsb' 16 8, connect.extractLsb' 24 8,
    optionalPos (servingPos x.serving), byteOf (servingOrigin x.serving),
    tag.extractLsb' 0 8, tag.extractLsb' 8 8, tag.extractLsb' 16 8, byteOf (lastEndCode x.lastEnd),
    channel.extractLsb' 0 8, channel.extractLsb' 8 8, byteOf x.reestablishes, byteOf x.rounds,
    attempts.extractLsb' 0 8, attempts.extractLsb' 8 8, backoff.extractLsb' 0 8, backoff.extractLsb' 8 8,
    callback.extractLsb' 0 8, callback.extractLsb' 8 8, byteOf x.presses, byteOf (huntLinkCode x.huntLink),
    optionalPos x.answer, byteOfFlags [x.releases.p0, x.releases.p1, x.releases.p2]]

theorem callFileBytes_eq (c : Cal) : callFileBytes c =
    callFileFront c ++ summaryBytes c.ctx.summaries.p0 ++ summaryBytes c.ctx.summaries.p1
      ++ summaryBytes c.ctx.summaries.p2 ++ zeros 132 := by
  simp only [callFileBytes, callFileFront, bytes16, bytes24, bytes32, optional32, num16, List.append_assoc, List.cons_append,
    List.nil_append]

/-- The bytes of an entry's row of the mirror, up to the closing zeros. -/
def entryFront (gen : Word) (e : Entry) : List Byte :=
  let level := BitVec.ofInt 16 e.level
  let bench := BitVec.ofNat 16 (e.bench.getD 0)
  let age := BitVec.ofNat 16 e.age
  let score := BitVec.ofNat 16 e.score
  let seq := BitVec.ofNat 32 e.seq
  [gen.extractLsb' 0 8, gen.extractLsb' 8 8, 1, byteOf e.key.pos.val,
    e.key.tag.extractLsb' 0 8, e.key.tag.extractLsb' 8 8, e.key.tag.extractLsb' 16 8, byteOf (bandCode e.band),
    e.key.channel.extractLsb' 0 8, e.key.channel.extractLsb' 8 8, level.extractLsb' 0 8, level.extractLsb' 8 8,
    byteOf (e.quality.getD 255), byteOfFlags [e.networkBarred, e.planBarred, e.bench.isSome, e.inAttempt, e.serving],
    byteOf e.failures, byteOf (lastOutcomeCode e.last), bench.extractLsb' 0 8, bench.extractLsb' 8 8,
    age.extractLsb' 0 8, age.extractLsb' 8 8, score.extractLsb' 0 8, score.extractLsb' 8 8,
    seq.extractLsb' 0 8, seq.extractLsb' 8 8, seq.extractLsb' 16 8, seq.extractLsb' 24 8]

theorem mirrorRow_some (gen : Word) (e : Entry) : mirrorRow gen (some e) = entryFront gen e ++ zeros 6 := by
  simp only [mirrorRow, entryFront, bytes16, bytes24, bytes32, num16, List.cons_append, List.nil_append]

/-- The first ten bytes of a fault's row of the log. -/
def faultFront (e : FaultEntry) : List Byte :=
  let detail := BitVec.ofNat 16 e.detail
  let address := e.address.elim 0xFFFF (·.setWidth 16)
  [e.time.extractLsb' 0 8, e.time.extractLsb' 8 8, e.time.extractLsb' 16 8, e.time.extractLsb' 24 8,
    byteOf (faultCode e.kind), optionalPos e.pos, detail.extractLsb' 0 8, detail.extractLsb' 8 8,
    address.extractLsb' 0 8, address.extractLsb' 8 8]

theorem logRow_some (f : Flt) (e : FaultEntry) : logRow f (some e) =
    faultFront e ++ (zeros 18 ++ [byteOf f.tally, byteOf f.log.length, 0, 0]) := by
  obtain ⟨time, kind, pos, detail, _ | address⟩ := e <;>
    simp only [logRow, faultFront, bytes16, bytes32, num16, List.cons_append, List.nil_append, Option.elim]
  all_goals rfl

theorem readByte_headerFront (s : State) {a : Nat} (h : a < 29) : readByte s a = (headerFront s).getD a 0 := by
  rw [readByte_header s (by omega), headerBytes_eq]
  exact List.getD_append _ _ _ _ h

theorem readByte_callFileFront (s : State) {i : Nat} (h : i < 36) :
    readByte s (0x40 + i) = (callFileFront s.cal).getD i 0 := by
  rw [readByte_callFile s (by omega), callFileBytes_eq]
  simp only [List.append_assoc]
  exact List.getD_append _ _ _ _ h

theorem readByte_faultFront (s : State) {i j : Nat} {e : FaultEntry} (hi : i < 4) (present : s.flt.log[i]? = some e)
    (hj : j < 10) : readByte s (0x100 + 32 * i + j) = (faultFront e).getD j 0 := by
  rw [readByte_faultLog s hi (by omega), present, logRow_some]
  exact List.getD_append _ _ _ _ hj

theorem readByte_entryFront (s : State) {i j : Nat} {e : Entry} (hi : i < 24) (present : s.ctu.table[i]? = some e)
    (hj : j < 26) : readByte s (0x380 + 32 * i + j) = (entryFront s.ctu.mirrorGen e).getD j 0 := by
  rw [readByte_mirror s hi (by omega), present, mirrorRow_some]
  exact List.getD_append _ _ _ _ hj

/-! ### The fields of the records -/

/-- Two bytes and four bytes from an address up, the lower first (R182). -/
def readTwo (s : State) (a : Nat) : BitVec 16 := readByte s (a + 1) ++ readByte s a
def readThree (s : State) (a : Nat) : BitVec 24 := readByte s (a + 2) ++ readTwo s a
def readFour (s : State) (a : Nat) : BitVec 32 := readTwo s (a + 2) ++ readTwo s a

theorem readTwo_of_bytes {s : State} {a : Nat} {x : BitVec 16} (lo : readByte s a = x.extractLsb' 0 8)
    (hi : readByte s (a + 1) = x.extractLsb' 8 8) : readTwo s a = x := by
  rw [readTwo, lo, hi, word_of_bytes16]

theorem readThree_of_bytes {s : State} {a : Nat} {x : BitVec 24} (lo : readByte s a = x.extractLsb' 0 8)
    (mid : readByte s (a + 1) = x.extractLsb' 8 8) (hi : readByte s (a + 2) = x.extractLsb' 16 8) :
    readThree s a = x := by
  rw [readThree, readTwo, lo, mid, hi, word_of_bytes24]

theorem readFour_of_bytes {s : State} {a : Nat} {x : BitVec 32} (b0 : readByte s a = x.extractLsb' 0 8)
    (b1 : readByte s (a + 1) = x.extractLsb' 8 8) (b2 : readByte s (a + 2) = x.extractLsb' 16 8)
    (b3 : readByte s (a + 3) = x.extractLsb' 24 8) : readFour s a = x := by
  rw [readFour, readTwo, readTwo, b0, b1, b2, b3, word_of_bytes32]

theorem strapByte_fields (x : Straps) :
    (strapByte x).getLsbD 0 = x.hook ∧ (strapByte x).getLsbD 1 = x.fastLink ∧
      (strapByte x).extractLsb' 2 6 = x.wiredCode.setWidth 6 := by
  obtain ⟨hook, fast, code⟩ := x
  revert hook fast code
  decide

theorem wiredCount_byte (x : Straps) :
    (byteOf (wiredCount x)).toNat = if x.wiredCode = 0 then 1 else x.wiredCode.toNat := by
  have small : wiredCount x < 256 := by
    unfold wiredCount
    split <;> omega
  simp only [byteOf, BitVec.toNat_ofNat]
  exact Nat.mod_eq_of_lt small

theorem bandsByte_eq (x : Bands) :
    bandsByte x = (if x.low then 1 else 0) + (if x.mid then 2 else 0) + (if x.high then 4 else 0) := by
  obtain ⟨low, mid, high⟩ := x
  revert low mid high
  decide

theorem readByte_moduleMap (s : State) (p : Pos) {j : Nat} (h : j < 3) :
    readByte s (0x14 + 3 * p.val + j) = (moduleMap s p).getD j 0 := by
  obtain rfl | rfl | rfl : j = 0 ∨ j = 1 ∨ j = 2 := by omega
  all_goals fin_cases p <;> rfl

theorem readByte_header_end (s : State) {a : Nat} (lo : 0x1D ≤ a) (hi : a < 0x40) : readByte s a = 0 := by
  rw [readByte_header s hi, headerBytes_eq]
  exact getD_append_zeros lo

theorem pos_cases (p : Pos) : p = 0 ∨ p = 1 ∨ p = 2 := by
  fin_cases p <;> simp

theorem summaryBytes_length (x : Option Summary) : (summaryBytes x).length = 8 := by
  cases x <;> rfl

theorem readByte_summary (s : State) (p : Pos) {j : Nat} (h : j < 8) :
    readByte s (0x64 + 8 * p.val + j) = (summaryBytes (s.cal.ctx.summaries.get p)).getD j 0 := by
  have place : 0x64 + 8 * p.val + j = 0x40 + (36 + 8 * p.val + j) := by omega
  have length : (callFileFront s.cal).length = 36 := rfl
  have inside : 36 + 8 * p.val + j < 60 := by omega
  rw [place, readByte_callFile s (i := 36 + 8 * p.val + j) (by omega), callFileBytes_eq, List.getD_append _ _ _ _ (by
    simpa only [List.length_append, summaryBytes_length, length] using inside)]
  obtain rfl | rfl | rfl := pos_cases p
  · have offset : 36 + 8 * (0 : Pos).val + j - (callFileFront s.cal).length = j := by rw [length]; simp
    rw [List.getD_append _ _ _ _ (by simp [summaryBytes_length, length]; omega),
      List.getD_append _ _ _ _ (by simp [summaryBytes_length, length]; omega),
      List.getD_append_right _ _ _ _ (by simp [length]), offset]
    rfl
  · have offset : 36 + 8 * (1 : Pos).val + j - (callFileFront s.cal ++ summaryBytes s.cal.ctx.summaries.p0).length = j := by
      rw [List.length_append, summaryBytes_length, length]
      simp
    rw [List.getD_append _ _ _ _ (by simp [summaryBytes_length, length]; omega),
      List.getD_append_right _ _ _ _ (by simp [summaryBytes_length, length]), offset]
    rfl
  · have offset : 36 + 8 * (2 : Pos).val + j - (callFileFront s.cal ++ summaryBytes s.cal.ctx.summaries.p0
        ++ summaryBytes s.cal.ctx.summaries.p1).length = j := by
      rw [List.length_append, List.length_append, summaryBytes_length, summaryBytes_length, length]
      simp
    rw [List.getD_append_right _ _ _ _ (by simp [summaryBytes_length, length]), offset]
    rfl

theorem readByte_callFile_end (s : State) {a : Nat} (lo : 0x7C ≤ a) (hi : a < 0x100) : readByte s a = 0 := by
  obtain ⟨i, rfl⟩ := Nat.exists_eq_add_of_le (show 0x40 ≤ a by omega)
  have length : (callFileFront s.cal).length = 36 := rfl
  rw [readByte_callFile s (by omega), callFileBytes_eq]
  refine getD_append_zeros ?_
  simp only [List.length_append, summaryBytes_length, length]
  omega

/-- The serving fields of the call file are the serving carrier or the incoming call's module (R91). -/
theorem servingFields_of_bytes (s : State) (pos : readByte s 0x50 = optionalPos (servingPos s.cal.ctx.serving))
    (origin : readByte s 0x51 = byteOf (servingOrigin s.cal.ctx.serving))
    (tag : readThree s 0x52 = servingTag s.cal.ctx.serving) (channel : readTwo s 0x56 = servingChannel s.cal.ctx.serving) :
    (readByte s 0x50, readByte s 0x51, readThree s 0x52, readTwo s 0x56) =
      match s.cal.ctx.serving with
      | none => (255, 0, 0, 0)
      | some (.hunted k) => (BitVec.ofNat 8 k.pos.val, 1, k.tag, k.channel)
      | some (.incoming p) => (BitVec.ofNat 8 p.val, 2, 0, 0) := by
  rw [pos, origin, tag, channel]
  rcases s.cal.ctx.serving with _ | _ | _ <;> rfl

/-- Every row of the fault log ends in the tally, the number of entries and a zero word. -/
theorem logRow_end (f : Flt) (x : Option FaultEntry) :
    (logRow f x).getD 28 0 = byteOf f.tally ∧ (logRow f x).getD 29 0 = byteOf f.log.length ∧
      (logRow f x).getD 30 0 = 0 ∧ (logRow f x).getD 31 0 = 0 := by
  cases x with
  | none => exact ⟨rfl, rfl, rfl, rfl⟩
  | some e =>
    rw [logRow_some]
    exact ⟨rfl, rfl, rfl, rfl⟩

theorem logRow_none_getD (f : Flt) {j : Nat} (h : j < 28) : (logRow f none).getD j 0 = 0 := by
  rw [logRow, List.getD_append _ _ _ _ (by simpa [zeros] using h)]
  exact zeros_getD 28 j

theorem logRow_some_getD (f : Flt) (e : FaultEntry) {j : Nat} (low : 10 ≤ j) (high : j < 28) :
    (logRow f (some e)).getD j 0 = 0 := by
  have short : (faultFront e ++ zeros 18).length = 28 := rfl
  rw [logRow_some, ← List.append_assoc, List.getD_append _ _ _ _ (by omega)]
  exact getD_append_zeros low

/-- Every row of the mirror begins with the generation word. -/
theorem mirrorRow_gen (gen : Word) (x : Option Entry) :
    (mirrorRow gen x).getD 0 0 = gen.extractLsb' 0 8 ∧ (mirrorRow gen x).getD 1 0 = gen.extractLsb' 8 8 := ⟨rfl, rfl⟩

theorem mirrorRow_none_getD (gen : Word) {j : Nat} (h : 2 ≤ j) : (mirrorRow gen none).getD j 0 = 0 :=
  getD_append_zeros (front := bytes16 gen) h

theorem registers_show (s : State) : (∀ addr : BitVec 11, 6 ≤ addr.toNat → readRegister s addr = 0) ∧
    (∀ k : Fin 8, (readRegister s 1).getLsbD k.val = (s.ord.slots.get k == .offered)) ∧
    (∀ k : Fin 8, (readRegister s 2).getLsbD k.val = (s.ord.slots.get k == .done)) ∧
    (∀ i, i < 13 → (readRegister s 3).getLsbD i = s.smp.causes.getLsbD i) ∧
    readRegister s 4 = s.smp.enables.setWidth 16 :=
  ⟨fun _ high => readRegister_unused s high, slotBits_getLsbD _, slotBits_getLsbD _, fun _ h => readCause_getLsbD s h,
    rfl⟩

/-- Settles O21: each register and each record of the memory, by the lemmas of its bytes. -/
theorem registersAndMemoryShowTheState : Obligations.RegistersAndMemoryShowTheState := by
  refine ⟨fun s => ?_, fun s => ?_⟩
  · obtain ⟨unused, offer, done, cause, enables⟩ := registers_show s
    exact ⟨unused, offer, done, cause, enables, readCtrl_fields s⟩
  refine ⟨fun addr even => ?_, ?_, ?_, fun i hi => ?_, fun k => ?_, fun i hi => ?_, fun a => readByte_stored s⟩
  · have aligned : addr.toNat / 2 * 2 = addr.toNat := by omega
    simp only [readWord, aligned, wordOf]
  · have byte (a : Nat) (h : a < 29) := readByte_headerFront s h
    obtain ⟨hook, fast, code⟩ := strapByte_fields s.straps
    have strap : readByte s 5 = strapByte s.straps := byte 5 (by omega)
    have wired : readByte s 6 = byteOf (wiredCount s.straps) := byte 6 (by omega)
    refine ⟨readTwo_of_bytes (byte 0 (by omega)) (byte 1 (by omega)), readTwo_of_bytes (byte 2 (by omega))
      (byte 3 (by omega)), byte 4 (by omega), byte 7 (by omega), readTwo_of_bytes (byte 8 (by omega)) (byte 9 (by omega)),
      readFour_of_bytes (byte 10 (by omega)) (byte 11 (by omega)) (byte 12 (by omega)) (byte 13 (by omega)),
      readTwo_of_bytes (byte 14 (by omega)) (byte 15 (by omega)), ?_, ?_, ?_, ?_,
      readTwo_of_bytes (byte 16 (by omega)) (byte 17 (by omega)), ?_, ?_, fun p => ?_, fun a => readByte_header_end s⟩
    · rw [strap, hook]
    · rw [strap, fast]
    · rw [strap, code]
    · rw [wired, wiredCount_byte]
    · rw [show readByte s 0x12 = byteOf (sourceCode s.pln.source) from byte 18 (by omega)]
      cases s.pln.source <;> rfl
    · rw [show readByte s 0x13 = byteOf (storeCode s.pln.storeState) from byte 19 (by omega)]
      cases s.pln.storeState <;> rfl
    · have state : readByte s (0x14 + 3 * p.val) = byteOf (stateCode (s.module p).state) :=
        readByte_moduleMap s p (j := 0) (by omega)
      have role : readByte s (0x14 + 3 * p.val + 1) = byteOf (roleCode (s.module p).role) :=
        readByte_moduleMap s p (j := 1) (by omega)
      have bands : readByte s (0x14 + 3 * p.val + 2) = bandsByte (s.module p).bands :=
        readByte_moduleMap s p (j := 2) (by omega)
      dsimp only
      rw [state, role, bands]
      refine ⟨?_, ?_, bandsByte_eq _⟩
      · cases (s.module p).state <;> rfl
      · cases (s.module p).role <;> rfl
  · have byte (j : Nat) (h : j < 36) := readByte_callFileFront s h
    refine ⟨readTwo_of_bytes (byte 0 (by omega)) (byte 1 (by omega)), ?_, ?_, readTwo_of_bytes (byte 4 (by omega))
      (byte 5 (by omega)), ?_, ?_,
      readFour_of_bytes (byte 8 (by omega)) (byte 9 (by omega)) (byte 10 (by omega)) (byte 11 (by omega)),
      readFour_of_bytes (byte 12 (by omega)) (byte 13 (by omega)) (byte 14 (by omega)) (byte 15 (by omega)), ?_, ?_,
      byte 24 (by omega), byte 25 (by omega),
      readTwo_of_bytes (byte 26 (by omega)) (byte 27 (by omega)), readTwo_of_bytes (byte 28 (by omega))
        (byte 29 (by omega)), readTwo_of_bytes (byte 30 (by omega)) (byte 31 (by omega)), byte 32 (by omega), ?_, ?_, ?_,
      fun p => ?_, fun a => readByte_callFile_end s⟩
    · rw [show readByte s 0x42 = byteOf (callCode s.cal.ctx.state) from byte 2 (by omega)]
      cases s.cal.ctx.state <;> rfl
    · rw [show readByte s 0x43 = byteOf (kindCode s.cal.ctx.kind) from byte 3 (by omega)]
      cases s.cal.ctx.kind <;> rfl
    · rw [show readByte s 0x46 = byteOf (messageCode s.cal.ctx.message) from byte 6 (by omega)]
      cases s.cal.ctx.message <;> rfl
    · rw [show readByte s 0x47 = callFlagsByte s.cal.ctx from byte 7 (by omega)]
      exact byteOfFlags_bits [_, _, _, _, _, _, _, _]
    · exact servingFields_of_bytes s (byte 16 (by omega)) (byte 17 (by omega))
        (readThree_of_bytes (byte 18 (by omega)) (byte 19 (by omega)) (byte 20 (by omega)))
        (readTwo_of_bytes (byte 22 (by omega)) (byte 23 (by omega)))
    · rw [show readByte s 0x55 = byteOf (lastEndCode s.cal.ctx.lastEnd) from byte 21 (by omega)]
      cases s.cal.ctx.lastEnd <;> rfl
    · rw [show readByte s 0x61 = byteOf (huntLinkCode s.cal.ctx.huntLink) from byte 33 (by omega)]
      cases s.cal.ctx.huntLink <;> rfl
    · rw [show readByte s 0x62 = optionalPos s.cal.ctx.answer from byte 34 (by omega)]
      cases s.cal.ctx.answer <;> rfl
    · rw [show readByte s 0x63 = byteOfFlags [s.cal.ctx.releases.p0, s.cal.ctx.releases.p1, s.cal.ctx.releases.p2]
        from byte 35 (by omega)]
      exact byteOfFlags_bits [_, _, _]
    · have row (j : Nat) (h : j < 8) := readByte_summary s p h
      refine ⟨fun absent j h => ?_, fun y present => ?_⟩
      · rw [row j h, absent]
        exact zeros_getD 8 j
      · rw [present] at row
        refine ⟨?_, row 1 (by omega), readTwo_of_bytes (row 2 (by omega)) (row 3 (by omega)), ?_, row 5 (by omega),
          readTwo_of_bytes (row 6 (by omega)) (row 7 (by omega))⟩
        · rw [show readByte s (0x64 + 8 * p.val) = byteOf (attemptCode y.state) from row 0 (by omega)]
          cases y.state <;> rfl
        · rw [show readByte s (0x64 + 8 * p.val + 4) = byteOf (attemptOutcomeCode y.outcome) from row 4 (by omega)]
          cases y.outcome <;> rfl
  · have row (j : Nat) (h : j < 32) := readByte_faultLog s hi h
    obtain ⟨tally, count, end0, end1⟩ := logRow_end s.flt s.flt.log[i]?
    refine ⟨(row 28 (by omega)).trans tally, (row 29 (by omega)).trans count,
      readTwo_of_bytes (x := 0) ((row 30 (by omega)).trans end0) ((row 31 (by omega)).trans end1),
      fun absent j h => ?_, fun e present => ?_⟩
    · rw [row j (by omega), absent, logRow_none_getD _ h]
    · have byte (j : Nat) (h : j < 10) := readByte_faultFront s hi present h
      refine ⟨readFour_of_bytes (byte 0 (by omega)) (byte 1 (by omega)) (byte 2 (by omega)) (byte 3 (by omega)), ?_, ?_,
        readTwo_of_bytes (byte 6 (by omega)) (byte 7 (by omega)), ?_, fun j low high => ?_⟩
      · rw [show readByte s (0x100 + 32 * i + 4) = byteOf (faultCode e.kind) from byte 4 (by omega)]
        cases e.kind <;> rfl
      · rw [show readByte s (0x100 + 32 * i + 5) = optionalPos e.pos from byte 5 (by omega)]
        cases e.pos <;> rfl
      · have address := readTwo_of_bytes (x := e.address.elim 0xFFFF (·.setWidth 16)) (byte 8 (by omega)) (byte 9 (by omega))
        refine Eq.trans address ?_
        cases e.address <;> rfl
      · rw [row j (by omega), present, logRow_some_getD _ _ low high]
  · rw [readByte_slotState]
    cases s.ord.slots.get k <;> rfl
  · have row (j : Nat) (h : j < 32) := readByte_mirror s hi h
    refine ⟨readTwo_of_bytes ((row 0 (by omega)).trans (mirrorRow_gen _ _).1) ((row 1 (by omega)).trans (mirrorRow_gen _ _).2),
      fun absent j low high => ?_, fun e present => ?_⟩
    · rw [row j high, absent, mirrorRow_none_getD _ low]
    · have byte (j : Nat) (h : j < 26) := readByte_entryFront s hi present h
      refine ⟨byte 2 (by omega), ?_, readThree_of_bytes (byte 4 (by omega)) (byte 5 (by omega)) (byte 6 (by omega)), ?_,
        readTwo_of_bytes (byte 8 (by omega)) (byte 9 (by omega)),
        readTwo_of_bytes (byte 10 (by omega)) (byte 11 (by omega)), byte 12 (by omega), ?_, byte 14 (by omega), ?_,
        readTwo_of_bytes (byte 16 (by omega)) (byte 17 (by omega)),
        readTwo_of_bytes (byte 18 (by omega)) (byte 19 (by omega)),
        readTwo_of_bytes (byte 20 (by omega)) (byte 21 (by omega)),
        readFour_of_bytes (byte 22 (by omega)) (byte 23 (by omega)) (byte 24 (by omega)) (byte 25 (by omega)),
        fun j low high => ?_⟩
      · rw [show readByte s (0x380 + 32 * i + 3) = byteOf e.key.pos.val from byte 3 (by omega)]
        exact byteOf_pos e.key.pos
      · rw [show readByte s (0x380 + 32 * i + 7) = byteOf (bandCode e.band) from byte 7 (by omega)]
        cases e.band <;> rfl
      · rw [show readByte s (0x380 + 32 * i + 13) = byteOfFlags [e.networkBarred, e.planBarred, e.bench.isSome,
          e.inAttempt, e.serving] from byte 13 (by omega)]
        exact byteOfFlags_bits [_, _, _, _, _]
      · rw [show readByte s (0x380 + 32 * i + 15) = byteOf (lastOutcomeCode e.last) from byte 15 (by omega)]
        cases e.last <;> rfl
      · rw [row j high, present, mirrorRow_some]
        exact getD_append_zeros low

end Sys2Proof.Machine
end

section
/-! PROOFS. The taking of an order that passes its checks, its completion, and the SCAN order (O31). -/

namespace Sys2Proof.Machine

/-! ### One value per slot, per position -/

theorem PerSlot.set_set {α : Type} (v : PerSlot α) (k : Fin 8) (x y : α) : (v.set k x).set k y = v.set k y := by
  fin_cases k <;> rfl

theorem PerPos.get_set {α : Type} (v : PerPos α) (p q : Pos) (x : α) : (v.set p x).get q = if q = p then x else v.get q := by
  fin_cases p <;> fin_cases q <;> rfl

theorem PerPos.set_get {α : Type} (v : PerPos α) (p : Pos) : v.set p (v.get p) = v := by
  fin_cases p <;> rfl

@[simp] theorem watch_withWatch (s : State) (p q : Pos) (w : Watch) :
    (s.withWatch p w).watch q = if q = p then w else s.watch q := PerPos.get_set ..

theorem withWatch_watch (s : State) (p : Pos) : s.withWatch p (s.watch p) = s := by
  simp only [State.withWatch, State.watch, PerPos.set_get]
  rfl

/-! ### A slot taken (R189) -/

theorem slotByte_takeSlot (s : State) (k : Fin 8) {n : Nat} (h : n < 44) :
    slotByte (takeSlot k s).2 k n = slotByte s k n := by
  refine takeSlot_mem s ?_
  unfold inResult
  omega

theorem firstParameter_takeSlot (s : State) (k : Fin 8) :
    firstParameter (takeSlot k s).2 k = firstParameter s k := by
  rw [firstParameter, slotByte_takeSlot s k (by omega), firstParameter]

theorem secondParameter_takeSlot (s : State) (k : Fin 8) :
    secondParameter (takeSlot k s).2 k = secondParameter s k := by
  rw [secondParameter, slotByte_takeSlot s k (by omega), secondParameter]

theorem badParameter_takeSlot (kind : Nat) (s : State) (k : Fin 8) :
    badParameter kind (takeSlot k s).2 k = badParameter kind s k := by
  rw [badParameter, firstParameter_takeSlot, secondParameter_takeSlot, badParameter]

theorem otherTaken_takeSlot (kind : Nat) (k : Fin 8) (s : State) :
    otherTaken kind k (takeSlot k s).2 = otherTaken kind k s := by
  have same : (fun j => j != k && takenKind kind ((takeSlot k s).2.ord.slots.get j)) =
      fun j => j != k && takenKind kind (s.ord.slots.get j) := by
    funext j
    rw [takeSlot_slots]
    by_cases other : j = k <;> simp [other]
  rw [otherTaken, same, otherTaken]

/-- What `orderReady` says, one condition after another. -/
theorem orderReady_iff (s : State) (k : Fin 8) (kind : Nat) : orderReady s k kind = true ↔
    nextOffered s = some k ∧ kindByte s k = kind ∧ badParameter kind s k = none ∧ otherTaken kind k s = none := by
  simp [orderReady, and_assoc]

/-- An order that passes its checks goes to its owner, with its slot taken. -/
theorem takeOrder_ready {kind : Nat} (owner : Held → Fin 8 → State → State) {s : State} {k : Fin 8}
    (h : orderReady s k kind = true) : takeOrder kind owner s = owner (nextHeld s k) k (takeSlot k s).2 := by
  obtain ⟨offered, code, inRange, alone⟩ := (orderReady_iff s k kind).mp h
  have slot : (takeSlot k s).1 = nextHeld s k := rfl
  have inRange' : badParameter kind (takeSlot k s).2 (nextHeld s k).slot = none :=
    (badParameter_takeSlot kind s k).trans inRange
  have alone' : otherTaken kind (nextHeld s k).slot (takeSlot k s).2 = none :=
    (otherTaken_takeSlot kind k s).trans alone
  simp only [takeOrder, offered, code, if_true, slot, checkOrder, inRange', alone']
  rfl

/-- The host's side of two states agrees: the order unit and the memory. -/
structure SameHost (s t : State) : Prop where
  ord : t.ord = s.ord
  mem : t.smp.mem = s.smp.mem

theorem SameHost.refl (s : State) : SameHost s s := ⟨rfl, rfl⟩

theorem SameHost.trans {s t u : State} (h : SameHost s t) (g : SameHost t u) : SameHost s u :=
  ⟨g.ord.trans h.ord, g.mem.trans h.mem⟩

theorem memRead_writeResult {s : State} (wf : Memory.wf s.smp.mem = true) (k : Fin 8) (outcome : Nat) (detail : Word)
    (time : BitVec 32) {i : Nat} (h : i < 8) : memRead (writeResult k outcome detail time s).smp.mem (slotBase k + 44 + i) =
      (resultBytes outcome detail time).getD i 0 := by
  have region := slotBase_lt k
  have length : (resultBytes outcome detail time).length = 8 := rfl
  exact memRead_memWriteAll wf (by omega) (by omega)

theorem memRead_writeResult_ne (s : State) {k : Fin 8} (outcome : Nat) (detail : Word) (time : BitVec 32) {a : Nat}
    (h : ¬ inResult k a) : memRead (writeResult k outcome detail time s).smp.mem a = memRead s.smp.mem a := by
  refine memRead_memWriteAll_ne ?_
  have length : (resultBytes outcome detail time).length = 8 := rfl
  unfold inResult at h
  omega

theorem wf_takeSlot {s : State} (wf : Memory.wf s.smp.mem = true) (k : Fin 8) :
    Memory.wf (takeSlot k s).2.smp.mem = true := by
  have region := slotBase_lt k
  have length : (resultBytes 0 0 0).length = 8 := rfl
  exact wf_memWriteAll wf (by omega)

/-- A slot taken, and its owner keeping the order. -/
theorem SameHost.slotTaken {s t : State} {k : Fin 8} {kind : Nat} (h : SameHost (takeSlot k s).2 t)
    (wf : Memory.wf s.smp.mem = true) (ready : orderReady s k kind = true) : SlotTaken s t k kind where
  slot := by
    obtain ⟨_, code, _, _⟩ := (orderReady_iff s k kind).mp ready
    rw [h.ord, ← code]
    rfl
  take := by
    rw [h.ord]
    rfl
  result a inside := by
    obtain ⟨i, rfl⟩ := Nat.exists_eq_add_of_le inside.1
    have small : i < 8 := by
      unfold inResult at inside
      omega
    have zero : (resultBytes 0 0 0).getD i 0 = 0 := by
      obtain rfl | rfl | rfl | rfl | rfl | rfl | rfl | rfl :
          i = 0 ∨ i = 1 ∨ i = 2 ∨ i = 3 ∨ i = 4 ∨ i = 5 ∨ i = 6 ∨ i = 7 := by omega
      all_goals rfl
    rw [h.mem]
    exact (memRead_writeResult (s := s.withOrd { s.ord with takeNumber := s.ord.takeNumber + 1 }) wf k 0 0 0 small).trans
      zero
  memory a outside := by rw [h.mem, takeSlot_mem s outside]

/-! ### An order completed (R191) -/

/-- A completion of the order that its slot holds. -/
theorem complete_of_taken {h : Held} {o : OrderOutcome} {d : Word} {s : State}
    (taken : isTakenBy h (s.ord.slots.get h.slot) = true) :
    complete h o d s = raise .orderDone (setSlot h.slot .done (writeResult h.slot (outcomeCode o) d s.clock s)) := by
  rw [complete, if_pos taken]

theorem isTakenBy_takeSlot {s t : State} {k : Fin 8} (h : t.ord = (takeSlot k s).2.ord) :
    isTakenBy (nextHeld s k) (t.ord.slots.get (nextHeld s k).slot) = true := by
  have slot : t.ord.slots.get k = .taken (kindByte s k) (s.ord.takeNumber + 1) := by
    rw [h, takeSlot_slots, if_pos rfl]
  simp [nextHeld, slot, isTakenBy]

theorem orderDone_pending (x : BitVec 13) : (causeSet x .orderDone).getLsbD 7 = true := by
  simp [causeSet, causeBit]

/-- An order completed while its slot is TAKEN by it. -/
theorem completed_of_taken {s : State} {h : Held} (o : OrderOutcome) (d : Word) (wf : Memory.wf s.smp.mem = true)
    (taken : isTakenBy h (s.ord.slots.get h.slot) = true) : Completed s (complete h o d s) h o d := by
  rw [complete_of_taken taken]
  exact
    { slot := rfl
      result := fun i small => memRead_writeResult wf h.slot _ d s.clock small
      memory := fun a outside => memRead_writeResult_ne s _ d s.clock outside
      cause := orderDone_pending _ }

/-- An order taken, kept a while by its owner, and completed: seen from before the taking. -/
theorem completed_of_takeSlot {s u : State} {k : Fin 8} (o : OrderOutcome) (d : Word) (wf : Memory.wf s.smp.mem = true)
    (h : SameHost (takeSlot k s).2 u) (clock : u.clock = s.clock) :
    Completed s (complete (nextHeld s k) o d u) (nextHeld s k) o d := by
  have wf' : Memory.wf u.smp.mem = true := h.mem ▸ wf_takeSlot wf k
  obtain ⟨slot, result, memory, cause⟩ := completed_of_taken o d wf' (isTakenBy_takeSlot h.ord)
  refine ⟨?_, fun i small => ?_, fun a outside => ?_, cause⟩
  · rw [slot, h.ord]
    exact PerSlot.set_set _ k _ _
  · rw [result i small, clock]
  · rw [memory a outside, h.mem]
    exact takeSlot_mem s outside

/-- A taking changes the slots, the take number and the memory. -/
theorem takeSlot_eq (k : Fin 8) (s : State) : ∃ slots mem, (takeSlot k s).2 =
    (s.withOrd { takeNumber := s.ord.takeNumber + 1, slots := slots }).withSmp { s.smp with mem := mem } := ⟨_, _, rfl⟩

/-- A completion changes the slots, the memory and the causes. -/
theorem complete_eq {h : Held} (o : OrderOutcome) (d : Word) {s : State}
    (taken : isTakenBy h (s.ord.slots.get h.slot) = true) : ∃ slots mem, complete h o d s =
    (s.withOrd { s.ord with slots := slots }).withSmp
      { s.smp with mem := mem, causes := causeSet s.smp.causes .orderDone } := by
  rw [complete_of_taken taken]
  exact ⟨_, _, rfl⟩

/-- An order that is taken and completed at once. -/
theorem turnedAway_of_takeSlot {s : State} (k : Fin 8) (o : OrderOutcome) (d : Word) (wf : Memory.wf s.smp.mem = true) :
    TurnedAway s (complete (nextHeld s k) o d (takeSlot k s).2) k o d := by
  obtain ⟨slot, result, memory, _⟩ := completed_of_takeSlot o d wf (SameHost.refl (takeSlot k s).2) rfl
  have taken : isTakenBy (nextHeld s k) _ = true := isTakenBy_takeSlot (t := (takeSlot k s).2) rfl
  obtain ⟨slots, mem, whole⟩ := complete_eq o d taken
  obtain ⟨slots', mem', whole'⟩ := takeSlot_eq k s
  refine ⟨slot, ?_, result, memory, ?_, ?_, ?_⟩ <;> rw [whole, whole'] <;> rfl

/-- A command that takes an order and completes it at once answers the state so left. -/
theorem turnedAway_settled {s u : State} {k : Fin 8} {o : OrderOutcome} {d : Word} (wf : Memory.wf s.smp.mem = true)
    (quiet : s.inbox = []) (h : u = complete (nextHeld s k) o d (takeSlot k s).2) :
    ∃ t, settled u = .next t ∧ TurnedAway s t k o d := by
  subst h
  have away := turnedAway_of_takeSlot k o d wf
  have inbox := congrArg State.inbox away.rest
  exact ⟨_, settled_of_inbox (inbox.trans quiet), away⟩

/-! ### The table published, and purged (R17, R19) -/

/-- A publication moves the mirror's generation word and the causes at most. -/
theorem publishTable_eq (before : List Entry) (cause : Bool) (s : State) : ∃ g c, publishTable before cause s =
    (s.withCtu { s.ctu with mirrorGen := g }).withSmp { s.smp with causes := c } := by
  unfold publishTable
  split
  · exact ⟨s.ctu.mirrorGen, s.smp.causes, rfl⟩
  · cases cause
    · exact ⟨s.ctu.mirrorGen + 2, s.smp.causes, rfl⟩
    · exact ⟨s.ctu.mirrorGen + 2, _, rfl⟩

theorem ctuPurge_eq (s : State) : ∃ g c, ctuPurge s =
    (s.withCtu { s.ctu with table := purged s.ctu.table, mirrorGen := g }).withSmp { s.smp with causes := c } :=
  publishTable_eq s.ctu.table true (s.withCtu { s.ctu with table := purged s.ctu.table })

theorem freshPurge_eq (fresh : Bool) (s : State) : ∃ g c, (if fresh then ctuPurge s else s) =
    (s.withCtu { s.ctu with table := if fresh then purged s.ctu.table else s.ctu.table, mirrorGen := g }).withSmp
      { s.smp with causes := c } := by
  cases fresh
  · exact ⟨s.ctu.mirrorGen, s.smp.causes, rfl⟩
  · exact ctuPurge_eq s

/-! ### The SCAN order (R169) -/

/-- The members of a SCAN order. -/
def scanSet (s : State) : PerPos Bool := ⟨scanMember s 0, scanMember s 1, scanMember s 2⟩

theorem scanSet_get (s : State) (p : Pos) : (scanSet s).get p = scanMember s p := by
  fin_cases p <;> rfl

theorem scanSet_empty {s : State} (h : ∀ p, scanMember s p = false) : scanSet s = PerPos.all false := by
  rw [scanSet, h 0, h 1, h 2]
  rfl

theorem scanSet_nonempty {s : State} (h : ∃ p, scanMember s p = true) : scanSet s ≠ PerPos.all false := by
  obtain ⟨p, member⟩ := h
  intro e
  rw [← scanSet_get, e] at member
  fin_cases p <;> cases member

/-- A member whose module is awake becomes requested, and nothing else happens. -/
theorem requestMember_awake {s : State} {p : Pos} (member : PerPos Bool) (h : (s.module p).state ≠ .asleep) :
    requestMember member p s = s.withWatch p { s.watch p with requested := (s.watch p).requested || member.get p } := by
  unfold requestMember
  split
  next wanted =>
    have awake : wakesForScan (s.withWatch p { s.watch p with requested := true }) p = false := by
      have h : ((s.withWatch p { s.watch p with requested := true }).module p).state ≠ .asleep := h
      simp [wakesForScan, h]
    simp [wakeIfWanted, awake, wanted]
  next other =>
    have same : ((s.watch p).requested || member.get p) = (s.watch p).requested := by simp [other]
    rw [same]
    exact (withWatch_watch s p).symm

/-- WCH's records after a SCAN order has requested its members. -/
def requestEach (member : PerPos Bool) (v : PerPos Watch) : PerPos Watch :=
  let ask := fun p => { v.get p with requested := (v.get p).requested || member.get p }
  ⟨ask 0, ask 1, ask 2⟩

theorem requestMembers_awake {s : State} (member : PerPos Bool) (h : ∀ p, (s.module p).state ≠ .asleep) :
    requestMember member 2 (requestMember member 1 (requestMember member 0 s)) =
      s.withWch { s.wch with watch := requestEach member s.wch.watch } := by
  have one := requestMember_awake (s := s) member (h 0)
  rw [one, requestMember_awake (p := 1) member ?_, requestMember_awake (p := 2) member ?_]
  · rfl
  · exact h 2
  · exact h 1

theorem requestMember_none (s : State) (p : Pos) : requestMember (PerPos.all false) p s = s := by
  fin_cases p <;> rfl

/-- A SCAN order without a module to scan is completed at once. -/
theorem wchScanOrder_empty {s : State} (held : Held) (idle : s.wch.reported ≠ .hunting ∧ s.wch.reported ≠ .reestablishing)
    (none : s.wch.order = none) (h : ∀ p, scanMember s p = false) :
    wchScanOrder held false s = complete held .scanned (BitVec.ofNat 16 s.ctu.table.length) s := by
  have set : (⟨scanMember s 0, scanMember s 1, scanMember s 2⟩ : PerPos Bool) = PerPos.all false := scanSet_empty h
  have forgotten : s.withWch { s.wch with order := .none } = s := by
    rw [← none]
    rfl
  simp only [wchScanOrder, idle.1, idle.2, or_self, if_false, Bool.false_eq_true, set, requestMember_none, settleScanOrder,
    if_true, State.withWch_wch, State.withWch_ctu]
  exact congrArg (complete held .scanned _) forgotten

/-- WCH keeps a SCAN order with members, all of them awake, and requests them. -/
theorem keepScanOrder_awake {s : State} (held : Held) {member : PerPos Bool} (wanted : member ≠ PerPos.all false)
    (awake : ∀ p, (s.module p).state ≠ .asleep) :
    settleScanOrder (requestMember member 2 (requestMember member 1 (requestMember member 0
      (s.withWch { s.wch with order := some ⟨held, member⟩ })))) =
        s.withWch { s.wch with order := some ⟨held, member⟩, watch := requestEach member s.wch.watch } := by
  rw [requestMembers_awake member ?_]
  · exact if_neg wanted
  · exact awake

/-- A SCAN order with members, all of them awake, stays with WCH, which requests them. -/
theorem wchScanOrder_members {s : State} (held : Held) (fresh : Bool)
    (idle : s.wch.reported ≠ .hunting ∧ s.wch.reported ≠ .reestablishing) (awake : ∀ p, (s.module p).state ≠ .asleep)
    (h : ∃ p, scanMember s p = true) : ∃ g c, wchScanOrder held fresh s =
      (((s.withCtu { s.ctu with table := if fresh then purged s.ctu.table else s.ctu.table, mirrorGen := g }).withSmp
        { s.smp with causes := c }).withWch
          { s.wch with order := some ⟨held, scanSet s⟩, watch := requestEach (scanSet s) s.wch.watch }) := by
  obtain ⟨g, c, purge⟩ := freshPurge_eq fresh s
  refine ⟨g, c, ?_⟩
  rw [wchScanOrder, if_neg (by simp [idle])]
  simp only [purge]
  exact keepScanOrder_awake (s := (s.withCtu _).withSmp _) held (scanSet_nonempty h) awake

/-- Settles O31: the order is taken (`takeOrder_ready`), and WCH merges, completes or keeps it. -/
theorem scanOrdersAct : Obligations.ScanOrdersAct := by
  intro s k quiet wf ready none
  have run : exec .scanOrder s =
      settled (wchScanOrder (nextHeld s k) (firstParameter s k == 1) (takeSlot k s).2) := by
    change settled (takeOrder 3 ownerScan s) = _
    rw [takeOrder_ready ownerScan ready, ownerScan, firstParameter_takeSlot]
  rw [run]
  refine ⟨fun hunting => turnedAway_settled wf quiet (if_pos hunting), fun notHunting notAgain => ⟨?_, ?_⟩⟩
  · intro nobody first
    refine turnedAway_settled wf quiet ?_
    rw [first]
    exact wchScanOrder_empty (s := (takeSlot k s).2) _ ⟨notHunting, notAgain⟩ none nobody
  · intro members awake
    obtain ⟨g, c, kept⟩ := wchScanOrder_members (s := (takeSlot k s).2) (nextHeld s k) (firstParameter s k == 1)
      ⟨notHunting, notAgain⟩ awake members
    have host : SameHost (takeSlot k s).2 (wchScanOrder (nextHeld s k) (firstParameter s k == 1) (takeSlot k s).2) := by
      rw [kept]
      exact ⟨rfl, rfl⟩
    have slot := host.slotTaken wf ready
    obtain ⟨slots, mem, taken⟩ := takeSlot_eq k s
    rw [kept] at slot ⊢
    rw [taken] at slot ⊢
    refine ⟨_, settled_of_inbox quiet, slot, rfl, fun p => ?_, ?_, rfl, rfl, rfl, rfl, rfl, rfl, rfl, rfl⟩
    · fin_cases p <;> rfl
    · by_cases fresh : firstParameter s k = 1
      · simp only [fresh]
        rfl
      · simp [fresh]

end Sys2Proof.Machine
end

section
/-! PROOFS. A cascade that finds the call idle, the hunt at rest and WCH without a SCAN order or a gather: only WCH acts, on
its own records and on the link queue. -/

namespace Sys2Proof.Machine

/-! ### WCH's own doing -/

/-- WCH has changed its own records and the link queue, and nothing else; its order and its gather stand as they were. -/
structure WatchStep (s t : State) : Prop where
  rest : ∃ w q n, t = (s.withWch w).withMlc { s.mlc with queue := q, nextNumber := n }
  order : t.wch.order = s.wch.order
  gather : t.wch.gatherReport = s.wch.gatherReport

/-- Nothing that WCH does now reports to another block: the plan is sound, and no order and no gather wait on it. -/
structure WatchAlone (s : State) : Prop where
  sound : s.pln.damaged = []
  order : s.wch.order = none
  gather : s.wch.gatherReport = false

theorem WatchStep.refl (s : State) : WatchStep s s := ⟨⟨s.wch, s.mlc.queue, s.mlc.nextNumber, rfl⟩, rfl, rfl⟩

theorem WatchStep.trans {s t u : State} (h : WatchStep s t) (g : WatchStep t u) : WatchStep s u := by
  obtain ⟨⟨w, q, n, rfl⟩, order, gather⟩ := h
  obtain ⟨⟨w', q', n', rfl⟩, order', gather'⟩ := g
  exact ⟨⟨w', q', n', rfl⟩, order'.trans order, gather'.trans gather⟩

theorem WatchStep.alone {s t : State} (h : WatchStep s t) (a : WatchAlone s) : WatchAlone t := by
  obtain ⟨⟨w, q, n, rfl⟩, order, gather⟩ := h
  exact ⟨a.sound, order.trans a.order, gather.trans a.gather⟩

theorem WatchStep.withWatch {s0 s : State} (h : WatchStep s0 s) (p : Pos) (w : Watch) : WatchStep s0 (s.withWatch p w) :=
  h.trans ⟨⟨{ s.wch with watch := s.wch.watch.set p w }, s.mlc.queue, s.mlc.nextNumber, rfl⟩, rfl, rfl⟩

theorem WatchStep.withWch {s0 s : State} (h : WatchStep s0 s) {w : Wch} (order : w.order = s.wch.order)
    (gather : w.gatherReport = s.wch.gatherReport) : WatchStep s0 (s.withWch w) :=
  h.trans ⟨⟨w, s.mlc.queue, s.mlc.nextNumber, rfl⟩, order, gather⟩

theorem WatchStep.withInbox {s t : State} (h : WatchStep s t) (x : List Msg) :
    WatchStep (s.withInbox x) (t.withInbox x) := by
  obtain ⟨⟨w, q, n, rfl⟩, order, gather⟩ := h
  exact ⟨⟨w, q, n, rfl⟩, order, gather⟩

/-- A step of WCH's in which it has only added to the queue. -/
structure WatchGrows (s t : State) : Prop extends WatchStep s t where
  grows : s.mlc.queue <+: t.mlc.queue

theorem WatchGrows.refl (s : State) : WatchGrows s s := ⟨WatchStep.refl s, List.prefix_rfl⟩

theorem WatchGrows.trans {s t u : State} (h : WatchGrows s t) (g : WatchGrows t u) : WatchGrows s u :=
  ⟨h.toWatchStep.trans g.toWatchStep, h.grows.trans g.grows⟩

theorem WatchGrows.withWatch {s0 s : State} (h : WatchGrows s0 s) (p : Pos) (w : Watch) :
    WatchGrows s0 (s.withWatch p w) := ⟨h.toWatchStep.withWatch p w, h.grows⟩

theorem WatchGrows.withWch {s0 s : State} (h : WatchGrows s0 s) {w : Wch} (order : w.order = s.wch.order)
    (gather : w.gatherReport = s.wch.gatherReport) : WatchGrows s0 (s.withWch w) :=
  ⟨h.toWatchStep.withWch order gather, h.grows⟩

/-- The request kinds that WCH queues: of class 3, and no call operation (R136). -/
def watchKind : ReqKind → Bool
  | .scan => true
  | .scanFetch => true
  | .sleep => true
  | .wake => true
  | _ => false

/-- A request of class 3 joins the queue or is refused; it displaces nothing (R138). -/
theorem enqueue_watchKind {kind : ReqKind} (h : watchKind kind = true) (o : Requester) (p : Pos) (payload : List Byte)
    (s : State) : enqueue o p kind payload s =
      if s.mlc.queue.length < Config.queueCapacity then append o p kind payload s else (.queueFull, s) := by
  cases kind <;> simp [watchKind] at h <;> rfl

theorem enqueue_grows {kind : ReqKind} (h : watchKind kind = true) {o : Requester} {p : Pos} {payload : List Byte}
    {s0 s t : State} {x : QueueAnswer} (g : WatchGrows s0 s) (e : enqueue o p kind payload s = (x, t)) : WatchGrows s0 t := by
  rw [enqueue_watchKind h] at e
  split at e <;> cases e
  · exact g.trans ⟨⟨⟨s.wch, _, _, rfl⟩, rfl, rfl⟩, List.prefix_append ..⟩
  · exact g

theorem withdraw_watchStep (o : Requester) (n : Nat) {s0 s : State} (g : WatchStep s0 s) :
    WatchStep s0 (withdraw o n s).2 := by
  have queued (q : List Request) : WatchStep s0 (s.withQueue q) := g.trans ⟨⟨s.wch, q, _, rfl⟩, rfl, rfl⟩
  unfold withdraw
  split
  · dsimp only
    split <;> exact queued _
  · split
    · split <;> exact g
    · exact g

theorem withdrawIf_watchStep (o : Requester) (n : Option Nat) {s0 s : State} (g : WatchStep s0 s) :
    WatchStep s0 (withdrawIf o n s) := by
  cases n with
  | none => exact g
  | some n => exact withdraw_watchStep o n g

theorem queueSleep_grows (p : Pos) {s0 s : State} (g : WatchGrows s0 s) : WatchGrows s0 (queueSleep p s) := by
  unfold queueSleep
  split
  next e => exact (enqueue_grows rfl g e).withWatch ..
  next e => exact enqueue_grows rfl g e

theorem queueWake_grows (p : Pos) {s0 s t : State} {x : Bool} (g : WatchGrows s0 s) (e : queueWake p s = (x, t)) :
    WatchGrows s0 t := by
  unfold queueWake at e
  split at e
  next e' =>
    cases e
    exact (enqueue_grows rfl g e').withWatch ..
  next e' =>
    cases e
    exact enqueue_grows rfl g e'

theorem wakeIfWanted_grows (p : Pos) {s0 s : State} (g : WatchGrows s0 s) : WatchGrows s0 (wakeIfWanted p s) := by
  unfold wakeIfWanted
  split
  · unfold startWaking
    dsimp only
    split
    next e => exact queueWake_grows p (g.withWatch ..) e
    next e => exact (queueWake_grows p (g.withWatch ..) e).withWatch ..
  · exact g

/-! ### Scans and their ends, with no order and no gather -/

theorem endMember_alone {s : State} (a : WatchAlone s) (p : Pos) : endMember p s = s.withWch { s.wch with
    gather := s.wch.gather.set p false, watch := s.wch.watch.set p { s.watch p with requested := false } } := by
  have order := a.order
  have gather := a.gather
  simp [endMember, settleGather, settleScanOrder, State.withWatch, order, gather]
  rfl

theorem endMember_grows (p : Pos) {s0 s : State} (a : WatchAlone s0) (g : WatchGrows s0 s) :
    WatchGrows s0 (endMember p s) := by
  rw [endMember_alone (g.alone a)]
  exact g.withWch rfl rfl

theorem startScan_grows (p : Pos) {s0 s : State} (sound : s.pln.damaged = []) (g : WatchGrows s0 s) :
    WatchGrows s0 (startScan p s) := by
  unfold startScan
  simp only [touch_sound sound]
  split
  next e =>
    refine WatchGrows.withWatch (enqueue_grows (s0 := s0) rfl ?_ e) _ _
    exact (g.withWatch ..).withWch rfl rfl
  next e =>
    refine WatchGrows.withWatch (enqueue_grows (s0 := s0) rfl ?_ e) _ _
    exact (g.withWatch ..).withWch rfl rfl

theorem startScans_grows (n : Nat) (looked : List Pos) {s0 s : State} (a : WatchAlone s0) (g : WatchGrows s0 s) :
    WatchGrows s0 (startScans n looked s) := by
  induction n generalizing looked s with
  | zero => exact g
  | succ n ih =>
    unfold startScans
    split
    · exact g
    · split
      · exact g
      · dsimp only
        split
        · exact ih _ (endMember_grows _ a g)
        · exact ih _ (startScan_grows _ (g.alone a).sound g)

theorem examine_grows {s0 s : State} (a : WatchAlone s0) (g : WatchGrows s0 s) : WatchGrows s0 (examine s) := by
  unfold examine
  rw [touch_sound (g.alone a).sound]
  exact startScans_grows _ _ a (wakeIfWanted_grows 2 (wakeIfWanted_grows 1 (wakeIfWanted_grows 0 g)))

theorem examine_watchStep {s0 s : State} (a : WatchAlone s0) (g : WatchStep s0 s) : WatchStep s0 (examine s) :=
  g.trans (examine_grows (g.alone a) (WatchGrows.refl s)).toWatchStep

theorem endMember_watchStep (p : Pos) {s0 s : State} (a : WatchAlone s0) (g : WatchStep s0 s) :
    WatchStep s0 (endMember p s) := g.trans (endMember_grows p (g.alone a) (WatchGrows.refl s)).toWatchStep

theorem sleepAfterScan_watchStep (p : Pos) {s0 s : State} (g : WatchStep s0 s) :
    WatchStep s0 (sleepAfterScan p s) := by
  unfold sleepAfterScan
  split
  · exact g.trans (queueSleep_grows p (WatchGrows.refl s)).toWatchStep
  · exact g

theorem scanEndNoExamine_watchStep (p : Pos) {s0 s : State} (a : WatchAlone s0) (g : WatchStep s0 s) :
    WatchStep s0 (scanEndNoExamine p s) := by
  have withdrawn := withdrawIf_watchStep .wch (s.watch p).scanRequest g
  unfold scanEndNoExamine
  simp only [touch_sound (withdrawn.alone a).sound]
  exact sleepAfterScan_watchStep p (endMember_watchStep p a (withdrawn.withWatch ..))

theorem scanEnd_watchStep (p : Pos) {s0 s : State} (a : WatchAlone s0) (g : WatchStep s0 s) :
    WatchStep s0 (scanEnd p s) := examine_watchStep a (scanEndNoExamine_watchStep p a g)

theorem endAtDeparture_watchStep (p : Pos) {s0 s : State} (a : WatchAlone s0) (g : WatchStep s0 s) :
    WatchStep s0 (endAtDeparture p s) := by
  unfold endAtDeparture
  split
  · exact scanEndNoExamine_watchStep p a g
  · split
    · exact endMember_watchStep p a g
    · exact g

/-! ### WCH's events -/

theorem WatchStep.ite {s0 s t : State} {c : Prop} [Decidable c] (h : WatchStep s0 s) (g : WatchStep s0 t) :
    WatchStep s0 (if c then s else t) := by
  split
  · exact h
  · exact g

theorem wchTakeModule_watchStep (p : Pos) (old new : ModState) {s : State} (a : WatchAlone s) :
    WatchStep s (wchTakeModule p old new s) := by
  have left : WatchStep s (if (old == .inService && new != .inService) || lostToWatch new then endAtDeparture p s else s) :=
    (endAtDeparture_watchStep p a (WatchStep.refl s)).ite (WatchStep.refl s)
  exact examine_watchStep a (((left.withWatch ..).ite left).withWatch ..|>.ite ((left.withWatch ..).ite left))

theorem wchTakeRole_watchStep (p : Pos) {s : State} (a : WatchAlone s) : WatchStep s (wchTakeRole p s) := by
  have here := WatchStep.refl s
  refine examine_watchStep a (WatchStep.ite ((here.withWatch ..).ite here) (WatchStep.withWatch ?_ _ _))
  exact (scanEndNoExamine_watchStep p a here).ite here

theorem wchTakeResult_watchStep (p : Pos) (n : Nat) (kind : ReqKind) (r : LinkResult) {s : State} (a : WatchAlone s) :
    WatchStep s (wchTakeResult p n kind r s) := by
  have here := WatchStep.refl s
  unfold wchTakeResult
  split
  · refine WatchStep.ite ?_ here
    unfold wchScanResult
    dsimp only
    split
    · exact (here.withWatch ..).withWatch ..
    · exact (here.withWatch ..).withWatch ..
    · exact scanEnd_watchStep p a (here.withWatch ..)
  · refine WatchStep.ite ?_ here
    unfold wchFetchResult
    dsimp only
    split
    · exact (here.withWatch ..).withWatch ..
    · exact scanEnd_watchStep p a (here.withWatch ..)
  · exact here.withWatch ..
  · refine WatchStep.ite ?_ here
    unfold wchWakeResult
    dsimp only
    split
    · split
      · exact here.withWatch ..
      · exact (here.withWatch ..).withWatch ..
      · exact scanEnd_watchStep p a (here.withWatch ..)
    · exact here.withWatch ..
  · exact here

theorem wchTakeList_watchStep (p : Pos) (n : Nat) {s : State} (a : WatchAlone s) : WatchStep s (wchTakeList p n s) :=
  (scanEnd_watchStep p a ((WatchStep.refl s).withWatch ..)).ite (WatchStep.refl s)

/-! ### HNT and CAL at rest -/

/-- The call is idle, the hunt rests, and WCH acts alone. -/
structure Resting (s : State) : Prop extends WatchAlone s where
  hunt : huntRests s = true
  call : s.cal.ctx.state = .idle

theorem WatchStep.resting {s t : State} (h : WatchStep s t) (r : Resting s) : Resting t := by
  have alone := h.alone r.toWatchAlone
  obtain ⟨⟨w, q, n, rfl⟩, _, _⟩ := h
  exact ⟨alone, r.hunt, r.call⟩

/-- What `huntRests` says, one condition after another. -/
theorem huntRests_iff (s : State) : huntRests s = true ↔
    s.hnt.state = .idle ∧ (∀ p, s.record p = none) ∧ s.hnt.stray = PerPos.all none ∧ s.hnt.wakeWait = none := by
  have records : noRecord s = true ↔ ∀ p, s.record p = none := by
    constructor
    · intro h p
      have h : ∀ p ∈ positions, (s.record p).isNone = true := by simpa [noRecord] using h
      simpa using h p (by fin_cases p <;> simp [positions])
    · intro h
      simp [noRecord, h]
  simp [huntRests, records, and_assoc]

theorem inFlightCount_none {s : State} (h : ∀ p, s.record p = none) : inFlightCount s = 0 := by
  simp [inFlightCount, h, positions]

/-- In a hunt that has no round the checks of R45 and R44 find nothing to do. -/
theorem huntChecks_of_not_round {s : State} (h : s.hnt.state ≠ .round) : huntChecks s = s := by
  have closed : launchOpen s = false := by simp [launchOpen, h]
  have launched : launchCheck s = s := by simp [launchCheck, launchLoop, closed]
  simp [huntChecks, launched, roundEndCheck, h]

theorem recordChecks_rests {s : State} (h : huntRests s = true) : recordChecks s s = s := by
  obtain ⟨idle, _, _, _⟩ := (huntRests_iff s).mp h
  simp [recordChecks, idle]

theorem departed_rests {s : State} (h : huntRests s = true) (p : Pos) : departed p s = s := by
  obtain ⟨_, records, stray, _⟩ := (huntRests_iff s).mp h
  have mark : (PerPos.all none : PerPos (Option Nat)).get p = none := by fin_cases p <;> rfl
  have marks : s.hnt.stray.set p none = s.hnt.stray := by
    rw [stray]
    fin_cases p <;> rfl
  simp only [departed, records, stray, mark, withdrawIf]
  rw [← stray, marks]
  rfl

theorem endWakeWait_rests {s : State} (h : huntRests s = true) : endWakeWait s = s := by
  obtain ⟨_, _, _, wait⟩ := (huntRests_iff s).mp h
  simp [endWakeWait, wait]

theorem hntTakeModule_rests {s : State} (h : huntRests s = true) (p : Pos) (old new : ModState) :
    hntTakeModule p old new s = s := by
  simp only [hntTakeModule, departed_rests h, ite_self, endWakeWait_rests h, recordChecks_rests h]

theorem hntTakeRole_rests {s : State} (h : huntRests s = true) : hntTakeRole s = s := by
  obtain ⟨idle, _, _, _⟩ := (huntRests_iff s).mp h
  exact huntChecks_of_not_round (by simp [idle])

theorem hntTakePlan_rests {s : State} (h : huntRests s = true) : hntTakePlan s = s := by
  obtain ⟨_, records, _, _⟩ := (huntRests_iff s).mp h
  simp [hntTakePlan, tooManyInFlight, inFlightCount_none records]

theorem hntTakeKeys_rests {s : State} (h : huntRests s = true) (keys : List Key) : hntTakeKeys keys s = s := by
  obtain ⟨idle, _, _, _⟩ := (huntRests_iff s).mp h
  simp [hntTakeKeys, idle]

/-- An event of CAL whose effect is none, taken outside a clearing's end, leaves everything. -/
theorem calEvent_of_no_effect {f : State → State} {s : State} (h : f s = s) (ongoing : clearingOver s = false) :
    calEvent f s = s := by
  simp [calEvent, h, clearingCheck, ongoing, publishCall]

theorem calModuleLeft_idle {s : State} (h : s.cal.ctx.state = .idle) (p : Pos) : calEvent (takeModuleLeft p) s = s := by
  refine calEvent_of_no_effect ?_ (by simp [clearingOver, h])
  simp [takeModuleLeft, servesAt, endPendingRelease, h]

/-! ### The cascade -/

/-- The internal events that a change of a module, of a role, of the plan or of the table posts. -/
def restful : Msg → Bool
  | .hntNewKeys _ => true
  | .hntModule _ _ _ => true
  | .hntRole _ => true
  | .hntPlan => true
  | .calModuleLeft _ => true
  | .wchModule _ _ _ => true
  | .wchRole _ => true
  | .wchResult _ _ _ _ => true
  | .wchList _ _ => true
  | _ => false

theorem handle_restful {m : Msg} {s : State} (h : restful m = true) (r : Resting s) : WatchStep s (handle m s) := by
  have same {t : State} (e : t = s) : WatchStep s t := e ▸ WatchStep.refl s
  cases m with
  | hntNewKeys keys => exact same (hntTakeKeys_rests r.hunt keys)
  | hntModule p old new => exact same (hntTakeModule_rests r.hunt p old new)
  | hntRole p => exact same (hntTakeRole_rests r.hunt)
  | hntPlan => exact same (hntTakePlan_rests r.hunt)
  | calModuleLeft p => exact same (calModuleLeft_idle r.call p)
  | wchModule p old new => exact wchTakeModule_watchStep p old new r.toWatchAlone
  | wchRole p => exact wchTakeRole_watchStep p r.toWatchAlone
  | wchResult p n kind x => exact wchTakeResult_watchStep p n kind x r.toWatchAlone
  | wchList p n => exact wchTakeList_watchStep p n r.toWatchAlone
  | _ => cases h

theorem inboxAfter_none (waiting : List Msg) : inboxAfter [] waiting = waiting := by
  simp [inboxAfter, goesFirst]

theorem WatchStep.inbox {s t : State} (h : WatchStep s t) : t.inbox = s.inbox := by
  obtain ⟨⟨w, q, n, rfl⟩, _, _⟩ := h
  rfl

/-- One internal event that posts nothing leaves the others waiting. -/
theorem drainOne_of_quiet {m : Msg} {rest : List Msg} {s : State} (h : (handle m (s.withInbox [])).inbox = []) :
    drainOne m rest s = (handle m (s.withInbox [])).withInbox rest := by
  simp only [drainOne, h, inboxAfter_none]

theorem mem_inboxAfter {newer waiting : List Msg} {m : Msg} (h : m ∈ inboxAfter newer waiting) :
    m ∈ newer ∨ m ∈ waiting := by
  simp only [inboxAfter, List.mem_append, List.mem_filter] at h
  tauto

/-- A cascade whose events, under an invariant, each make a step of one kind and post events of the same class: the whole of
it is a step of that kind. -/
theorem drain_steps {Good : State → Prop} {S : State → State → Prop} {C : Msg → Prop} (refl : ∀ s, S s s)
    (trans : ∀ {s t u}, S s t → S t u → S s u) (good : ∀ {s t}, S s t → Good s → Good t)
    (bare : ∀ {s} (x : List Msg), Good s → Good (s.withInbox x))
    (step : ∀ {m s}, C m → Good s → s.inbox = [] → S s ((handle m s).withInbox []) ∧ ∀ x ∈ (handle m s).inbox, C x)
    (n : Nat) {s : State} (h : ∀ m ∈ s.inbox, C m) (g : Good s) : S (s.withInbox []) (drain n s) := by
  induction n generalizing s with
  | zero => exact refl _
  | succ n ih =>
    unfold drain
    split
    next empty =>
      have same : s.withInbox [] = s := by
        rw [← empty]
        rfl
      rw [same]
      exact refl s
    next m rest inbox =>
      rw [inbox] at h
      obtain ⟨first, posted⟩ := step (h m (by simp)) (bare [] g) rfl
      have after : Good (drainOne m rest s) :=
        bare (s := (handle m (s.withInbox [])).withInbox []) _ (good first (bare [] g))
      have waiting (x : Msg) (hx : x ∈ (drainOne m rest s).inbox) : C x := by
        rcases mem_inboxAfter hx with new | old
        · exact posted x new
        · exact h x (List.mem_cons_of_mem m old)
      exact trans first (ih waiting after)

/-- A cascade in a part at rest: WCH acts, and nothing else happens. -/
theorem drain_restful (n : Nat) {s : State} (h : ∀ m ∈ s.inbox, restful m = true) (r : Resting s) :
    WatchStep (s.withInbox []) (drain n s) := by
  refine drain_steps (Good := Resting) (S := WatchStep) (C := fun m => restful m = true) WatchStep.refl WatchStep.trans
    WatchStep.resting (fun _ r => ⟨⟨r.sound, r.order, r.gather⟩, r.hunt, r.call⟩) (fun {m s} quiet rest empty => ?_) n h r
  have step := handle_restful quiet rest
  have none : (handle m s).inbox = [] := step.inbox.trans empty
  refine ⟨?_, by simp [none]⟩
  have same : (handle m s).withInbox [] = handle m s := by
    rw [← none]
    rfl
  rwa [same]

end Sys2Proof.Machine
end

section
/-! PROOFS. What a change of a module's state or role does in a part at rest, and the MODULE order (O33). -/

namespace Sys2Proof.Machine

/-! ### MLC's own doing -/

/-- MLC, and with it LAMP_FAULT, the status block and the carriers of a lost module, have moved: everything else is as it
was, the transaction in flight and the waiting MODULE order too, and the reports posted are of the quiet
kinds. Where no module is `lost`, the carriers and the causes stay too. -/
structure LinkMoves (lost : Bool) (s t : State) : Prop where
  pending : t.pending = s.pending
  clock : t.clock = s.clock
  straps : t.straps = s.straps
  ord : t.ord = s.ord
  mem : t.smp.mem = s.smp.mem
  planProtected : t.smp.planProtected = s.smp.planProtected
  flt : t.flt = s.flt
  hnt : t.hnt = s.hnt
  cal : t.cal = s.cal
  lmu : t.lmu = s.lmu
  vsw : t.vsw = s.vsw
  wch : t.wch = s.wch
  pln : t.pln = s.pln
  tx : t.mlc.tx = s.mlc.tx
  wait : t.mlc.wait = s.mlc.wait
  carriers : lost = false → t.ctu = s.ctu ∧ t.smp.causes = s.smp.causes
  posts : ∃ ms, t.inbox = s.inbox ++ ms ∧ ∀ m ∈ ms, restful m = true

variable {l : Bool}

theorem LinkMoves.refl (s : State) : LinkMoves l s s where
  pending := rfl
  clock := rfl
  straps := rfl
  ord := rfl
  mem := rfl
  planProtected := rfl
  flt := rfl
  hnt := rfl
  cal := rfl
  lmu := rfl
  vsw := rfl
  wch := rfl
  pln := rfl
  tx := rfl
  wait := rfl
  carriers _ := ⟨rfl, rfl⟩
  posts := ⟨[], by simp, by simp⟩

theorem LinkMoves.trans {s t u : State} (h : LinkMoves l s t) (g : LinkMoves l t u) : LinkMoves l s u where
  pending := g.pending.trans h.pending
  clock := g.clock.trans h.clock
  straps := g.straps.trans h.straps
  ord := g.ord.trans h.ord
  mem := g.mem.trans h.mem
  planProtected := g.planProtected.trans h.planProtected
  flt := g.flt.trans h.flt
  hnt := g.hnt.trans h.hnt
  cal := g.cal.trans h.cal
  lmu := g.lmu.trans h.lmu
  vsw := g.vsw.trans h.vsw
  wch := g.wch.trans h.wch
  pln := g.pln.trans h.pln
  tx := g.tx.trans h.tx
  wait := g.wait.trans h.wait
  carriers none := by
    obtain ⟨ctu, causes⟩ := h.carriers none
    obtain ⟨ctu', causes'⟩ := g.carriers none
    exact ⟨ctu'.trans ctu, causes'.trans causes⟩
  posts := by
    obtain ⟨ms, e, calm⟩ := h.posts
    obtain ⟨ns, f, calm'⟩ := g.posts
    refine ⟨ms ++ ns, by rw [f, e, List.append_assoc], fun m hm => ?_⟩
    rcases List.mem_append.mp hm with hm | hm
    · exact calm m hm
    · exact calm' m hm

theorem LinkMoves.resting {s t : State} (h : LinkMoves l s t) (r : Resting s) : Resting t where
  sound := h.pln ▸ r.sound
  order := h.wch ▸ r.order
  gather := h.wch ▸ r.gather
  hunt := by
    have same : huntRests t = huntRests s := by simp only [huntRests, noRecord, State.record, h.hnt]
    rw [same, r.hunt]
  call := h.cal ▸ r.call

theorem LinkMoves.sameHost {s t : State} (h : LinkMoves l s t) : SameHost s t := ⟨h.ord, h.mem⟩

theorem LinkMoves.postAll {s0 s : State} (h : LinkMoves l s0 s) {ms : List Msg} (calm : ∀ m ∈ ms, restful m = true) :
    LinkMoves l s0 (postAll ms s) := h.trans { LinkMoves.refl s with posts := ⟨ms, rfl, calm⟩ }

theorem LinkMoves.withModule {s0 s : State} (h : LinkMoves l s0 s) {p : Pos} {m : Module} :
    LinkMoves l s0 (s.withModule p m) := { h with }

theorem LinkMoves.withQueue {s0 s : State} (h : LinkMoves l s0 s) {q : List Request} :
    LinkMoves l s0 (s.withQueue q) := { h with }

theorem LinkMoves.status {s0 s : State} (h : LinkMoves l s0 s) : LinkMoves l s0 (bsuFaultLamp (publishStatus s)) := { h with }

theorem LinkMoves.lamp {s0 s : State} (h : LinkMoves l s0 s) : LinkMoves l s0 (bsuFaultLamp s) := { h with }

theorem LinkMoves.ite {s s' t : State} {c : Prop} [Decidable c] (h : LinkMoves l s s') (g : LinkMoves l s t) :
    LinkMoves l s (if c then s' else t) := by
  split
  · exact h
  · exact g

theorem ctuModuleLost_moves {s0 s : State} (p : Pos) (h : LinkMoves true s0 s) : LinkMoves true s0 (ctuModuleLost p s) := by
  obtain ⟨g, c, e⟩ := publishTable_eq s.ctu.table true (s.withCtu { s.ctu with table := withoutLost p s.ctu.table })
  rw [ctuModuleLost, e]
  exact { h with carriers := fun none => absurd none Bool.noConfusion }

/-- Without a waiting MODULE order a change of state completes none. -/
theorem settleWait_of_none {s : State} (h : s.mlc.wait = none) (p : Pos) (old new : ModState) :
    settleWait p old new s = s := by
  simp [settleWait, h]

theorem stateReports_restful (p : Pos) (old new : ModState) : ∀ m ∈ stateReports p old new, restful m = true := by
  intro m hm
  simp only [stateReports, List.mem_append, List.mem_singleton] at hm
  rcases hm with (rfl | hm) | rfl
  · rfl
  · split at hm
    · rw [List.mem_singleton] at hm
      subst hm
      rfl
    · cases hm
  · rfl

theorem roleReports_restful (p : Pos) : ∀ m ∈ roleReports p, restful m = true := by
  intro m hm
  simp only [roleReports, List.mem_cons, List.not_mem_nil, or_false] at hm
  rcases hm with rfl | rfl <;> rfl

theorem changeState_moves {s0 s : State} (p : Pos) (new : ModState) (wait : s.mlc.wait = none)
    (kind : lostState new = true → l = true) (h : LinkMoves l s0 s) : LinkMoves l s0 (changeState p new s) := by
  have lost : LinkMoves l s0 (if lostState new then
      ctuModuleLost p (bsuFaultLamp (publishStatus (s.withModule p (enterRecord new (s.module p)))))
      else bsuFaultLamp (publishStatus (s.withModule p (enterRecord new (s.module p))))) := by
    split
    next gone =>
      obtain rfl := kind gone
      exact ctuModuleLost_moves p h.withModule.status
    · exact h.withModule.status
  have told := lost.postAll (stateReports_restful p (s.module p).state new)
  unfold changeState
  dsimp only
  rw [settleWait_of_none (lost.wait.trans (h.wait.symm.trans wait))]
  exact told.ite (told.postAll (roleReports_restful p))

theorem changeRole_moves {s0 s : State} (p : Pos) (role : Role) (bands : Bands) (h : LinkMoves l s0 s) :
    LinkMoves l s0 (changeRole p role bands s) :=
  h.ite (h.withModule.status.postAll (roleReports_restful p))

theorem enterBoot_moves {s0 s : State} (p : Pos) (time : Nat) (wait : s.mlc.wait = none) (h : LinkMoves l s0 s) :
    LinkMoves l s0 (enterBoot p time s) := (changeState_moves p _ wait (fun gone => absurd gone Bool.noConfusion) h).withModule

theorem enterReset_moves {s0 s : State} (p : Pos) (wait : s.mlc.wait = none) (h : LinkMoves l s0 s) :
    LinkMoves l s0 (enterReset p s) := (changeState_moves p _ wait (fun gone => absurd gone Bool.noConfusion) h).withModule

theorem enqueue_watchKind_moves {kind : ReqKind} (hk : watchKind kind = true) (o : Requester) (p : Pos)
    (payload : List Byte) {s0 s : State} (h : LinkMoves l s0 s) : LinkMoves l s0 (enqueue o p kind payload s).2 := by
  rw [enqueue_watchKind hk]
  split
  · exact { h with }
  · exact h

theorem queueSpareSleep_moves {s0 s : State} (p : Pos) (h : LinkMoves l s0 s) : LinkMoves l s0 (queueSpareSleep p s) := by
  have queued := enqueue_watchKind_moves (kind := .sleep) rfl .mlc p [] h
  unfold queueSpareSleep
  split
  next e =>
    rw [e] at queued
    exact queued.withModule
  next e =>
    rw [e] at queued
    exact queued.withModule

theorem withdraw_moves {s0 s : State} (o : Requester) (n : Nat) (h : LinkMoves l s0 s) :
    LinkMoves l s0 (withdraw o n s).2 := by
  unfold withdraw
  split
  · dsimp only
    split <;> exact h.withQueue
  · split
    · split <;> exact h
    · exact h

theorem withdrawEach_moves {s0 s : State} (rs : List Request) (h : LinkMoves l s0 s) :
    LinkMoves l s0 (rs.foldl (fun s r => (withdraw .mlc r.number s).2) s) := by
  induction rs generalizing s with
  | nil => exact h
  | cons r rs ih => exact ih (withdraw_moves .mlc r.number h)

theorem rouse_moves {s0 s : State} (q : Pos) (h : LinkMoves l s0 s) : LinkMoves l s0 (rouse q s) := by
  unfold rouse
  split
  · exact enqueue_watchKind_moves rfl .mlc q [] h
  · exact withdrawEach_moves _ h.withModule
  · exact h

theorem substitute_moves {s0 s : State} (p : Pos) (h : LinkMoves l s0 s) : LinkMoves l s0 (substitute p s) := by
  unfold substitute
  split
  · exact h
  · exact rouse_moves _ (changeRole_moves _ _ _ h.withModule).withModule

/-! ### The cascade after MLC's doing -/

/-- A command that has moved MLC in a part at rest: the reports of its changes are taken, and only WCH acts on them. -/
theorem LinkMoves.settles {s u : State} (h : LinkMoves l s u) (quiet : s.inbox = []) (r : Resting s) :
    ∃ t, settled u = .next t ∧ WatchStep (u.withInbox []) t := by
  obtain ⟨ms, posted, calm⟩ := h.posts
  rw [quiet, List.nil_append] at posted
  exact ⟨_, rfl, drain_restful _ (by rwa [posted]) (h.resting r)⟩

theorem WatchStep.module {s t : State} (h : WatchStep s t) (p : Pos) : t.module p = s.module p := by
  obtain ⟨⟨w, q, n, rfl⟩, _, _⟩ := h
  rfl

theorem WatchStep.wait {s t : State} (h : WatchStep s t) : t.mlc.wait = s.mlc.wait := by
  obtain ⟨⟨w, q, n, rfl⟩, _, _⟩ := h
  rfl

theorem WatchStep.ctu {s t : State} (h : WatchStep s t) : t.ctu = s.ctu := by
  obtain ⟨⟨w, q, n, rfl⟩, _, _⟩ := h
  rfl

theorem WatchStep.ord {s t : State} (h : WatchStep s t) : t.ord = s.ord := by
  obtain ⟨⟨w, q, n, rfl⟩, _, _⟩ := h
  rfl

theorem WatchStep.smp {s t : State} (h : WatchStep s t) : t.smp = s.smp := by
  obtain ⟨⟨w, q, n, rfl⟩, _, _⟩ := h
  rfl

/-! ### The module records after a change -/

@[simp] theorem module_withModule (s : State) (p q : Pos) (m : Module) :
    (s.withModule p m).module q = if q = p then m else s.module q := PerPos.get_set ..

theorem publishTable_module (before : List Entry) (cause : Bool) (s : State) (q : Pos) :
    (publishTable before cause s).module q = s.module q := by
  obtain ⟨g, c, e⟩ := publishTable_eq before cause s
  rw [e]
  rfl

theorem complete_mlc (h : Held) (o : OrderOutcome) (d : Word) (s : State) : (complete h o d s).mlc = s.mlc := by
  unfold complete
  split <;> rfl

theorem settleWait_module (p : Pos) (old new : ModState) (s : State) (q : Pos) :
    (settleWait p old new s).module q = s.module q := by
  have completed (h : Held) (o : OrderOutcome) (d : Word) (u : State) : (complete h o d u).module q = u.module q := by
    rw [State.module, complete_mlc]
    rfl
  unfold settleWait
  split
  · split
    · exact completed _ _ _ _
    · rfl
  · rfl

/-- A change of state gives the module the record of the new state, and leaves the others' records. -/
theorem changeState_module (p : Pos) (new : ModState) (s : State) (q : Pos) :
    (changeState p new s).module q = if q = p then enterRecord new (s.module p) else s.module q := by
  have base : (bsuFaultLamp (publishStatus (s.withModule p (enterRecord new (s.module p))))).module q =
      if q = p then enterRecord new (s.module p) else s.module q := PerPos.get_set ..
  have lost : (if lostState new then
      ctuModuleLost p (bsuFaultLamp (publishStatus (s.withModule p (enterRecord new (s.module p)))))
      else bsuFaultLamp (publishStatus (s.withModule p (enterRecord new (s.module p))))).module q =
        if q = p then enterRecord new (s.module p) else s.module q := by
    split
    · exact (publishTable_module _ _ _ q).trans base
    · exact base
  unfold changeState
  dsimp only
  split <;> exact (settleWait_module _ _ _ _ q).trans lost

theorem changeRole_module (p : Pos) (role : Role) (bands : Bands) (s : State) (q : Pos) :
    (changeRole p role bands s).module q =
      if q = p then { s.module p with role := role, bands := bands } else s.module q := by
  unfold changeRole
  dsimp only
  split
  next same =>
    split
    next here =>
      obtain ⟨rfl, rfl⟩ := same
      rw [here]
    · rfl
  · exact PerPos.get_set ..

theorem enterBoot_module (p : Pos) (time : Nat) (s : State) (q : Pos) : (enterBoot p time s).module q =
    if q = p then { enterRecord (.booting .boot) (s.module p) with boot := some time } else s.module q := by
  unfold enterBoot
  by_cases here : q = p <;> simp [changeState_module, here]

theorem enterReset_module (p : Pos) (s : State) (q : Pos) : (enterReset p s).module q =
    if q = p then { enterRecord (.booting .reset) (s.module p) with pulse := some 100 } else s.module q := by
  unfold enterReset
  by_cases here : q = p <;> simp [changeState_module, here, Config.pulseTime]

/-- What a record keeps when its module changes its state with no role pending. -/
theorem enterRecord_of_no_role {m : Module} (h : m.pendingRole = none) (new : ModState) :
    (enterRecord new m).role = m.role ∧ (enterRecord new m).bands = m.bands ∧
      (enterRecord new m).replaced = m.replaced ∧ (enterRecord new m).failures = m.failures ∧
      (enterRecord new m).restart = m.restart ∧ (enterRecord new m).state = new := by
  unfold enterRecord
  simp only [applyPendingRole, h, stopTimers]
  split <;> exact ⟨rfl, rfl, rfl, rfl, rfl, rfl⟩

theorem withdraw_module (o : Requester) (n : Nat) (s : State) (q : Pos) : (withdraw o n s).2.module q = s.module q := by
  unfold withdraw
  split
  · dsimp only
    split <;> rfl
  · split
    · split <;> rfl
    · rfl

theorem withdrawEach_module (rs : List Request) (s : State) (q : Pos) :
    (rs.foldl (fun s r => (withdraw .mlc r.number s).2) s).module q = s.module q := by
  induction rs generalizing s with
  | nil => rfl
  | cons r rs ih => exact (ih _).trans (withdraw_module .mlc r.number s q)

theorem enqueue_watchKind_module {kind : ReqKind} (hk : watchKind kind = true) (o : Requester) (p : Pos)
    (payload : List Byte) (s : State) (q : Pos) : (enqueue o p kind payload s).2.module q = s.module q := by
  rw [enqueue_watchKind hk]
  split <;> rfl

/-- A roused substitute keeps its state and role, and every other module its record. -/
theorem rouse_module (q : Pos) (s : State) (x : Pos) : ((rouse q s).module x).state = (s.module x).state ∧
    ((rouse q s).module x).role = (s.module x).role ∧ ((rouse q s).module x).replaced = (s.module x).replaced := by
  have same {t : State} (e : t.module x = s.module x) : (t.module x).state = (s.module x).state ∧
      (t.module x).role = (s.module x).role ∧ (t.module x).replaced = (s.module x).replaced := by
    rw [e]
    exact ⟨rfl, rfl, rfl⟩
  unfold rouse
  split
  · exact same (enqueue_watchKind_module rfl ..)
  · have withdrawn : (withdrawSpareSleep q (s.withModule q { s.module q with sleepAgain := false })).module x =
        (s.withModule q { s.module q with sleepAgain := false }).module x := withdrawEach_module _ _ x
    rw [withdrawn, module_withModule]
    split
    next here => exact here ▸ ⟨rfl, rfl, rfl⟩
    · exact ⟨rfl, rfl, rfl⟩
  · exact same rfl

end Sys2Proof.Machine
end

section
/-! PROOFS. The MODULE order (O33). -/

namespace Sys2Proof.Machine

/-! ### Substitution (R156) -/

theorem findSubstitute_some {v : PerPos Module} {q : Pos} (h : canSubstitute (v.get q) = true)
    (lower : ∀ x, x < q → canSubstitute (v.get x) = false) : findSubstitute v = some q := by
  have first (x : Pos) (hx : x < q) : canSubstitute (v.get x) = false := lower x hx
  obtain rfl | rfl | rfl := pos_cases q
  · simp [findSubstitute, positions, h]
  · simp [findSubstitute, positions, h, first 0 (by decide)]
  · simp [findSubstitute, positions, h, first 0 (by decide), first 1 (by decide)]

theorem findSubstitute_none {v : PerPos Module} (h : ∀ x, canSubstitute (v.get x) = false) : findSubstitute v = none := by
  simp [findSubstitute, h]

/-- A module that can stand in for a lost one (R156). -/
theorem canSubstitute_iff (m : Module) : canSubstitute m = true ↔
    m.role = .spare ∧ m.state ≠ .failed ∧ m.state ≠ .outOfService ∧ m.state ≠ .absent := by
  have lost : lostState m.state = false ↔ m.state ≠ .failed ∧ m.state ≠ .outOfService := by
    cases m.state <;> simp [lostState]
  simp [canSubstitute, lost, and_assoc]

/-- Substitution gives the substitute the role ACTIVE and the lost position its replaced flag. -/
theorem substitute_module {s : State} {p q : Pos} (found : findSubstitute s.mlc.modules = some q) (x : Pos) :
    ((substitute p s).module x).state = (s.module x).state ∧
      ((substitute p s).module x).role = (if x = q then .active else (s.module x).role) ∧
      ((substitute p s).module x).replaced = (if x = p then true else (s.module x).replaced) := by
  unfold substitute
  rw [found]
  dsimp only
  obtain ⟨state, role, replaced⟩ := rouse_module q (((changeRole q .active ((s.module q).bands.union (s.module p).bands)
    (s.withModule q { s.module q with pendingRole := none })).withModule p
      { (changeRole q .active ((s.module q).bands.union (s.module p).bands)
          (s.withModule q { s.module q with pendingRole := none })).module p with replaced := true })) x
  rw [state, role, replaced]
  rcases eq_or_ne x p with rfl | lost
  · by_cases stands : x = q
    · subst stands
      simp [changeRole_module]
    · simp [changeRole_module, stands]
  · by_cases stands : x = q
    · subst stands
      simp [changeRole_module, lost]
    · simp [changeRole_module, lost, stands]

theorem substitute_of_none {s : State} (p : Pos) (h : findSubstitute s.mlc.modules = none) : substitute p s = s := by
  unfold substitute
  rw [h]

/-! ### The module that returns (R157, R158) -/

/-- The record of a lost module that returns with no role pending: a replaced one becomes SPARE. -/
def returned (plan : Plan) (p : Pos) (m : Module) : Module :=
  if m.replaced then { m with role := .spare, bands := plan.allowed.get p, replaced := false, pendingRole := none } else m

theorem setReturnRole_of_kept {s : State} {p : Pos} (kept : (s.module p).replaced = false)
    (none : (s.module p).pendingRole = none) : setReturnRole p s = s := by
  simp [setReturnRole, kept, none]

theorem setReturnRole_of_replaced {s : State} {p : Pos} (sound : s.pln.damaged = [])
    (gone : (s.module p).replaced = true) : setReturnRole p s = changeRole p .spare (s.pln.plan.allowed.get p)
      (s.withModule p { s.module p with replaced := false, pendingRole := none }) := by
  simp [setReturnRole, gone, touch_sound sound]

theorem setReturnRole_moves {l : Bool} {s : State} {p : Pos} (sound : s.pln.damaged = [])
    (none : (s.module p).pendingRole = none) : LinkMoves l s (setReturnRole p s) := by
  cases gone : (s.module p).replaced with
  | false =>
    rw [setReturnRole_of_kept gone none]
    exact LinkMoves.refl s
  | true =>
    rw [setReturnRole_of_replaced sound gone]
    exact changeRole_moves _ _ _ (LinkMoves.refl s).withModule

theorem setReturnRole_module {s : State} {p : Pos} (sound : s.pln.damaged = [])
    (none : (s.module p).pendingRole = none) (q : Pos) : (setReturnRole p s).module q =
      if q = p then returned s.pln.plan p (s.module p) else s.module q := by
  cases gone : (s.module p).replaced with
  | false =>
    rw [setReturnRole_of_kept gone none]
    by_cases here : q = p <;> simp [here, returned, gone]
  | true =>
    rw [setReturnRole_of_replaced sound gone]
    by_cases here : q = p <;> simp [changeRole_module, here, returned, gone]

theorem returned_failures (plan : Plan) (p : Pos) (m : Module) (none : m.pendingRole = none) :
    (returned plan p m).pendingRole = .none ∧ (returned plan p m).replaced = false ∧
      ((returned plan p m).role, (returned plan p m).bands) =
        (if m.replaced then (Role.spare, plan.allowed.get p) else (m.role, m.bands)) := by
  unfold returned
  cases gone : m.replaced <;> simp [gone, none]

/-! ### The actions of a MODULE order, in a part at rest (R158) -/

/-- A part at rest takes the quiet reports that wait, and answers. -/
theorem settles_resting {u : State} (calm : ∀ m ∈ u.inbox, restful m = true) (r : Resting u) :
    ∃ t, settled u = .next t ∧ WatchStep (u.withInbox []) t := ⟨_, rfl, drain_restful _ calm r⟩

theorem LinkMoves.calm {l : Bool} {s u : State} (h : LinkMoves l s u) (quiet : s.inbox = []) :
    ∀ m ∈ u.inbox, restful m = true := by
  obtain ⟨ms, posted, calm⟩ := h.posts
  rw [quiet, List.nil_append] at posted
  rwa [posted]

theorem WatchStep.sameHost {s t : State} (h : WatchStep s t) : SameHost s t := ⟨h.ord, by rw [h.smp]⟩

/-- A MODULE order that has started a boot waits for it. -/
theorem waitForBoot_settles {l : Bool} {s v : State} (held : Held) (p : Pos) (h : LinkMoves l s v) (quiet : s.inbox = [])
    (r : Resting s) : ∃ t, settled (waitForBoot held p v) = .next t ∧ SameHost s t ∧ t.mlc.wait = some ⟨held, p⟩ ∧
      ∀ q, t.module q = v.module q := by
  have rv := h.resting r
  obtain ⟨t, run, step⟩ := settles_resting (u := waitForBoot held p v) (h.calm quiet)
    ⟨⟨rv.sound, rv.order, rv.gather⟩, rv.hunt, rv.call⟩
  have same : SameHost ((waitForBoot held p v).withInbox []) t := step.sameHost
  exact ⟨t, run, ⟨same.ord.trans h.ord, same.mem.trans h.mem⟩, step.wait, fun q => step.module q⟩

/-- IN_SERVICE for a lost module: it boots, with its failure count 0. -/
theorem bringBack_lost {s : State} (held : Held) {p : Pos} (quiet : s.inbox = []) (r : Resting s)
    (wait : s.mlc.wait = none) (none : (s.module p).pendingRole = none) (lost : lostState (s.module p).state = true) :
    ∃ t, settled (bringBack held p s) = .next t ∧ SameHost s t ∧ t.mlc.wait = some ⟨held, p⟩ ∧
      ∀ q, t.module q = if q = p then
        { enterRecord (.booting .boot) { returned s.pln.plan p (s.module p) with failures := 0 } with boot := some 8000 }
        else s.module q := by
  have back : LinkMoves false s (setReturnRole p s) := setReturnRole_moves r.sound none
  have ready := back.withModule (p := p) (m := { (setReturnRole p s).module p with failures := 0 })
  have moves := enterBoot_moves p 8000 (ready.wait.trans wait) ready
  obtain ⟨t, run, host, waits, modules⟩ := waitForBoot_settles held p moves quiet r
  refine ⟨t, ?_, host, waits, fun q => ?_⟩
  · rw [← run, bringBack, if_pos lost, returning, if_pos lost]
    rfl
  · rw [modules, enterBoot_module]
    by_cases here : q = p <;> simp [here, setReturnRole_module r.sound none]

/-- RESTART: the module boots under the reset pulse, with its failure count 0. -/
theorem restartModule_boots {s : State} (held : Held) {p : Pos} (quiet : s.inbox = []) (r : Resting s)
    (wait : s.mlc.wait = none) (free : s.mlc.tx = none) (none : (s.module p).pendingRole = .none)
    (notHeld : (s.module p).state ≠ .held)
    (kept : lostState (s.module p).state = true → (s.module p).replaced = false) :
    ∃ t, settled (restartModule held p s) = .next t ∧ SameHost s t ∧ t.mlc.wait = some ⟨held, p⟩ ∧
      ∀ q, t.module q = if q = p then
        { enterRecord (.booting .reset) { s.module p with failures := 0, restart := .none } with pulse := some 100 }
        else s.module q := by
  have uncut : cutTransaction p s = s := by simp [cutTransaction, free]
  have back : returning p s = s := by
    unfold returning
    split
    next lost => exact setReturnRole_of_kept (kept lost) none
    · rfl
  have ready := (LinkMoves.refl (l := false) s).withModule (p := p) (m := { s.module p with failures := 0, restart := .none })
  have moves := enterReset_moves p (ready.wait.trans wait) ready
  obtain ⟨t, run, host, waits, modules⟩ := waitForBoot_settles held p moves quiet r
  refine ⟨t, ?_, host, waits, fun q => ?_⟩
  · rw [← run, restartModule, if_neg notHeld, uncut, back]
  · rw [modules, enterReset_module]
    by_cases here : q = p <;> simp [here]

/-! ### OUT_OF_SERVICE -/

/-- A module put out of service, with its substitution. -/
def takenOut (p : Pos) (s : State) : State :=
  let out := changeState p .outOfService s
  if (out.module p).role = .active then substitute p out else out

theorem takenOut_moves {s : State} {p : Pos} (wait : s.mlc.wait = none) : LinkMoves true s (takenOut p s) := by
  have out := changeState_moves p .outOfService wait (fun _ => rfl) (LinkMoves.refl s)
  exact (substitute_moves p out).ite out

theorem publishTable_table (before : List Entry) (cause : Bool) (s : State) :
    (publishTable before cause s).ctu.table = s.ctu.table := by
  obtain ⟨g, c, e⟩ := publishTable_eq before cause s
  rw [e]
  rfl

/-- A module put out of service takes its unprotected carriers with it (R17). -/
theorem changeState_outOfService_table {s : State} {p : Pos} (wait : s.mlc.wait = none) :
    (changeState p .outOfService s).ctu.table = withoutLost p s.ctu.table := by
  have still : (ctuModuleLost p (bsuFaultLamp (publishStatus
      (s.withModule p (enterRecord .outOfService (s.module p)))))).mlc.wait = none :=
    (ctuModuleLost_moves (s := bsuFaultLamp (publishStatus (s.withModule p (enterRecord .outOfService (s.module p))))) p
      (LinkMoves.refl s).withModule.status).wait.trans wait
  have table := publishTable_table s.ctu.table true ((bsuFaultLamp (publishStatus
    (s.withModule p (enterRecord .outOfService (s.module p))))).withCtu
      { s.ctu with table := withoutLost p s.ctu.table })
  unfold changeState
  simp only [lostState, if_true, settleWait_of_none still]
  split <;> exact table

theorem takenOut_table {s : State} {p : Pos} (wait : s.mlc.wait = none) :
    (takenOut p s).ctu.table = withoutLost p s.ctu.table := by
  unfold takenOut
  dsimp only
  split
  · have kept := (substitute_moves (l := false) p (LinkMoves.refl (changeState p .outOfService s))).carriers rfl
    rw [kept.1, changeState_outOfService_table wait]
  · exact changeState_outOfService_table wait

theorem complete_inbox (h : Held) (o : OrderOutcome) (d : Word) (s : State) : (complete h o d s).inbox = s.inbox := by
  unfold complete
  split <;> rfl

theorem complete_ctu (h : Held) (o : OrderOutcome) (d : Word) (s : State) : (complete h o d s).ctu = s.ctu := by
  unfold complete
  split <;> rfl

theorem complete_resting {s : State} (h : Held) (o : OrderOutcome) (d : Word) (r : Resting s) : Resting (complete h o d s) := by
  unfold complete
  split
  · exact ⟨⟨r.sound, r.order, r.gather⟩, r.hunt, r.call⟩
  · exact r

/-- What a completion says holds of every state with the same host's side. -/
theorem Completed.of_same {s u t : State} {h : Held} {o : OrderOutcome} {d : Word} (c : Completed s u h o d)
    (ord : t.ord = u.ord) (smp : t.smp = u.smp) : Completed s t h o d := by
  obtain ⟨slot, result, memory, cause⟩ := c
  exact ⟨by rw [ord, slot], by rwa [smp], by rwa [smp], by rwa [smp]⟩

theorem takenOut_state {s : State} {p : Pos} (none : (s.module p).pendingRole = none) (q : Pos) :
    ((takenOut p s).module q).state = if q = p then .outOfService else (s.module q).state := by
  have out : ((changeState p .outOfService s).module q).state = if q = p then .outOfService else (s.module q).state := by
    rw [changeState_module]
    by_cases here : q = p
    · obtain ⟨_, _, _, _, _, state⟩ := enterRecord_of_no_role none .outOfService
      simp [here, state]
    · simp [here]
  unfold takenOut
  dsimp only
  split
  · cases found : findSubstitute (changeState p .outOfService s).mlc.modules with
    | none => rw [substitute_of_none p found, out]
    | some x => rw [(substitute_module found q).1, out]
  · exact out

/-- OUT_OF_SERVICE: the module's state, the substitution and its carriers; the order completes DONE with code 6. -/
theorem takeOut_settles {s : State} (held : Held) {p : Pos} (quiet : s.inbox = []) (r : Resting s)
    (wait : s.mlc.wait = none) (free : s.mlc.tx = none) (none : (s.module p).pendingRole = none)
    (there : (s.module p).state ≠ .outOfService) : ∃ t, settled (takeOut held p s) = .next t ∧
      t.ord = (complete held .done 6 (takenOut p s)).ord ∧ t.smp = (complete held .done 6 (takenOut p s)).smp ∧
      t.ctu.table = withoutLost p s.ctu.table ∧ ∀ q, t.module q = (takenOut p s).module q := by
  have uncut : cutTransaction p s = s := by simp [cutTransaction, free]
  have moves := takenOut_moves (p := p) wait
  have whole : takeOut held p s = complete held .done 6 (takenOut p s) := by
    have state := takenOut_state none p
    rw [if_pos rfl] at state
    rw [takeOut, if_neg there, uncut]
    change completeModule held p (takenOut p s) = _
    rw [completeModule, state]
    rfl
  have calm := moves.calm quiet
  rw [← complete_inbox held .done 6] at calm
  obtain ⟨t, run, step⟩ := settles_resting calm (complete_resting held .done 6 (moves.resting r))
  refine ⟨t, by rw [whole, run], step.ord, step.smp, ?_, fun q => ?_⟩
  · rw [step.ctu]
    exact (congrArg Ctu.table (complete_ctu held .done 6 (takenOut p s))).trans (takenOut_table wait)
  · rw [step.module]
    exact congrArg (fun m : Mlc => m.modules.get q) (complete_mlc held .done 6 (takenOut p s))

/-- What `calmPart` and `scansRest` say of what stands in WCH and PLN. -/
theorem calmPart_iff (s : State) : calmPart s = true ↔ s.inbox = [] ∧ s.pln.damaged = [] := by simp [calmPart]

theorem resting_of {s : State} (calm : calmPart s = true) (hunt : huntRests s = true) (scans : scansRest s = true)
    (call : s.cal.ctx.state = .idle) : Resting s := by
  obtain ⟨_, sound⟩ := (calmPart_iff s).mp calm
  simp only [scansRest, Bool.and_eq_true, Option.isNone_iff_eq_none, Bool.not_eq_true'] at scans
  obtain ⟨⟨order, gather⟩, _⟩ := scans
  exact ⟨⟨sound, order, gather⟩, hunt, call⟩

theorem takeSlot_inbox (k : Fin 8) (s : State) : (takeSlot k s).2.inbox = s.inbox := by
  obtain ⟨slots, mem, e⟩ := takeSlot_eq k s
  rw [e]
  rfl

theorem takeSlot_blocks (k : Fin 8) (s : State) : (takeSlot k s).2.mlc = s.mlc ∧ (takeSlot k s).2.cal = s.cal ∧
    (takeSlot k s).2.hnt = s.hnt ∧ (takeSlot k s).2.pln = s.pln ∧ (takeSlot k s).2.wch = s.wch ∧
    (takeSlot k s).2.ctu = s.ctu ∧ (takeSlot k s).2.clock = s.clock := by
  obtain ⟨slots, mem, e⟩ := takeSlot_eq k s
  rw [e]
  exact ⟨rfl, rfl, rfl, rfl, rfl, rfl, rfl⟩

theorem takeSlot_resting {s : State} (k : Fin 8) (r : Resting s) : Resting (takeSlot k s).2 := by
  obtain ⟨_, cal, hnt, pln, wch, _⟩ := takeSlot_blocks k s
  refine ⟨⟨by rw [pln, r.sound], by rw [wch, r.order], by rw [wch, r.gather]⟩, ?_, by rw [cal, r.call]⟩
  have same : huntRests (takeSlot k s).2 = huntRests s := by simp only [huntRests, noRecord, State.record, hnt]
  rw [same, r.hunt]

theorem takeSlot_module (k : Fin 8) (s : State) (p : Pos) : (takeSlot k s).2.module p = s.module p :=
  congrArg (fun m : Mlc => m.modules.get p) (takeSlot_blocks k s).1

theorem exec_moduleOrder {s : State} {k : Fin 8} (ready : orderReady s k 5 = true) : exec .moduleOrder s =
    settled (takeModuleOrder (nextHeld s k) (positionOf (firstParameter s k)) (moduleAction (secondParameter s k))
      (takeSlot k s).2) := by
  change settled (takeOrder 5 ownerModule s) = _
  rw [takeOrder_ready ownerModule ready, ownerModule, firstParameter_takeSlot, secondParameter_takeSlot]

/-- A MODULE order for a module that is there and holds no call goes to its action. -/
theorem takeModuleOrder_acts {s : State} (held : Held) {p : Pos} (action : ModuleAction) (wired : (s.module p).wired = true)
    (there : (s.module p).state ≠ .absent) (call : holdsCall s p = false) (answer : s.cal.ctx.answer ≠ some p) :
    takeModuleOrder held p action s = (match action with
      | .outOfService => takeOut held p s
      | .inService => bringBack held p s
      | .restart => restartModule held p s) := by
  simp [takeModuleOrder, wired, there, call, answer] <;> rfl

/-- The fields of a record that has entered BOOTING with no role pending. -/
theorem enterRecord_booting {m : Module} (none : m.pendingRole = none) (phase : BootPhase) :
    (enterRecord (.booting phase) m).lastBatch = 0 ∧ (enterRecord (.booting phase) m).state = .booting phase ∧
      (enterRecord (.booting phase) m).failures = m.failures ∧ (enterRecord (.booting phase) m).restart = m.restart ∧
      (enterRecord (.booting phase) m).replaced = m.replaced ∧ (enterRecord (.booting phase) m).role = m.role ∧
      (enterRecord (.booting phase) m).bands = m.bands := by
  obtain ⟨role, bands, replaced, failures, restart, state⟩ := enterRecord_of_no_role none (.booting phase)
  exact ⟨rfl, state, failures, restart, replaced, role, bands⟩

/-- Substitution after a departure, seen from before it: the lowest SPARE that can stand in becomes ACTIVE. -/
theorem takenOut_substitutes {s : State} {p q : Pos} (none : (s.module p).pendingRole = none)
    (active : (s.module p).role = .active) (stands : canSubstitute (s.module q) = true)
    (lower : ∀ x, x < q → canSubstitute (s.module x) = false) : ((takenOut p s).module q).role = .active ∧
      ((takenOut p s).module p).replaced = true ∧ ∀ x, x ≠ q → ((takenOut p s).module x).role = (s.module x).role := by
  obtain ⟨role, _, _, _, _, state⟩ := enterRecord_of_no_role none .outOfService
  have records (x : Pos) := changeState_module p .outOfService s x
  have self : canSubstitute ((changeState p .outOfService s).module p) = false := by
    rw [records, if_pos rfl, canSubstitute, role, active]
    rfl
  have other (x : Pos) (h : x ≠ p) : (changeState p .outOfService s).module x = s.module x := by rw [records, if_neg h]
  have apart : q ≠ p := by
    rintro rfl
    simp [canSubstitute, active] at stands
  have found : findSubstitute (changeState p .outOfService s).mlc.modules = some q := by
    refine findSubstitute_some ?_ fun x below => ?_
    · change canSubstitute ((changeState p .outOfService s).module q) = true
      rw [other q apart, stands]
    · change canSubstitute ((changeState p .outOfService s).module x) = false
      by_cases here : x = p
      · rw [here, self]
      · rw [other x here, lower x below]
  have still : ((changeState p .outOfService s).module p).role = .active := by rw [records, if_pos rfl, role, active]
  have whole : takenOut p s = substitute p (changeState p .outOfService s) := if_pos still
  rw [whole]
  refine ⟨?_, ?_, fun x hx => ?_⟩
  · simp [substitute_module found]
  · simp [substitute_module found]
  · rw [(substitute_module found x).2.1, if_neg hx]
    by_cases here : x = p
    · rw [here, still, active]
    · rw [other x here]

/-- A departure that no SPARE can make good, or of a SPARE, leaves the roles. -/
theorem takenOut_keeps_roles {s : State} {p : Pos} (none : (s.module p).pendingRole = none)
    (h : (s.module p).role = .spare ∨ ∀ q, canSubstitute (s.module q) = false) :
    (∀ q, ((takenOut p s).module q).role = (s.module q).role) ∧
      ((takenOut p s).module p).replaced = (s.module p).replaced := by
  obtain ⟨role, _, replaced, _, _, state⟩ := enterRecord_of_no_role none .outOfService
  have records (x : Pos) := changeState_module p .outOfService s x
  have alone : takenOut p s = changeState p .outOfService s := by
    rcases h with spare | nobody
    · refine if_neg ?_
      rw [records, if_pos rfl, role, spare]
      decide
    · have found : findSubstitute (changeState p .outOfService s).mlc.modules = .none := by
        refine findSubstitute_none fun x => ?_
        change canSubstitute ((changeState p .outOfService s).module x) = false
        rw [records]
        split
        · simp [canSubstitute, state, lostState]
        · exact nobody x
      unfold takenOut
      simp [substitute_of_none p found]
  rw [alone]
  refine ⟨fun q => ?_, by rw [records, if_pos rfl, replaced]⟩
  rw [records]
  split
  next here => rw [here, role]
  · rfl

/-- Settles O33: the order is taken (`takeOrder_ready`) and turned away, or acts as the lemmas of its action say. -/
theorem moduleOrdersAct : Obligations.ModuleOrdersAct := by
  intro s k calm wf ready p
  obtain ⟨quiet, _⟩ := (calmPart_iff s).mp calm
  have run := exec_moduleOrder ready
  have record := takeSlot_module k s p
  obtain ⟨mlc, cal, hnt, pln, wch, ctu, clock⟩ := takeSlot_blocks k s
  have holds : holdsCall (takeSlot k s).2 p = holdsCall s p := by rw [holdsCall, cal, hnt, holdsCall]
  rw [run]
  refine ⟨fun gone => ?_, fun wired there busy => ?_, fun wired there call answer => ⟨?_, ?_, ?_⟩⟩
  · exact turnedAway_settled wf quiet (if_pos (by rwa [record]))
  · have away : ¬ ((s.module p).wired = false ∨ (s.module p).state = .absent) := by simp [wired, there]
    have held : holdsCall s p = true ∨ s.cal.ctx.answer = some p := by
      rw [holdsCall, Bool.or_eq_true, beq_iff_eq]
      rcases busy with serving | record | answer
      · exact Or.inl (Or.inl serving)
      · exact Or.inl (Or.inr record)
      · exact Or.inr answer
    obtain ⟨t, e, turned⟩ := turnedAway_settled (o := .busy) (d := Config.moduleBusyDetail (nextHeld s k).take) wf quiet
      (u := takeModuleOrder (nextHeld s k) p (moduleAction (secondParameter s k)) (takeSlot k s).2)
      ((if_neg (by rwa [record])).trans (if_pos (by rwa [holds, cal])))
    exact ⟨t, _, e, turned⟩
  all_goals
    have acts (action : ModuleAction) := takeModuleOrder_acts (s := (takeSlot k s).2) (nextHeld s k) action
      (by rwa [record]) (by rwa [record]) (by rwa [holds]) (by rwa [cal])
  · intro action here
    rw [action]
    refine turnedAway_settled wf quiet ((acts .inService).trans ?_)
    have lost : lostState ((takeSlot k s).2.module p).state = false := by rw [record, here]
    change bringBack _ _ _ = _
    rw [bringBack, lost, if_neg Bool.false_ne_true, completeModule, record]
  · intro action held
    rw [action]
    refine turnedAway_settled wf quiet ((acts .restart).trans ?_)
    change restartModule _ _ _ = _
    rw [restartModule, if_pos (by rw [record, held]), completeModule, record, held]
    rfl
  · intro hunt scans idle noRole wait
    have rest := takeSlot_resting k (resting_of calm hunt scans idle)
    have quiet' := (takeSlot_inbox k s).trans quiet
    have noRole' : ((takeSlot k s).2.module p).pendingRole = none := by rw [record, noRole]
    have wait' : (takeSlot k s).2.mlc.wait = none := by rw [mlc, wait]
    have others {t : State} {f : Module} (modules : ∀ q, t.module q = if q = p then f else (takeSlot k s).2.module q)
        (q : Pos) (hq : q ≠ p) : (t.module q).state = (s.module q).state := by
      rw [modules, if_neg hq, takeSlot_module]
    refine ⟨fun action lost => ?_, fun free => ⟨fun action role there' => ?_, fun action notHeld kept => ?_⟩⟩
    · have lost' : lostState ((takeSlot k s).2.module p).state = true := by
        rw [record]
        rcases lost with e | e <;> rw [e] <;> rfl
      obtain ⟨t, e, host, waits, modules⟩ := bringBack_lost (nextHeld s k) quiet' rest wait' noRole' lost'
      have self := (modules p).trans (if_pos rfl)
      rw [record, pln] at self
      obtain ⟨roleOf, replacedOf, role⟩ := returned_failures s.pln.plan p (s.module p) noRole
      obtain ⟨batch, state, failures, _, replaced, role', bands'⟩ :=
        enterRecord_booting (m := { returned s.pln.plan p (s.module p) with failures := 0 }) roleOf .boot
      refine ⟨t, ?_, host.slotTaken wf ready, ?_, ?_, ?_, ?_, ?_, ?_, ?_, waits, others modules⟩
      · rw [action]
        exact (congrArg settled (acts .inService)).trans e
      · rw [self]
        exact state
      · rw [self]
      · rw [self]
        exact failures
      · rw [self]
        exact batch
      · rw [self]
        exact replaced.trans replacedOf
      · rw [mrstActive, self]
        rfl
      · rw [self]
        exact (congrArg₂ Prod.mk role' bands').trans role
    · obtain ⟨t, e, ord, smp, table, modules⟩ := takeOut_settles (nextHeld s k) quiet' rest wait' (by rw [mlc, free]) noRole'
        (by rwa [record])
      have states (q : Pos) : (t.module q).state = if q = p then .outOfService else (s.module q).state := by
        rw [modules, takenOut_state noRole', takeSlot_module]
      have moved : LinkMoves true (takeSlot k s).2 (takenOut p (takeSlot k s).2) := takenOut_moves wait'
      have completed := (completed_of_takeSlot .done 6 wf moved.sameHost (moved.clock.trans clock)).of_same ord smp
      refine ⟨t, ?_, ?_, ?_, completed, ?_, fun q hq => by rw [states, if_neg hq], fun q active stands lower => ?_, fun h => ?_⟩
      · rw [action]
        exact (congrArg settled (acts .outOfService)).trans e
      · rw [states, if_pos rfl]
      · rw [mrstActive, states, if_pos rfl]
      · rw [table, ctu]
        rfl
      · have sub := takenOut_substitutes (s := (takeSlot k s).2) (q := q) noRole' (by rw [record, active])
          (by rw [takeSlot_module]; exact (canSubstitute_iff _).mpr stands) fun x hx => by
            rw [takeSlot_module, Bool.eq_false_iff]
            exact fun c => lower x hx ((canSubstitute_iff _).mp c)
        obtain ⟨becomes, replaced, same⟩ := sub
        refine ⟨by rw [modules, becomes], by rw [modules, replaced], fun x hx => ?_⟩
        rw [modules, same x hx, takeSlot_module]
      · have keeps := takenOut_keeps_roles (s := (takeSlot k s).2) noRole' (h.imp (fun spare => by rw [record, spare])
          fun nobody q => by
            rw [takeSlot_module, Bool.eq_false_iff]
            exact fun c => nobody q ((canSubstitute_iff _).mp c))
        obtain ⟨same, replaced⟩ := keeps
        exact ⟨fun q => by rw [modules, same, takeSlot_module], by rw [modules, replaced, record]⟩
    · obtain ⟨t, e, host, waits, modules⟩ := restartModule_boots (nextHeld s k) quiet' rest wait' (by rw [mlc, free]) noRole'
        (by rwa [record]) (by rwa [record])
      have self := (modules p).trans (if_pos rfl)
      rw [record] at self
      obtain ⟨_, state, failures, restart, _⟩ :=
        enterRecord_booting (m := { s.module p with failures := 0, restart := none }) noRole .reset
      refine ⟨t, ?_, host.slotTaken wf ready, ?_, ?_, ?_, ?_, ?_, waits, others modules⟩
      · rw [action]
        exact (congrArg settled (acts .restart)).trans e
      · rw [self]
        exact state
      · rw [self]
      · rw [self]
        exact failures
      · rw [self]
        exact restart
      · rw [mrstActive, self]
        rfl

end Sys2Proof.Machine
end

section
/-! PROOFS. Lookups in the carrier table after an outcome, what CAL shows of the hunt's reports, the checks after a record,
and the progress of attempts (O41). -/

namespace Sys2Proof.Machine

/-! ### The entry of a key (R1, R15) -/

theorem findEntry_of_absent {k : Key} {table : List Entry} (h : ∀ x ∈ table, x.key ≠ k) : findEntry table k = none := by
  simpa [findEntry] using h

theorem findEntry_placeEntry {e : Entry} {table : List Entry} (h : ∀ x ∈ table, x.key ≠ e.key) :
    findEntry (placeEntry e table) e.key = some e := by
  induction table with
  | nil => simp [findEntry, placeEntry]
  | cons x rest ih =>
    obtain ⟨other, others⟩ := List.forall_mem_cons.mp h
    unfold placeEntry
    split
    · simp [findEntry]
    · have ih : (placeEntry e rest).find? (fun y => y.key == e.key) = some e := ih others
      simp [findEntry, other, ih]

/-- A re-placed entry is the one its key finds. -/
theorem findEntry_rescoreKey {plan : Plan} {k : Key} {f : Entry → Entry} {table : List Entry} {e : Entry}
    (h : findEntry table k = some e) (hf : (f e).key = e.key) :
    findEntry (rescoreKey plan k f table) k = some (rescored plan (f e)) := by
  obtain ⟨_, key⟩ := findEntry_some h
  have key' : (rescored plan (f e)).key = k := hf.trans key
  have fresh := findEntry_placeEntry (e := rescored plan (f e)) (table := dropKey (rescored plan (f e)).key table)
    fun x hx => (mem_dropKey.mp hx).2
  simp only [rescoreKey, h, replaceEntry]
  rwa [key'] at fresh ⊢

theorem findEntry_updateInPlace {k : Key} {f : Entry → Entry} {table : List Entry} {e : Entry}
    (h : findEntry table k = some e) (hf : ∀ x, (f x).key = x.key) :
    findEntry (updateInPlace k f table) k = some (f e) := by
  induction table with
  | nil => cases h
  | cons x rest ih =>
    by_cases here : x.key = k
    · simp only [findEntry, List.find?_cons, here, beq_self_eq_true, Option.some.injEq] at h
      subst h
      simp [findEntry, updateInPlace, here, hf]
    · have h : findEntry rest k = some e := by simpa [findEntry, here] using h
      have head : (if x.key == k then f x else x) = x := by simp [here]
      rw [findEntry, updateInPlace, List.map_cons, head, List.find?_cons_of_neg (by simp [here])]
      exact ih h

/-- An entry that has taken a failure with a last outcome: what REFUSED and TIMEOUT do to it (R15, R16). -/
def failed (plan : Plan) (last : LastOutcome) (e : Entry) : Entry :=
  rescored plan
    { e with failures := min (e.failures + 1) 7, last := last, inAttempt := false
             bench := if 6 ≤ e.failures then some plan.hunt.benchTime else e.bench }

theorem removeIfLost_of_there {modules : PerPos Module} {k : Key} (h : lostState (modules.get k.pos).state = false)
    (table : List Entry) : removeIfLost modules k table = table := by
  simp [removeIfLost, h]

/-- The outcome of an attempt on a carrier whose module is there: the table after it, its publication, nothing else. -/
theorem ctuOutcome_eq {o : Outcome} {k : Key} {s : State} {e : Entry} (sound : s.pln.damaged = [])
    (found : findEntry s.ctu.table k = some e) (there : lostState (s.module k.pos).state = false) :
    ∃ g c, ctuOutcome o k s = (s.withCtu { s.ctu with table := outcomeTable s.pln.plan o k s.ctu.table, mirrorGen := g }).withSmp
      { s.smp with causes := c } := by
  simp only [ctuOutcome, found, touchAll_sound sound]
  rw [removeIfLost_of_there (show lostState (s.mlc.modules.get k.pos).state = false from there)]
  exact publishTable_eq _ _ _

/-- An outcome report moves the carriers and the causes at most. -/
theorem ctuOutcome_moves {o : Outcome} {k : Key} {s : State} (sound : s.pln.damaged = []) :
    ∃ x c, ctuOutcome o k s = (s.withCtu x).withSmp { s.smp with causes := c } := by
  unfold ctuOutcome
  split
  · exact ⟨s.ctu, s.smp.causes, rfl⟩
  · simp only [touchAll_sound sound]
    obtain ⟨g, c, h⟩ := publishTable_eq s.ctu.table true
      (s.withCtu { s.ctu with table := removeIfLost s.mlc.modules k (outcomeTable s.pln.plan o k s.ctu.table) })
    exact ⟨_, c, h⟩

theorem findEntry_outcome_failed {plan : Plan} {o : Outcome} {last : LastOutcome} {k : Key} {table : List Entry} {e : Entry}
    (h : findEntry table k = some e) (kind : (o = .refused ∧ last = .refused) ∨ (o = .timeout ∧ last = .timeout)) :
    findEntry (outcomeTable plan o k table) k = some (failed plan last e) := by
  rcases kind with ⟨rfl, rfl⟩ | ⟨rfl, rfl⟩ <;>
    exact findEntry_rescoreKey h rfl

theorem failed_score (plan : Plan) (last : LastOutcome) (e : Entry) :
    failed plan last e = { e with
      failures := min (e.failures + 1) 7, last := last, inAttempt := false
      score := scoreOf plan (failed plan last e)
      bench := if 6 ≤ e.failures then some plan.hunt.benchTime else e.bench } := rfl

/-! ### What CAL shows of the hunt (R88) -/

/-- The hunt's reports that only change what CAL shows. -/
def shows : Msg → Bool
  | .calHuntStarted => true
  | .calRounds _ => true
  | .calRecord _ _ => true
  | .calRecordEnd _ => true
  | .calBackoff _ => true
  | .calAttemptsClear => true
  | _ => false

/-- The call context after such a report. -/
def shown (x : Context) : Msg → Context
  | .calHuntStarted => { x with attempts := 0, rounds := 0 }
  | .calRounds n => { x with rounds := n }
  | .calRecord p y => { x with summaries := x.summaries.set p (some y), attempts := max x.attempts y.number }
  | .calRecordEnd p => { x with summaries := x.summaries.set p none }
  | .calBackoff n => { x with backoff := n }
  | .calAttemptsClear => if x.huntLink = .stopping then { x with huntLink := .none } else x
  | _ => x

/-- A clearing does not end at a report that CAL shows: the call is in another state, or the report is not of the attempts
being clear and the clearing is not over. -/
def ShowsQuietly (ms : List Msg) (s : State) : Prop :=
  s.cal.ctx.state ≠ .clearing ∨ (clearingOver s = false ∧ Msg.calAttemptsClear ∉ ms)

theorem shown_state (x : Context) (m : Msg) : (shown x m).state = x.state := by
  cases m <;> try rfl
  simp only [shown]
  split <;> rfl

theorem clearingOver_shown {m : Msg} {x : Context} {s : State} (hs : s.cal.ctx = x)
    (h : x.state ≠ .clearing ∨ (clearingOver s = false ∧ Msg.calAttemptsClear ≠ m)) :
    clearingOver (s.withCtx (shown x m)) = false := by
  rcases h with other | ⟨ongoing, notClear⟩
  · have state := shown_state x m
    simp [clearingOver, State.withCtx, state, other]
  · cases m <;> try exact hs ▸ ongoing
    exact absurd rfl notClear

/-- CAL publishes an event: the file's generation word and the causes move at most. -/
theorem publishCall_eq (before : Cal) (s : State) : ∃ g c, publishCall before s =
    (s.withCal { s.cal with fileGen := g }).withSmp { s.smp with causes := c } := by
  unfold publishCall
  split
  · exact ⟨s.cal.fileGen, s.smp.causes, rfl⟩
  · dsimp only
    split
    · exact ⟨s.cal.fileGen + 2, s.smp.causes, rfl⟩
    · exact ⟨s.cal.fileGen + 2, _, rfl⟩

/-- An event of CAL that does not end a clearing: its effect, and a publication. -/
theorem calEvent_eq {f : State → State} {s : State} (ongoing : clearingOver (f s) = false) : ∃ g c, calEvent f s =
    ((f s).withCal { (f s).cal with fileGen := g }).withSmp { (f s).smp with causes := c } := by
  have check : clearingCheck 3 (f s) = f s := by simp [clearingCheck, ongoing]
  rw [calEvent, check]
  exact publishCall_eq _ _

theorem handle_shows {m : Msg} {s : State} (h : shows m = true)
    (q : s.cal.ctx.state ≠ .clearing ∨ (clearingOver s = false ∧ Msg.calAttemptsClear ≠ m)) : ∃ g c, handle m s =
      (s.withCal { s.cal with ctx := shown s.cal.ctx m, fileGen := g }).withSmp { s.smp with causes := c } := by
  have taken {f : State → State} (same : f s = s.withCtx (shown s.cal.ctx m)) : ∃ g c, calEvent f s =
      (s.withCal { s.cal with ctx := shown s.cal.ctx m, fileGen := g }).withSmp { s.smp with causes := c } := by
    obtain ⟨g, c, e⟩ := calEvent_eq (f := f) (s := s) (by rw [same, clearingOver_shown rfl q])
    rw [same] at e
    exact ⟨g, c, e⟩
  cases m with
  | calHuntStarted => exact taken (f := fun s => s.withCtx { s.cal.ctx with attempts := 0, rounds := 0 }) rfl
  | calRounds n => exact taken (f := fun s => s.withCtx { s.cal.ctx with rounds := n }) rfl
  | calRecord p x => exact taken (f := takeRecord p x) rfl
  | calRecordEnd p => exact taken (f := clearSummary p) rfl
  | calBackoff n => exact taken (f := fun s => s.withCtx { s.cal.ctx with backoff := n }) rfl
  | calAttemptsClear =>
    refine taken (f := takeAttemptsClear) ?_
    simp only [takeAttemptsClear, shown]
    split <;> rfl
  | _ => cases h

/-- A run of such reports at the front of the inbox is taken, one after another. -/
theorem drain_shows (n : Nat) (ms rest : List Msg) {s : State} (inbox : s.inbox = ms ++ rest)
    (h : ∀ m ∈ ms, shows m = true) (q : ShowsQuietly ms s) : ∃ g c, drain (ms.length + n) s =
      drain n ((((s.withCal { s.cal with ctx := ms.foldl shown s.cal.ctx, fileGen := g }).withSmp
        { s.smp with causes := c })).withInbox rest) := by
  induction ms generalizing s with
  | nil =>
    refine ⟨s.cal.fileGen, s.smp.causes, ?_⟩
    have same : s.withInbox rest = s := by
      rw [← List.nil_append rest, ← inbox]
      rfl
    rw [List.length_nil, Nat.zero_add]
    exact congrArg (drain n) same.symm
  | cons m ms ih =>
    obtain ⟨shows', others⟩ := List.forall_mem_cons.mp h
    have bare : (s.withInbox []).cal.ctx.state ≠ .clearing ∨
        (clearingOver (s.withInbox []) = false ∧ Msg.calAttemptsClear ≠ m) :=
      q.imp id fun ⟨ongoing, absent⟩ => ⟨ongoing, fun e => absent (by simp [e])⟩
    obtain ⟨g, c, step⟩ := handle_shows shows' bare
    have after : drainOne m (ms ++ rest) s = (((s.withCal { s.cal with ctx := shown s.cal.ctx m, fileGen := g }).withSmp
        { s.smp with causes := c })).withInbox (ms ++ rest) := by
      rw [drainOne_of_quiet (by rw [step]; rfl), step]
      rfl
    have quietly : ShowsQuietly ms ((((s.withCal { s.cal with ctx := shown s.cal.ctx m, fileGen := g }).withSmp
        { s.smp with causes := c })).withInbox (ms ++ rest)) := by
      refine q.imp (fun other => ?_) fun ⟨ongoing, absent⟩ => ⟨?_, fun e => absent (by simp [e])⟩
      · change (shown s.cal.ctx m).state ≠ .clearing
        rwa [shown_state]
      · exact clearingOver_shown (s := s) rfl (Or.inr ⟨ongoing, fun e => absent (by simp [e])⟩)
    obtain ⟨g', c', rec⟩ := ih (s := _) rfl others quietly
    refine ⟨g', c', ?_⟩
    rw [List.length_cons, Nat.add_right_comm, drain, inbox]
    change drain (ms.length + n) (drainOne m (ms ++ rest) s) = _
    rw [after, rec]
    rfl

/-- A cascade of nothing but such reports: CAL shows them. -/
theorem drain_shows_all {n : Nat} {ms : List Msg} {s : State} (inbox : s.inbox = ms) (h : ∀ m ∈ ms, shows m = true)
    (short : ms.length ≤ n) (q : ShowsQuietly ms s) : ∃ g c, drain n s =
      (((s.withCal { s.cal with ctx := ms.foldl shown s.cal.ctx, fileGen := g }).withSmp
        { s.smp with causes := c })).withInbox [] := by
  obtain ⟨g, c, e⟩ := drain_shows (n - ms.length) ms [] (by rw [inbox, List.append_nil]) h q
  rw [Nat.add_sub_of_le short] at e
  exact ⟨g, c, e.trans (drain_of_inbox rfl)⟩

/-- A command that leaves nothing but such reports answers with CAL having shown them. -/
theorem settled_shows {ms : List Msg} {s : State} (inbox : s.inbox = ms) (h : ∀ m ∈ ms, shows m = true)
    (short : ms.length ≤ 1000) (q : ShowsQuietly ms s) : ∃ g c, settled s =
      .next ((((s.withCal { s.cal with ctx := ms.foldl shown s.cal.ctx, fileGen := g }).withSmp
        { s.smp with causes := c })).withInbox []) := by
  obtain ⟨g, c, e⟩ := drain_shows_all (n := 1000) inbox h short q
  exact ⟨g, c, congrArg Host.Outcome.next e⟩

/-! ### The dispatch of one event (R146) -/

theorem drain_cons (n : Nat) {s : State} {m : Msg} {rest : List Msg} (h : s.inbox = m :: rest) :
    drain (n + 1) s = drain n (drainOne m rest s) := by
  rw [drain, h]

/-- An event that one block takes: that block's doing, and what it sets off. -/
theorem settled_dispatch {p : Pos} {e : ModuleEvent} {m : Msg} {s : State} (quiet : s.inbox = [])
    (one : eventMessages p e = [m]) : settled (dispatchEvent p e s) = .next (drain 999 (handle m s)) := by
  have inbox : (dispatchEvent p e s).inbox = [m] := by
    rw [dispatchEvent, one, postAll, quiet]
    rfl
  have bare : (dispatchEvent p e s).withInbox [] = s := by
    rw [← quiet]
    rfl
  have first : drainOne m [] (dispatchEvent p e s) = handle m s := by
    simp only [drainOne, bare, inboxAfter_nil]
    rfl
  exact congrArg Host.Outcome.next ((drain_cons 999 inbox).trans (congrArg (drain 999) first))

/-! ### The checks after a record (R44, R45, R54) -/

@[simp] theorem record_withRecord (s : State) (p q : Pos) (a : Option Attempt) :
    (s.withRecord p a).record q = if q = p then a else s.record q := PerPos.get_set ..

/-- The end of a round of an EMERGENCY hunt: the backoff starts, and CAL is told the rounds and the pause (R61). -/
theorem endRound_emergency {s : State} (sound : s.pln.damaged = []) (kind : s.hnt.kind = .emergency) : ∃ h a b,
    endRound s = (s.withHnt h).withInbox (s.inbox ++ [.calRounds a, .calBackoff b]) ∧ h.records = s.hnt.records := by
  unfold endRound
  dsimp only
  split
  next test => exact absurd (test.symm.trans kind) (by decide)
  · have reads (m : Msg) (h : Hnt) : touchAll [20, 22] (post m (s.withHnt h)) = post m (s.withHnt h) :=
      touchAll_sound (s := post m (s.withHnt h)) sound _
    rw [reads]
    refine ⟨{ s.hnt with
      rounds := min (s.hnt.rounds + 1) 255, state := .backoff
      backoff := some (longTimer (1000 * backoffPause s.pln.plan (min (s.hnt.rounds + 1) 255))) },
      min (s.hnt.rounds + 1) 255, backoffPause s.pln.plan (min (s.hnt.rounds + 1) 255), ?_, rfl⟩
    simp only [post, State.withInbox, State.withHnt, List.append_assoc]
    rfl

/-- With no key left to launch, the checks may end the round of an EMERGENCY hunt, or say that the attempts are clear: no
record changes, and CAL is told the rounds, the backoff or that at most. -/
theorem recordChecks_emptySet {before s : State} (sound : s.pln.damaged = []) (set : s.hnt.set = [])
    (kind : s.hnt.kind = .emergency) : ∃ h ms, recordChecks before s = (s.withHnt h).withInbox (s.inbox ++ ms) ∧
      h.records = s.hnt.records ∧ ms.length ≤ 2 ∧ (∀ m ∈ ms, shows m = true) ∧
      ∀ x, (ms.foldl shown x).summaries = x.summaries := by
  have nothing : ∃ h ms, s = (s.withHnt h).withInbox (s.inbox ++ ms) ∧ h.records = s.hnt.records ∧ ms.length ≤ 2 ∧
      (∀ m ∈ ms, shows m = true) ∧ ∀ x, (ms.foldl shown x).summaries = x.summaries :=
    ⟨s.hnt, [], by rw [List.append_nil]; rfl, rfl, by simp, by simp, fun _ => rfl⟩
  unfold recordChecks
  split
  · split
    · refine ⟨s.hnt, [.calAttemptsClear], rfl, rfl, by simp, by simp [shows], fun x => ?_⟩
      simp only [List.foldl_cons, List.foldl_nil, shown]
      split <;> rfl
    · exact nothing
  · have closed : launchOpen s = false := by simp [launchOpen, firstFree, set]
    have launched : launchCheck s = s := by simp [launchCheck, launchLoop, closed]
    rw [huntChecks, launched, roundEndCheck]
    split
    · obtain ⟨h, a, b, ended, records⟩ := endRound_emergency sound kind
      exact ⟨h, [.calRounds a, .calBackoff b], ended, records, by simp, by simp [shows], fun _ => rfl⟩
    · exact nothing

end Sys2Proof.Machine
end

section
/-! PROOFS. The progress of attempts (O41). -/

namespace Sys2Proof.Machine

theorem connecting_of {x : AttemptState} (h : x = .sent ∨ x = .proceeding ∨ x = .alerting) : connecting x = true := by
  rcases h with rfl | rfl | rfl <;> rfl

/-- A record put in place and shown: the record, the summary, the causes, and nothing else. -/
theorem settled_putRecord (p : Pos) (b : Attempt) {s : State} (quiet : s.inbox = []) (ongoing : clearingOver s = false)
    (n : Nat) : ∃ t, drain (n + 1) (putRecord p b s) = t ∧ t.record p = some b ∧
      t.cal.ctx.summaries.get p = some ⟨b.number, b.state, b.outcome, b.form⟩ ∧
      ((t.withHnt s.hnt).withCal s.cal).withSmp s.smp = s ∧
      { t.hnt with records := s.hnt.records } = s.hnt ∧ ∀ q, q ≠ p → t.record q = s.record q := by
  have inbox : (putRecord p b s).inbox = [.calRecord p (summaryOf b)] := by
    rw [putRecord, post]
    exact congrArg (· ++ [Msg.calRecord p (summaryOf b)]) quiet
  obtain ⟨g, c, e⟩ := drain_shows_all (n := n + 1) inbox (by simp [shows]) (by simp) (Or.inr ⟨ongoing, by simp⟩)
  refine ⟨_, e, ?_, ?_, ?_, rfl, fun q other => ?_⟩
  · exact (record_withRecord s p p (some b)).trans (if_pos rfl)
  · exact (PerPos.get_set _ _ _ _).trans (if_pos rfl)
  · rw [← quiet]
    rfl
  · exact (record_withRecord s p q (some b)).trans (if_neg other)

theorem shownAll_state (ms : List Msg) (x : Context) : (ms.foldl shown x).state = x.state := by
  induction ms generalizing x with
  | nil => rfl
  | cons m ms ih => exact (ih _).trans (shown_state x m)

/-- CALL_PROCEEDING and CALL_ALERTING (O41, the first part). -/
theorem progress_of_record {s : State} {p : Pos} (calm : calmPart s = true) (ongoing : clearingOver s = false)
    {a : Attempt} (record : s.record p = some a) {e : ModuleEvent} {b : Attempt}
    (one : eventMessages p e = [.hntEvent p e]) (applied : applyEvent p a e s = putRecord p b s) :
    ∃ t, settled (dispatchEvent p e s) = .next t ∧ t.record p = some b ∧
      t.cal.ctx.summaries.get p = some ⟨b.number, b.state, b.outcome, b.form⟩ ∧
      ((t.withHnt s.hnt).withCal s.cal).withSmp s.smp = s ∧
      { t.hnt with records := s.hnt.records } = s.hnt ∧ ∀ q, q ≠ p → t.record q = s.record q := by
  obtain ⟨quiet, _⟩ := (calmPart_iff s).mp calm
  have taken : handle (.hntEvent p e) s = putRecord p b s := by
    change hntTakeEvent p e s = _
    rw [hntTakeEvent, record]
    exact applied
  obtain ⟨t, run, rest⟩ := settled_putRecord p b quiet ongoing 998
  exact ⟨t, by rw [settled_dispatch quiet one, taken, run], rest⟩

theorem no_progress_without_record {s : State} {p : Pos} (calm : calmPart s = true) (record : s.record p = none)
    {e : ModuleEvent} (one : eventMessages p e = [.hntEvent p e]) (notAnswer : e ≠ .answered) :
    settled (dispatchEvent p e s) = .next s := by
  obtain ⟨quiet, _⟩ := (calmPart_iff s).mp calm
  have taken : handle (.hntEvent p e) s = s := by
    change hntTakeEvent p e s = _
    simp [hntTakeEvent, record, notAnswer]
  rw [settled_dispatch quiet one, taken, drain_of_inbox quiet]

/-- A request of a call operation for a free place, with room, joins the queue. -/
theorem enqueue_free {kind : ReqKind} (call : callOperation kind = true) (o : Requester) {p : Pos} {s : State}
    (free : callPlaceFree p s = true) (payload : List Byte) : enqueue o p kind payload s =
      (.queued (s.mlc.nextNumber + 1), s.withMlc { s.mlc with
        queue := s.mlc.queue ++ [nextRequest s o p kind payload], nextNumber := s.mlc.nextNumber + 1 }) := by
  simp only [callPlaceFree, Bool.and_eq_true, Option.isNone_iff_eq_none, roomFor, decide_eq_true_eq] at free
  obtain ⟨place, room⟩ := free
  have room : s.mlc.queue.length < Config.queueCapacity := by omega
  simp only [enqueue, call, if_true, place, queueWithRoom, room]
  rfl

/-- A record whose RELEASE is queued at once waits in RELEASING. -/
theorem beginRelease_free {p : Pos} {a : Attempt} {o : Outcome} {s : State} (free : callPlaceFree p s = true) :
    beginRelease p a o s = putRecord p
      { releasing a o with request := some (s.mlc.nextNumber + 1), strayOnEnd := false, releaseOnReply := false }
      (s.withMlc { s.mlc with
        queue := s.mlc.queue ++ [nextRequest s .attempt p .release []], nextNumber := s.mlc.nextNumber + 1 }) := by
  simp only [beginRelease, enqueue_free (kind := .release) rfl .attempt free]

/-- The timer of an attempt that has been sent (O41, the second part). -/
theorem attemptTimer_releases {s : State} {p : Pos} {a : Attempt} (calm : calmPart s = true)
    (kind : s.hnt.kind = .emergency) (record : s.record p = some a) (timer : a.timer.isSome = true)
    (sent : a.state = .sent ∨ a.state = .proceeding ∨ a.state = .alerting) (set : s.hnt.set = [])
    (free : callPlaceFree p s = true) (other : s.cal.ctx.state ≠ .clearing) :
    ∃ t, exec (.attemptTimerExpiry p) s = .next t ∧
      t.record p = some
        { a with
          state := .releasing, timer := none, outcome := .timeout, request := some (s.mlc.nextNumber + 1)
          strayOnEnd := false, releaseOnReply := false } ∧
      (∀ q, q ≠ p → t.record q = s.record q) ∧
      t.mlc.queue = s.mlc.queue ++ [nextRequest s .attempt p .release []] ∧ t.ctu = s.ctu ∧ t.wch = s.wch ∧
      t.vsw = s.vsw ∧ t.lmu = s.lmu ∧ t.cal.ctx.state = s.cal.ctx.state := by
  obtain ⟨quiet, sound⟩ := (calmPart_iff s).mp calm
  obtain ⟨h, ms, checked, records, short, calm', _⟩ := recordChecks_emptySet (before := s)
    (s := beginRelease p a .timeout s) (by rw [beginRelease_free free]; exact sound)
    (by rw [beginRelease_free free]; exact set) (by rw [beginRelease_free free]; exact kind)
  have expiry : hntAttemptExpiry p s = ((beginRelease p a .timeout s).withHnt h).withInbox
      ((beginRelease p a .timeout s).inbox ++ ms) := by
    rw [← checked]
    simp only [hntAttemptExpiry, record]
    exact if_pos ⟨timer, connecting_of sent⟩
  rw [beginRelease_free free] at expiry records
  have posted : (hntAttemptExpiry p s).inbox = .calRecord p (summaryOf
      { releasing a .timeout with request := some (s.mlc.nextNumber + 1), strayOnEnd := false, releaseOnReply := false })
        :: ms := by
    rw [expiry]
    simp only [putRecord, post, State.withInbox_inbox]
    exact congrArg (· ++ _ ++ ms) quiet
  have state : (hntAttemptExpiry p s).cal.ctx.state ≠ .clearing := by
    rw [expiry]
    exact other
  obtain ⟨g, c, e⟩ := settled_shows posted (by simpa [shows] using calm') (by simp; omega) (Or.inl state)
  rw [expiry] at e
  refine ⟨_, (congrArg settled expiry).trans e, ?_, fun q apart => ?_, rfl, rfl, rfl, rfl, rfl, ?_⟩
  · change h.records.get p = _
    rw [records]
    exact (PerPos.get_set _ _ _ _).trans (if_pos rfl)
  · change h.records.get q = _
    rw [records]
    exact (PerPos.get_set _ _ _ _).trans (if_neg apart)
  · exact shownAll_state _ _

/-! ### The end of an attempt by its module's report (R50, R54) -/

/-- A record ends: its outcome to CTU, the record out, its end to CAL. -/
theorem endRecord_eq {p : Pos} {a : Attempt} {o : Outcome} {s : State} (sound : s.pln.damaged = [])
    (stray : a.strayOnEnd = false) : ∃ x c, endRecord p a o s =
      (((s.withCtu x).withSmp { s.smp with causes := c }).withRecord p none).withInbox (s.inbox ++ [.calRecordEnd p]) ∧
      ctuOutcome o a.key s = (s.withCtu x).withSmp { s.smp with causes := c } := by
  obtain ⟨x, c, e⟩ := ctuOutcome_moves (o := o) (k := a.key) sound
  refine ⟨x, c, ?_, e⟩
  simp only [endRecord, stray, dropRecord, e]
  rfl

/-- A record ended, and the checks after it: no record at the position, the outcome with its carrier, and reports that CAL
only shows. -/
theorem endRecord_checked {p : Pos} {a : Attempt} {o : Outcome} {s : State} (sound : s.pln.damaged = [])
    (stray : a.strayOnEnd = false) (set : s.hnt.set = []) (kind : s.hnt.kind = .emergency) :
    ∃ x c h ms, recordChecks s (endRecord p a o s) =
      ((((s.withCtu x).withSmp { s.smp with causes := c }).withHnt h)).withInbox (s.inbox ++ .calRecordEnd p :: ms) ∧
      ctuOutcome o a.key s = (s.withCtu x).withSmp { s.smp with causes := c } ∧
      h.records = s.hnt.records.set p none ∧ ms.length ≤ 2 ∧ (∀ m ∈ ms, shows m = true) ∧
      ∀ y, (ms.foldl shown y).summaries = y.summaries := by
  obtain ⟨x, c, ended, outcome⟩ := endRecord_eq (p := p) (o := o) sound stray
  obtain ⟨h, ms, checked, records, short, calm, summaries⟩ := recordChecks_emptySet (before := s)
    (s := endRecord p a o s) (by rw [ended]; exact sound) (by rw [ended]; exact set) (by rw [ended]; exact kind)
  refine ⟨x, c, h, ms, ?_, outcome, ?_, short, calm, summaries⟩
  · rw [checked, ended]
    simp only [State.withInbox_inbox, List.append_assoc]
    rfl
  · rw [records, ended]
    rfl

theorem shown_serving (x : Context) (m : Msg) : (shown x m).serving = x.serving := by
  cases m <;> try rfl
  simp only [shown]
  split <;> rfl

theorem shownAll_serving (ms : List Msg) (x : Context) : (ms.foldl shown x).serving = x.serving := by
  induction ms generalizing x with
  | nil => rfl
  | cons m ms ih => exact (ih _).trans (shown_serving x m)

/-- A report that belongs to no stream is taken after whatever another event has set off. -/
theorem inboxAfter_unordered {newer : List Msg} {m : Msg} (h : stream m = none) : inboxAfter newer [m] = newer ++ [m] := by
  simp [inboxAfter, goesFirst, h]

/-- An event that HNT and CAL take, of which CAL makes nothing: HNT's doing, then what it has posted, then CAL's turn. -/
theorem settled_ended {p : Pos} {e : ModuleEvent} {s u : State} {ms : List Msg} (quiet : s.inbox = [])
    (two : eventMessages p e = [.hntEvent p e, .calEvent p e]) (taken : hntTakeEvent p e s = u) (posted : u.inbox = ms)
    (shown : ∀ m ∈ ms, shows m = true) (short : ms.length ≤ 3) (other : s.cal.ctx.state ≠ .clearing)
    (state : u.cal = s.cal) (passes : ∀ v : State, v.cal.ctx.state = s.cal.ctx.state →
      v.cal.ctx.serving = s.cal.ctx.serving → takeModuleEvent p e v = v) :
    ∃ g c, settled (dispatchEvent p e s) = .next
      (((u.withCal { s.cal with ctx := ms.foldl Machine.shown s.cal.ctx, fileGen := g }).withSmp
        { u.smp with causes := c }).withInbox []) := by
  have first : drain 1000 (dispatchEvent p e s) = drain 999 (u.withInbox (ms ++ [.calEvent p e])) := by
    have inbox : (dispatchEvent p e s).inbox = [.hntEvent p e, .calEvent p e] := by
      rw [dispatchEvent, two, postAll, quiet]
      rfl
    have bare : (dispatchEvent p e s).withInbox [] = s := by
      rw [← quiet]
      rfl
    have one : drainOne (.hntEvent p e) [.calEvent p e] (dispatchEvent p e s) =
        u.withInbox (inboxAfter u.inbox [.calEvent p e]) := by
      rw [drainOne, bare, ← taken]
      rfl
    rw [drain_cons 999 inbox, one, posted, inboxAfter_unordered rfl]
  obtain ⟨g, c, shownAll⟩ := drain_shows (999 - ms.length) ms [.calEvent p e] (s := u.withInbox (ms ++ [.calEvent p e]))
    rfl shown (Or.inl (show u.cal.ctx.state ≠ .clearing by rwa [state]))
  obtain ⟨n, left⟩ : ∃ n, 999 - ms.length = n + 1 := ⟨998 - ms.length, by omega⟩
  rw [Nat.add_sub_of_le (by omega), left] at shownAll
  have rest : drain (n + 1) ((((u.withInbox (ms ++ [.calEvent p e])).withCal
      { u.cal with ctx := ms.foldl Machine.shown u.cal.ctx, fileGen := g }).withSmp
        { u.smp with causes := c }).withInbox [.calEvent p e]) =
      ((u.withCal { u.cal with ctx := ms.foldl Machine.shown u.cal.ctx, fileGen := g }).withSmp
        { u.smp with causes := c }).withInbox [] := by
    have nothing : calEvent (takeModuleEvent p e) (((u.withCal
        { u.cal with ctx := ms.foldl Machine.shown u.cal.ctx, fileGen := g }).withSmp { u.smp with causes := c }).withInbox []) =
        ((u.withCal { u.cal with ctx := ms.foldl Machine.shown u.cal.ctx, fileGen := g }).withSmp
          { u.smp with causes := c }).withInbox [] := by
      have kept : (ms.foldl Machine.shown u.cal.ctx).state = s.cal.ctx.state := by rw [shownAll_state, state]
      refine calEvent_of_no_effect (passes _ kept ?_) ?_
      · change (ms.foldl Machine.shown u.cal.ctx).serving = s.cal.ctx.serving
        rw [shownAll_serving, state]
      · have other' : (ms.foldl Machine.shown u.cal.ctx).state ≠ .clearing := by rwa [kept]
        simp [clearingOver, other']
    have last := drainOne_of_quiet (m := .calEvent p e) (rest := []) (s := (((u.withInbox (ms ++ [.calEvent p e])).withCal
      { u.cal with ctx := ms.foldl Machine.shown u.cal.ctx, fileGen := g }).withSmp
        { u.smp with causes := c }).withInbox [.calEvent p e]) (congrArg State.inbox nothing)
    rw [drain_cons n rfl, last]
    exact (congrArg (fun v : State => drain n (v.withInbox [])) nothing).trans (drain_of_inbox rfl)
  refine ⟨g, c, congrArg Host.Outcome.next ?_⟩
  rw [← state]
  exact first.trans (shownAll.trans rest)

/-- A report that ends a connecting attempt: the record is gone, its carrier has taken a failure, CAL shows no summary
(O41, the third part). -/
theorem attempt_ends {s : State} {p : Pos} {a : Attempt} {e : Entry} {v : ModuleEvent} {o : Outcome} {last : LastOutcome}
    (calm : calmPart s = true) (kind : s.hnt.kind = .emergency) (record : s.record p = some a)
    (sent : a.state = .sent ∨ a.state = .proceeding ∨ a.state = .alerting) (stray : a.strayOnEnd = false)
    (set : s.hnt.set = []) (pos : a.key.pos = p) (found : findEntry s.ctu.table a.key = some e)
    (there : lostState (s.module p).state = false) (other : s.cal.ctx.state ≠ .clearing)
    (two : eventMessages p v = [.hntEvent p v, .calEvent p v]) (applied : applyEvent p a v s = endByEvent p a o s)
    (outcome : (o = .refused ∧ last = .refused) ∨ (o = .timeout ∧ last = .timeout))
    (passes : ∀ u : State, u.cal.ctx.state = s.cal.ctx.state → u.cal.ctx.serving = s.cal.ctx.serving →
      takeModuleEvent p v u = u) :
    ∃ t, settled (dispatchEvent p v s) = .next t ∧ t.record p = none ∧ (∀ q, q ≠ p → t.record q = s.record q) ∧
      (∃ x : Entry, findEntry t.ctu.table a.key = some x ∧ x = { e with
        failures := min (e.failures + 1) 7, last := last, inAttempt := false, score := scoreOf s.pln.plan x
        bench := if 6 ≤ e.failures then some s.pln.plan.hunt.benchTime else e.bench }) ∧
      t.cal.ctx.summaries.get p = none ∧ t.cal.ctx.state = s.cal.ctx.state ∧ t.mlc = s.mlc ∧ t.vsw = s.vsw ∧
      t.wch = s.wch ∧ t.lmu = s.lmu ∧ t.pln = s.pln := by
  obtain ⟨quiet, sound⟩ := (calmPart_iff s).mp calm
  obtain ⟨x, c, h, ms, checked, table, records, short, calm', summaries⟩ :=
    endRecord_checked (p := p) (o := o) sound stray set kind
  obtain ⟨g, c', table'⟩ := ctuOutcome_eq (o := o) sound found (pos ▸ there)
  have carriers : x.table = outcomeTable s.pln.plan o a.key s.ctu.table :=
    congrArg (fun u : State => u.ctu.table) (table.symm.trans table')
  have taken : hntTakeEvent p v s = ((((s.withCtu x).withSmp { s.smp with causes := c }).withHnt h)).withInbox
      (s.inbox ++ .calRecordEnd p :: ms) := by
    rw [← checked, hntTakeEvent, record]
    exact applied.trans (if_pos (connecting_of sent))
  obtain ⟨g', c'', run⟩ := settled_ended quiet two taken (ms := .calRecordEnd p :: ms) (by rw [quiet]; rfl)
    (by simpa [shows] using calm') (by simp; omega) other rfl passes
  refine ⟨_, run, ?_, fun q apart => ?_, ?_, ?_, ?_, rfl, rfl, rfl, rfl, rfl⟩
  · change h.records.get p = none
    rw [records]
    exact (PerPos.get_set _ _ _ _).trans (if_pos rfl)
  · change h.records.get q = _
    rw [records]
    exact (PerPos.get_set _ _ _ _).trans (if_neg apart)
  · refine ⟨failed s.pln.plan last e, ?_, failed_score ..⟩
    change findEntry x.table a.key = _
    rw [carriers]
    exact findEntry_outcome_failed found outcome
  · change (ms.foldl shown (shown s.cal.ctx (.calRecordEnd p))).summaries.get p = none
    rw [summaries]
    exact (PerPos.get_set _ _ _ _).trans (if_pos rfl)
  · exact shownAll_state _ _

theorem takeEnded_elsewhere {p : Pos} (x : EndCause) {u : State} (other : u.cal.ctx.state ≠ .clearing)
    (serving : servingPos u.cal.ctx.serving ≠ some p) : takeEnded p x u = u := by
  simp [takeEnded, servesAt, serving, endPendingRelease, other]

theorem takeServiceLost_elsewhere {p : Pos} {u : State} (serving : servingPos u.cal.ctx.serving ≠ some p) :
    takeServiceLost p u = u := by
  simp [takeServiceLost, servesAt, serving]

theorem endedOutcome_last (x : EndCause) {last : LastOutcome}
    (h : last = if x = .refusedNetwork ∨ x = .numberRejected then .refused else .timeout) :
    (endedOutcome x = .refused ∧ last = .refused) ∨ (endedOutcome x = .timeout ∧ last = .timeout) := by
  subst h
  cases x <;> simp [endedOutcome]

/-- Settles O41: progress by `progress_of_record`, the timer by `attemptTimer_releases`, the end by `attempt_ends`. -/
theorem attemptsProgressAndTimeOut : Obligations.AttemptsProgressAndTimeOut := by
  refine ⟨fun s p calm ongoing => ⟨fun none => ⟨?_, ?_⟩, fun a record => ⟨fun sent => ?_, fun sent => ?_⟩⟩, ?_, ?_⟩
  · exact no_progress_without_record (e := .proceeding) calm none rfl (by simp)
  · exact no_progress_without_record (e := .alerting) calm none rfl (by simp)
  · exact progress_of_record (e := .proceeding) calm ongoing record rfl (if_pos sent)
  · obtain ⟨_, sound⟩ := (calmPart_iff s).mp calm
    refine progress_of_record (e := .alerting) (b := { a with
      state := .alerting, timer := some (1000 * s.pln.plan.hunt.answerTimeout) }) calm ongoing record rfl ?_
    simp only [applyEvent, touch_sound sound]
    exact if_pos sent
  · intro s p a calm kind record timer sent set free other
    exact attemptTimer_releases calm kind record timer sent set free other
  · intro s p a e c last calm kind record sent stray set pos found there other elsewhere command
    have ends {v : ModuleEvent} {o : Outcome} := attempt_ends (v := v) (o := o) (last := last) calm kind record sent stray
      set pos found there other
    rcases command with ⟨x, rfl, lastIs⟩ | ⟨rfl, rfl⟩
    · refine ends (v := .ended x) rfl rfl (endedOutcome_last x lastIs) fun u state serving => ?_
      exact takeEnded_elsewhere x (by rwa [state]) (by rwa [serving])
    · refine ends (v := .serviceLost) (o := .timeout) rfl rfl (Or.inr ⟨rfl, rfl⟩) fun u state serving => ?_
      exact takeServiceLost_elsewhere (by rwa [serving])

end Sys2Proof.Machine
end

section
/-! PROOFS. The intake of cell reports and of levels, on the carrier table alone (R3 to R8, R28). -/

namespace Sys2Proof.Machine

/-! ### Placing in rank order (R28) -/

theorem Placed.cons {x y : Entry} {old new : List Entry} (h : Placed x old new) (above : ranksAbove x y = false) :
    Placed x (y :: old) (y :: new) := by
  obtain ⟨hi, lo, rfl, rfl, higher, lower⟩ := h
  exact ⟨y :: hi, lo, rfl, rfl, List.forall_mem_cons.mpr ⟨above, higher⟩, lower⟩

/-- What stands above an entry stands above all that this entry is not below. -/
theorem ranksAbove_of_above {x y z : Entry} (h : ranksAbove x y = true) (g : ranksAbove z y = false) :
    ranksAbove x z = true := by
  cases back : ranksAbove y z with
  | true => exact ranksAbove_trans h back
  | false =>
    obtain ⟨score, pos, channel, seq⟩ := ranksAbove_total back g
    have same : ranksAbove x z = ranksAbove x y := by simp only [ranksAbove, score, pos, channel, seq]
    rw [same, h]

/-- In a table in rank order an entry is placed below all that it does not rank above (R6, R28). -/
theorem placed_placeEntry {x : Entry} {table : List Entry} (h : table.Pairwise (fun a b => ranksAbove b a = false)) :
    Placed x table (placeEntry x table) := by
  induction table with
  | nil => exact ⟨[], [], rfl, rfl, by simp, by simp⟩
  | cons y rest ih =>
    obtain ⟨order, others⟩ := List.pairwise_cons.mp h
    unfold placeEntry
    split
    next above =>
      refine ⟨[], y :: rest, rfl, rfl, by simp, List.forall_mem_cons.mpr ⟨above, fun z hz => ?_⟩⟩
      exact ranksAbove_of_above above (order z hz)
    next below => exact (ih others).cons (by simpa using below)

/-! ### The place of a key in a table (R1) -/

/-- Where an entry stands in a table with distinct keys, its key finds it, and stands nowhere else. -/
theorem key_of_split {table hi lo : List Entry} {e : Entry} (h : table.Pairwise (fun a b => b.key ≠ a.key))
    (split : table = hi ++ e :: lo) : findEntry table e.key = some e ∧ dropKey e.key table = hi ++ lo := by
  subst split
  obtain ⟨_, after, apart⟩ := List.pairwise_append.mp h
  obtain ⟨lower, _⟩ := List.pairwise_cons.mp after
  have before (x : Entry) (hx : x ∈ hi) : x.key ≠ e.key := fun same => apart x hx e (by simp) same.symm
  constructor
  · have none : hi.find? (fun x => x.key == e.key) = .none := by simpa using before
    simp [findEntry, List.find?_append, none]
  · have upper : dropKey e.key hi = hi := by
      simpa [dropKey] using before
    have under : dropKey e.key lo = lo := by
      simpa [dropKey] using lower
    have whole : dropKey e.key (hi ++ e :: lo) = dropKey e.key hi ++ dropKey e.key lo := by simp [dropKey]
    rw [whole, upper, under]

/-- An entry changed, rescored and re-placed in a sound table (R5, R29). -/
theorem placed_rescoreKey {plan : Plan} {table hi lo : List Entry} {e : Entry} {f : Entry → Entry} (h : TableOk table)
    (split : table = hi ++ e :: lo) (hf : (f e).key = e.key) :
    Placed (rescored plan (f e)) (hi ++ lo) (rescoreKey plan e.key f table) := by
  obtain ⟨found, dropped⟩ := key_of_split h.keys split
  have key : (rescored plan (f e)).key = e.key := hf
  rw [rescoreKey, found]
  change Placed _ _ (placeEntry _ (dropKey (rescored plan (f e)).key table))
  rw [key, dropped]
  refine placed_placeEntry ?_
  rw [← dropped]
  exact (h.filter _).rank

/-! ### The fields that a report is taken with (R4) -/

theorem clampLevel_eq (l : Int) : clampLevel l = levelTaken l := by
  unfold clampLevel levelTaken
  split <;> omega

theorem clampQuality_eq (q : Option Nat) : clampQuality q = qualityTaken q := by
  cases q with
  | none => rfl
  | some x =>
    simp only [clampQuality, qualityTaken, Option.map_some, Option.some.injEq]
    split <;> omega

/-- The entry that R6 gives a report, with a score. -/
def scoredEntry (plan : Plan) (p : Pos) (r : CellReport) (b : Band) (seq score : Nat) : Entry :=
  { key := reportKey p r, band := b, level := levelTaken r.level, quality := qualityTaken r.quality
    networkBarred := r.barred, planBarred := barredBy plan r.tag, failures := 0, bench := none, age := 0
    score := score, last := .none, inAttempt := false, serving := false, seq := seq }

theorem newEntry_eq (plan : Plan) (p : Pos) (r : CellReport) (b : Band) (seq : Nat) :
    newEntry plan (reportKey p r) b r seq =
      scoredEntry plan p r b seq (scoreOf plan (scoredEntry plan p r b seq 0)) := by
  unfold newEntry scoredEntry
  rw [clampLevel_eq, clampQuality_eq]
  rfl

/-- The new entry of a report is the one that R6 gives, and no other is: a score does not read itself (R22). -/
theorem created_iff (plan : Plan) (p : Pos) (r : CellReport) (b : Band) (seq : Nat) (x : Entry) :
    Created plan p r b seq x ↔ x = newEntry plan (reportKey p r) b r seq := by
  have whole : Created plan p r b seq x ↔ x = scoredEntry plan p r b seq (scoreOf plan x) := Iff.rfl
  rw [whole, newEntry_eq]
  constructor
  · intro h
    have score : scoreOf plan x = scoreOf plan (scoredEntry plan p r b seq 0) := (congrArg (scoreOf plan) h).trans rfl
    rwa [score] at h
  · intro h
    have score : scoreOf plan x = scoreOf plan (scoredEntry plan p r b seq 0) := (congrArg (scoreOf plan) h).trans rfl
    rwa [score]

/-- The entry of a known key after a report. -/
def refresh (r : CellReport) (e : Entry) : Entry :=
  { e with level := clampLevel r.level, quality := clampQuality r.quality, networkBarred := r.barred, age := 0 }

theorem refreshed_rescored (plan : Plan) (r : CellReport) (e : Entry) : Refreshed plan r e (rescored plan (refresh r e)) := by
  unfold Refreshed refresh
  rw [clampLevel_eq, clampQuality_eq]
  rfl

/-! ### One report (R4 to R7) -/

theorem takeReport_discarded {plan : Plan} {p : Pos} {r : CellReport} (c : Ctu) (h : r.tag = 0 ∨ r.band = none) :
    takeReport plan p r c = c := by
  unfold takeReport
  split
  · rfl
  next b band =>
    rcases h with tag | none
    · exact if_pos tag
    · rw [none] at band
      cases band

theorem takeReport_known {plan : Plan} {p : Pos} {r : CellReport} {c : Ctu} {b : Band} {e : Entry} (tag : r.tag ≠ 0)
    (band : r.band = some b) (known : findEntry c.table (reportKey p r) = some e) :
    takeReport plan p r c = { c with table := rescoreKey plan (reportKey p r) (refresh r) c.table } := by
  simp only [takeReport, band, tag, if_false, known]
  rfl

theorem takeReport_new {plan : Plan} {p : Pos} {r : CellReport} {c : Ctu} {b : Band} (tag : r.tag ≠ 0)
    (band : r.band = some b) (absent : findEntry c.table (reportKey p r) = none) (room : c.table.length < 24) :
    takeReport plan p r c = createEntry plan (reportKey p r) b r c := by
  have room : c.table.length < Config.tableCapacity := room
  simp only [takeReport, band, tag, if_false, absent, room, if_true]

theorem takeReport_full {plan : Plan} {p : Pos} {r : CellReport} {c : Ctu} {b : Band} {low : Entry} (tag : r.tag ≠ 0)
    (band : r.band = some b) (absent : findEntry c.table (reportKey p r) = none) (full : c.table.length = 24)
    (lowest : lowestUnprotected c.table = some low) : takeReport plan p r c =
      if low.score < (newEntry plan (reportKey p r) b r 0).score then
        createEntry plan (reportKey p r) b r { c with table := dropKey low.key c.table } else c := by
  have full : ¬ c.table.length < Config.tableCapacity := by
    rw [full]
    decide
  simp only [takeReport, band, tag, if_false, absent, full, lowest]

theorem takeReport_guarded {plan : Plan} {p : Pos} {r : CellReport} {c : Ctu}
    (absent : findEntry c.table (reportKey p r) = none) (full : c.table.length = 24)
    (guarded : lowestUnprotected c.table = none) : takeReport plan p r c = c := by
  have full : ¬ c.table.length < Config.tableCapacity := by
    rw [full]
    decide
  unfold takeReport
  split
  · rfl
  · simp only [absent, full, if_false, guarded, ite_self]

theorem lowestUnprotected_of_split {table hi lo : List Entry} {low : Entry} (split : table = hi ++ low :: lo)
    (free : low.inAttempt = false ∧ low.serving = false) (kept : ∀ e ∈ lo, e.inAttempt = true ∨ e.serving = true) :
    lowestUnprotected table = some low := by
  have none : lo.reverse.find? (fun e => !protectedEntry e) = .none := by
    simpa [protectedEntry, or_iff_not_imp_left] using kept
  subst split
  simp only [lowestUnprotected, List.reverse_append, List.reverse_cons, List.append_assoc, List.find?_append, none]
  simp [protectedEntry, free]

theorem lowestUnprotected_none {table : List Entry} (kept : ∀ e ∈ table, e.inAttempt = true ∨ e.serving = true) :
    lowestUnprotected table = none := by
  simpa [lowestUnprotected, protectedEntry, or_iff_not_imp_left] using kept

theorem takeReport_gen (plan : Plan) (p : Pos) (r : CellReport) (c : Ctu) :
    (takeReport plan p r c).mirrorGen = c.mirrorGen := by
  simp only [takeReport, createEntry]
  repeat' split
  all_goals rfl

theorem takeLevel_gen (plan : Plan) (p : Pos) (level : Int) (quality : Option Nat) (c : Ctu) :
    (takeLevel plan p level quality c).mirrorGen = c.mirrorGen := by
  unfold takeLevel
  split <;> rfl

/-- The intake of one report into a sound table is as R4 to R7 say. -/
theorem takeReport_taken {plan : Plan} {p : Pos} (r : CellReport) {c : Ctu} (h : TableOk c.table) :
    ReportTaken plan p r c (takeReport plan p r c) where
  mirror := takeReport_gen plan p r c
  discarded := takeReport_discarded c
  known tag band hi e lo split key := by
    obtain ⟨b, band⟩ := Option.ne_none_iff_exists'.mp band
    have found := (key_of_split h.keys split).1
    have key : e.key = reportKey p r := key
    rw [takeReport_known tag band (key ▸ found)]
    refine ⟨rfl, _, refreshed_rescored plan r e, ?_⟩
    rw [← key]
    exact placed_rescoreKey h split rfl
  room tag b band absent room := by
    rw [takeReport_new tag band (findEntry_of_absent absent) room]
    refine ⟨rfl, _, (created_iff ..).mpr rfl, placed_placeEntry h.rank⟩
  full tag b band absent full hi low lo split attempt serving kept x created := by
    obtain rfl := (created_iff ..).mp created
    rw [takeReport_full tag band (findEntry_of_absent absent) full (lowestUnprotected_of_split split ⟨attempt, serving⟩ kept)]
    refine ⟨fun less => ?_, fun least => if_neg (Nat.not_lt.mpr least)⟩
    rw [if_pos (show low.score < (newEntry plan (reportKey p r) b r 0).score from less)]
    refine ⟨rfl, ?_⟩
    have dropped := (key_of_split h.keys split).2
    have ranked := (h.filter (fun e => !(e.key == low.key))).rank
    rw [← dropped]
    exact placed_placeEntry ranked
  guarded absent full kept := takeReport_guarded (findEntry_of_absent absent) full (lowestUnprotected_none kept)

/-! ### The reports of one event, and a level (R3, R8) -/

/-- The table after the reports of one event, under one plan. -/
def takeReports (plan : Plan) (p : Pos) (rs : List CellReport) (c : Ctu) : Ctu :=
  rs.foldl (fun c r => takeReport plan p r c) c

theorem takeReports_taken (plan : Plan) (p : Pos) (rs : List CellReport) {c : Ctu} (h : tableOk c.table = true) :
    ReportsTaken plan p rs c (takeReports plan p rs c) := by
  induction rs generalizing c with
  | nil => exact .none c
  | cons r rs ih => exact .next (takeReport_taken r ((tableOk_iff _).mp h)) (ih (takeReport_tableOk h))

theorem takeReports_mirror (plan : Plan) (p : Pos) (rs : List CellReport) (c : Ctu) :
    (takeReports plan p rs c).mirrorGen = c.mirrorGen := by
  induction rs generalizing c with
  | nil => rfl
  | cons r rs ih => exact (ih _).trans (takeReport_gen plan p r c)

/-- An entry after a level report. -/
def relevel (level : Int) (quality : Option Nat) (e : Entry) : Entry :=
  { e with level := levelTaken level, age := 0, quality := if quality.isSome then qualityTaken quality else e.quality }

theorem takeLevel_of_serving {plan : Plan} {p : Pos} (level : Int) (quality : Option Nat) {c : Ctu} {e : Entry}
    (serving : c.table.find? (fun e => e.serving && e.key.pos == p) = some e) : takeLevel plan p level quality c =
      { c with table := rescoreKey plan e.key (relevel level quality) c.table } := by
  simp only [takeLevel, serving]
  refine congrArg (fun f => { c with table := rescoreKey plan e.key f c.table }) (funext fun x => ?_)
  rw [clampLevel_eq, relevel, ← clampQuality_eq]
  cases quality <;> rfl

/-- The intake of a level into a sound table is as R8 says. -/
theorem takeLevel_taken {plan : Plan} {p : Pos} (level : Int) (quality : Option Nat) {c : Ctu} (h : TableOk c.table) :
    LevelTaken plan p level quality c (takeLevel plan p level quality c) where
  sequence := by
    unfold takeLevel
    split <;> rfl
  mirror := takeLevel_gen plan p level quality c
  dropped none := by
    have absent : c.table.find? (fun e => e.serving && e.key.pos == p) = .none := by
      simpa using none
    simp only [takeLevel, absent]
  taken hi e lo split serving pos first := by
    have found : c.table.find? (fun e => e.serving && e.key.pos == p) = some e := by
      have none : hi.find? (fun e => e.serving && e.key.pos == p) = .none := by simpa using first
      rw [split, List.find?_append, none]
      simp [serving, pos]
    rw [takeLevel_of_serving level quality found]
    exact ⟨rescored plan (relevel level quality e), rfl, placed_rescoreKey h split rfl⟩

end Sys2Proof.Machine
end

section
/-! PROOFS. The commands that take cell reports in: STATUS, SCAN_LIST and LEVEL_REPORT (O52). -/

namespace Sys2Proof.Machine

/-! ### WCH's own doing with a SCAN order or a gather (R168, R169) -/

/-- WCH has worked: its records, the queue, a SCAN order completed, a gather's end posted; the call, the hunt, the voice
switch, the plan, the carriers and the transaction in flight are as they were. -/
structure WatchWorks (s t : State) : Prop where
  cal : t.cal = s.cal
  hnt : t.hnt = s.hnt
  vsw : t.vsw = s.vsw
  pln : t.pln = s.pln
  ctu : t.ctu = s.ctu
  tx : t.mlc.tx = s.mlc.tx
  cause : t.smp.causes.getLsbD 9 = s.smp.causes.getLsbD 9
  posts : ∃ ms, t.inbox = s.inbox ++ ms ∧ ∀ m ∈ ms, m = .hntGatherEnd

theorem WatchStep.works {s t : State} (h : WatchStep s t) : WatchWorks s t := by
  obtain ⟨⟨w, q, n, rfl⟩, _, _⟩ := h
  exact ⟨rfl, rfl, rfl, rfl, rfl, rfl, rfl, [], by simp [State.withMlc, State.withWch], by simp⟩

theorem WatchWorks.refl (s : State) : WatchWorks s s := (WatchStep.refl s).works

theorem WatchWorks.trans {s t u : State} (h : WatchWorks s t) (g : WatchWorks t u) : WatchWorks s u where
  cal := g.cal.trans h.cal
  hnt := g.hnt.trans h.hnt
  vsw := g.vsw.trans h.vsw
  pln := g.pln.trans h.pln
  ctu := g.ctu.trans h.ctu
  tx := g.tx.trans h.tx
  cause := g.cause.trans h.cause
  posts := by
    obtain ⟨ms, e, all⟩ := h.posts
    obtain ⟨ns, f, all'⟩ := g.posts
    refine ⟨ms ++ ns, by rw [f, e, List.append_assoc], fun m hm => ?_⟩
    rcases List.mem_append.mp hm with hm | hm
    · exact all m hm
    · exact all' m hm

theorem causeSet_orderDone (x : BitVec 13) : (causeSet x .orderDone).getLsbD 9 = x.getLsbD 9 := by
  simp [causeSet, causeBit]

theorem complete_works (h : Held) (o : OrderOutcome) (d : Word) (s : State) : WatchWorks s (complete h o d s) := by
  unfold complete
  split
  · exact ⟨rfl, rfl, rfl, rfl, rfl, rfl, causeSet_orderDone _, [], by simp [raise, setSlot, writeResult, State.withMem], by simp⟩
  · exact WatchWorks.refl s

theorem settleScanOrder_works (s : State) : WatchWorks s (settleScanOrder s) := by
  unfold settleScanOrder
  split
  · exact WatchWorks.refl s
  · split
    · exact WatchWorks.trans (t := s.withWch { s.wch with order := none })
        ⟨rfl, rfl, rfl, rfl, rfl, rfl, rfl, [], by simp, by simp⟩ (complete_works ..)
    · exact WatchWorks.refl s

theorem settleGather_works (s : State) : WatchWorks s (settleGather s) := by
  unfold settleGather
  split
  · exact ⟨rfl, rfl, rfl, rfl, rfl, rfl, rfl, [.hntGatherEnd], rfl, by simp⟩
  · exact WatchWorks.refl s

theorem WatchWorks.withWch (s : State) (w : Wch) : WatchWorks s (s.withWch w) :=
  ⟨rfl, rfl, rfl, rfl, rfl, rfl, rfl, [], by simp, by simp⟩

theorem endMember_works (p : Pos) (s : State) : WatchWorks s (endMember p s) :=
  (WatchWorks.withWch s _).trans ((WatchWorks.withWch _ _).trans
    ((settleGather_works _).trans (settleScanOrder_works _)))

theorem startScans_works (n : Nat) (looked : List Pos) {s : State} (sound : s.pln.damaged = []) :
    WatchWorks s (startScans n looked s) := by
  induction n generalizing looked s with
  | zero => exact WatchWorks.refl s
  | succ n ih =>
    unfold startScans
    split
    · exact WatchWorks.refl s
    · split
      · exact WatchWorks.refl s
      next p _ =>
        dsimp only
        split
        · have ended := endMember_works p s
          exact ended.trans (ih _ (ended.pln ▸ sound))
        · have started := (startScan_grows p sound (WatchGrows.refl s)).toWatchStep.works
          exact started.trans (ih _ (started.pln ▸ sound))

theorem examine_works {s : State} (sound : s.pln.damaged = []) : WatchWorks s (examine s) := by
  have woken := (wakeIfWanted_grows 2 (wakeIfWanted_grows 1 (wakeIfWanted_grows 0 (WatchGrows.refl s)))).toWatchStep.works
  unfold examine
  rw [touch_sound sound]
  exact woken.trans (startScans_works _ _ (woken.pln ▸ sound))

theorem scanEnd_works (p : Pos) {s : State} (sound : s.pln.damaged = []) : WatchWorks s (scanEnd p s) := by
  have withdrawn := withdrawIf_watchStep .wch (s.watch p).scanRequest (WatchStep.refl s)
  have sound' : (withdrawIf .wch (s.watch p).scanRequest s).pln.damaged = [] := withdrawn.works.pln ▸ sound
  have ended : WatchWorks s (scanEndNoExamine p s) := by
    unfold scanEndNoExamine
    simp only [touch_sound sound']
    exact ((withdrawn.withWatch ..).works.trans (endMember_works p _)).trans
      (sleepAfterScan_watchStep p (WatchStep.refl _)).works
  exact ended.trans (examine_works (ended.pln ▸ sound))

/-! ### The intake within a state (R3, R9, R19) -/

theorem intakeEach_sound (p : Pos) (rs : List CellReport) {s : State} (sound : s.pln.damaged = []) :
    intakeEach p rs s = s.withCtu (takeReports s.pln.plan p rs s.ctu) := by
  induction rs generalizing s with
  | nil => rfl
  | cons r rs ih =>
    have one : intakeOne p r s = s.withCtu (takeReport s.pln.plan p r s.ctu) := by
      simp only [intakeOne, touchAll_sound sound]
    rw [intakeEach, one, ih (s := s.withCtu (takeReport s.pln.plan p r s.ctu)) sound]
    rfl

theorem causeSet_tableChanged (x : BitVec 13) : (causeSet x .tableChanged).getLsbD 9 = true := by
  simp [causeSet, causeBit]

/-- A table that one event has made is published as R9 and R19 say. -/
theorem publishTable_published {s : State} {d : Ctu} (gen : d.mirrorGen = s.ctu.mirrorGen) :
    TablePublished s (publishTable s.ctu.table true (s.withCtu d)) d := by
  unfold publishTable
  split
  next same =>
    have same : d.table = s.ctu.table := same
    refine ⟨?_, fun moved => absurd same moved, fun _ => rfl⟩
    rw [if_pos same, ← gen]
    rfl
  next moved =>
    have moved : d.table ≠ s.ctu.table := moved
    refine ⟨?_, fun _ => causeSet_tableChanged _, fun same => absurd same moved⟩
    rw [if_neg moved, ← gen]
    rfl

theorem TablePublished.of_same {s t u : State} {d : Ctu} (h : TablePublished s t d) (ctu : u.ctu = t.ctu)
    (cause : u.smp.causes.getLsbD 9 = t.smp.causes.getLsbD 9) : TablePublished s u d := by
  obtain ⟨table, moved, still⟩ := h
  exact ⟨ctu.trans table, fun x => cause.trans (moved x), fun x => cause.trans (still x)⟩

/-- A message that tells HNT new keys. -/
def newKeys (m : Msg) : Prop := ∃ keys, m = .hntNewKeys keys

theorem reportNewKeys_eq (keys : List Key) (s : State) : ∃ ms, reportNewKeys keys s = s.withInbox (s.inbox ++ ms) ∧
    (∀ m ∈ ms, newKeys m) ∧ ms.length ≤ 1 := by
  unfold reportNewKeys
  split
  · exact ⟨[], by rw [List.append_nil]; rfl, by simp, by simp⟩
  · exact ⟨[.hntNewKeys keys], rfl, by simp [newKeys], by simp⟩

/-- The intake of an event's reports: the table, its publication, and HNT told the new keys. -/
theorem ctuIntake_eq (p : Pos) (rs : List CellReport) {s : State} (sound : s.pln.damaged = []) : ∃ keys,
    ctuIntake p rs s = reportNewKeys keys
      (publishTable s.ctu.table true (s.withCtu (takeReports s.pln.plan p rs s.ctu))) := by
  obtain ⟨g, c, e⟩ := publishTable_eq s.ctu.table true (s.withCtu (takeReports s.pln.plan p rs s.ctu))
  have sound' : (publishTable s.ctu.table true (s.withCtu (takeReports s.pln.plan p rs s.ctu))).pln.damaged = [] := by
    rw [e]
    exact sound
  unfold ctuIntake
  simp only [intakeEach_sound p rs sound, touchAll_sound sound', ite_self]
  exact ⟨_, rfl⟩

theorem ctuIntake_moves (p : Pos) (rs : List CellReport) {s : State} (sound : s.pln.damaged = []) : ∃ x c ms,
    ctuIntake p rs s = ((s.withCtu x).withSmp { s.smp with causes := c }).withInbox (s.inbox ++ ms) ∧
      (∀ m ∈ ms, newKeys m) ∧ TablePublished s (ctuIntake p rs s) (takeReports s.pln.plan p rs s.ctu) := by
  obtain ⟨keys, whole⟩ := ctuIntake_eq p rs sound
  have published := publishTable_published (s := s) (takeReports_mirror s.pln.plan p rs s.ctu)
  obtain ⟨g, c, e⟩ := publishTable_eq s.ctu.table true (s.withCtu (takeReports s.pln.plan p rs s.ctu))
  obtain ⟨ms, told, kind, _⟩ := reportNewKeys_eq keys
    (publishTable s.ctu.table true (s.withCtu (takeReports s.pln.plan p rs s.ctu)))
  rw [whole, told]
  refine ⟨{ takeReports s.pln.plan p rs s.ctu with mirrorGen := g }, c, ms, ?_, kind, published.of_same rfl rfl⟩
  rw [e]
  rfl

/-! ### SCAN_LIST -/

theorem awaited_of_waiting {s : State} {r : Request} {n d : Nat} (tx : s.mlc.tx = some ⟨r, n, .waiting d⟩) :
    awaited s = some ⟨r, n, .waiting d⟩ := by
  simp [awaited, tx]

/-- A reply of an allowed kind ends the try that awaits it. -/
theorem onReply_allowed {s : State} {r : Request} {n d kind : Nat} {f : Transaction → State → State}
    (tx : s.mlc.tx = some ⟨r, n, .waiting d⟩) (allowed : (allowedReplies r.kind).contains kind = true) :
    onReply kind f s = f ⟨r, n, .waiting d⟩ s := by
  simp only [onReply, awaited_of_waiting tx, allowed, if_true]

/-- The internal events that the end of a scan brings: new keys to HNT, the list and the gather's end. -/
def ofScan (m : Msg) : Prop := newKeys m ∨ m = .hntGatherEnd ∨ ∃ p n, m = .wchList p n

/-- The plan is sound and the hunt rests. -/
structure HuntAway (s : State) : Prop where
  sound : s.pln.damaged = []
  hunt : huntRests s = true

theorem WatchWorks.away {s t : State} (h : WatchWorks s t) (a : HuntAway s) : HuntAway t where
  sound := h.pln ▸ a.sound
  hunt := by
    have same : huntRests t = huntRests s := by simp only [huntRests, noRecord, State.record, h.hnt]
    rw [same, a.hunt]

theorem hntTakeGatherEnd_rests {s : State} (h : huntRests s = true) : hntTakeGatherEnd s = s := by
  obtain ⟨idle, _, _, _⟩ := (huntRests_iff s).mp h
  simp [hntTakeGatherEnd, idle]

theorem handle_ofScan {m : Msg} {s : State} (h : ofScan m) (a : HuntAway s) : WatchWorks s (handle m s) := by
  have same {t : State} (e : t = s) : WatchWorks s t := e ▸ WatchWorks.refl s
  rcases h with ⟨keys, rfl⟩ | rfl | ⟨p, n, rfl⟩
  · exact same (hntTakeKeys_rests a.hunt keys)
  · exact same (hntTakeGatherEnd_rests a.hunt)
  · change WatchWorks s (wchTakeList p n s)
    unfold wchTakeList
    split
    · exact ((WatchStep.refl s).withWatch ..).works.trans (scanEnd_works p a.sound)
    · exact WatchWorks.refl s

theorem drain_ofScan (n : Nat) {s : State} (h : ∀ m ∈ s.inbox, ofScan m) (a : HuntAway s) :
    WatchWorks (s.withInbox []) (drain n s) := by
  refine drain_steps (Good := HuntAway) (S := WatchWorks) (C := ofScan) WatchWorks.refl WatchWorks.trans
    WatchWorks.away (fun _ a => ⟨a.sound, a.hunt⟩) (fun {m s} scan a empty => ?_) n h a
  have step := handle_ofScan scan a
  obtain ⟨ms, posted, ends⟩ := step.posts
  rw [empty, List.nil_append] at posted
  exact ⟨{ step with posts := ⟨[], by rw [empty]; rfl, by simp⟩ },
    fun x hx => Or.inr (Or.inl (ends x (posted ▸ hx)))⟩

/-- SCAN_LIST: the list is taken in, and WCH ends its scan (O52, the second part). -/
theorem scanList_taken {s : State} (calm : calmPart s = true) (hunt : huntRests s = true)
    (ok : tableOk s.ctu.table = true) {r : Request} {n d : Nat} {payload : List Byte} {xs : List CellReport}
    (tx : s.mlc.tx = some ⟨r, n, .waiting d⟩) (kind : r.kind = .scanFetch) (parsed : parseScanList payload = some xs) :
    ∃ t, exec (.scanList payload) s = .next t ∧ t.mlc.tx = none ∧
      (∃ d, ReportsTaken s.pln.plan r.pos xs s.ctu d ∧ TablePublished s t d) ∧
      t.cal = s.cal ∧ t.vsw = s.vsw ∧ t.pln = s.pln := by
  obtain ⟨quiet, sound⟩ := (calmPart_iff s).mp calm
  have reply : exec (.scanList payload) s = settled (post (.wchList r.pos r.number)
      (ctuIntake r.pos xs (endSuccess ⟨r, n, .waiting d⟩ s))) := by
    change settled (onReply 18 _ s) = _
    rw [onReply_allowed tx (by rw [kind]; rfl)]
    simp only [parsed]
  obtain ⟨x, c, ms, taken, told, published⟩ :=
    ctuIntake_moves r.pos xs (s := endSuccess ⟨r, n, .waiting d⟩ s) sound
  have cascade := drain_ofScan 1000 (s := post (.wchList r.pos r.number) (ctuIntake r.pos xs (endSuccess ⟨r, n, .waiting d⟩ s)))
    (fun m hm => ?_) ?_
  · rw [taken] at cascade published reply
    exact ⟨_, reply, cascade.tx, ⟨_, takeReports_taken s.pln.plan r.pos xs ok,
      published.of_same cascade.ctu cascade.cause⟩, cascade.cal, cascade.vsw, cascade.pln⟩
  · rw [taken] at hm
    change m ∈ (s.inbox ++ ms) ++ [.wchList r.pos r.number] at hm
    rw [quiet, List.nil_append, List.mem_append, List.mem_singleton] at hm
    rcases hm with hm | rfl
    · exact Or.inl (told m hm)
    · exact Or.inr (Or.inr ⟨_, _, rfl⟩)
  · rw [taken]
    exact ⟨sound, hunt⟩

/-! ### LEVEL_REPORT (R8) -/

theorem takeLevel_absent {plan : Plan} {p : Pos} {level : Int} {quality : Option Nat} {c : Ctu}
    (absent : c.table.find? (fun e => e.serving && e.key.pos == p) = none) : takeLevel plan p level quality c = c := by
  simp only [takeLevel, absent]

/-- The intake of a level: the table, its publication, and HNT told the new key at most. -/
theorem ctuLevelReport_moves (p : Pos) (level : Int) (quality : Option Nat) {s : State} (sound : s.pln.damaged = []) :
    ∃ x c ms, ctuLevelReport p level quality s =
      ((s.withCtu x).withSmp { s.smp with causes := c }).withInbox (s.inbox ++ ms) ∧
      (∀ m ∈ ms, newKeys m) ∧ ms.length ≤ 1 ∧
      TablePublished s (ctuLevelReport p level quality s) (takeLevel s.pln.plan p level quality s.ctu) := by
  have published := publishTable_published (s := s) (takeLevel_gen s.pln.plan p level quality s.ctu)
  cases found : s.ctu.table.find? (fun e => e.serving && e.key.pos == p) with
  | none =>
    have same : ctuLevelReport p level quality s = s := by simp only [ctuLevelReport, found]
    rw [takeLevel_absent found] at published ⊢
    refine ⟨s.ctu, s.smp.causes, [], ?_, by simp, by simp, ?_⟩
    · rw [same, List.append_nil]
      rfl
    · rw [same]
      have still : publishTable s.ctu.table true (s.withCtu s.ctu) = s := if_pos rfl
      rwa [still] at published
  | some e =>
    obtain ⟨g, c, pub⟩ := publishTable_eq s.ctu.table true (s.withCtu (takeLevel s.pln.plan p level quality s.ctu))
    have sound' : (publishTable s.ctu.table true
        (s.withCtu (takeLevel s.pln.plan p level quality s.ctu))).pln.damaged = [] := by
      rw [pub]
      exact sound
    obtain ⟨ms, told, kind, short⟩ := reportNewKeys_eq [e.key] (publishTable s.ctu.table true
        (s.withCtu (takeLevel s.pln.plan p level quality s.ctu)))
    have whole : ctuLevelReport p level quality s = reportNewKeys [e.key] (publishTable s.ctu.table true
          (s.withCtu (takeLevel s.pln.plan p level quality s.ctu))) ∨
        ctuLevelReport p level quality s = publishTable s.ctu.table true
          (s.withCtu (takeLevel s.pln.plan p level quality s.ctu)) := by
      simp only [ctuLevelReport, found, touchAll_sound sound, touchAll_sound sound']
      split
      · exact Or.inl rfl
      · exact Or.inr rfl
    rcases whole with whole | whole
    · rw [whole, told]
      refine ⟨{ takeLevel s.pln.plan p level quality s.ctu with mirrorGen := g }, c, ms, ?_, kind, short,
        published.of_same rfl rfl⟩
      rw [pub]
      rfl
    · rw [whole]
      refine ⟨{ takeLevel s.pln.plan p level quality s.ctu with mirrorGen := g }, c, [], ?_, by simp, by simp, published⟩
      rw [pub, List.append_nil]
      rfl

theorem hntTakeKeys_away {s : State} (h : s.hnt.state = .idle ∨ s.hnt.state = .won) (keys : List Key) :
    hntTakeKeys keys s = s := by
  rcases h with e | e <;> simp [hntTakeKeys, e]

/-- New keys told to a hunt that is over or not begun change nothing. -/
theorem drain_newKeys (n : Nat) {s : State} {ms : List Msg} (inbox : s.inbox = ms) (told : ∀ m ∈ ms, newKeys m)
    (short : ms.length ≤ 1) (away : s.hnt.state = .idle ∨ s.hnt.state = .won) : drain (n + 1) s = s.withInbox [] := by
  match ms, short with
  | [], _ =>
    have bare : s.withInbox [] = s := by
      rw [← inbox]
      rfl
    rw [drain_of_inbox inbox, bare]
  | [m], _ =>
    obtain ⟨keys, rfl⟩ := told m (by simp)
    have nothing : handle (.hntNewKeys keys) (s.withInbox []) = s.withInbox [] :=
      hntTakeKeys_away (s := s.withInbox []) away keys
    rw [drain_cons n inbox, drainOne_of_quiet (by rw [nothing]; rfl), nothing]
    exact drain_of_inbox rfl

/-- LEVEL_REPORT (O52, the third part). -/
theorem level_taken {s : State} {p : Pos} {level : BitVec 16} {quality : Option Byte} (calm : calmPart s = true)
    (ok : tableOk s.ctu.table = true) (away : s.hnt.state = .idle ∨ s.hnt.state = .won) :
    ∃ t, exec (.levelReport p level quality) s = .next t ∧
      (∃ d, LevelTaken s.pln.plan p level.toInt (quality.map (·.toNat)) s.ctu d ∧ TablePublished s t d) ∧
      (t.withCtu s.ctu).withSmp s.smp = s ∧ { t.smp with causes := s.smp.causes } = s.smp := by
  obtain ⟨quiet, sound⟩ := (calmPart_iff s).mp calm
  obtain ⟨x, c, ms, taken, told, short, published⟩ :=
    ctuLevelReport_moves p level.toInt (quality.map (·.toNat)) sound
  have run : exec (.levelReport p level quality) s =
      .next (drain 999 (ctuLevelReport p level.toInt (quality.map (·.toNat)) s)) :=
    settled_dispatch (p := p) (e := .levelReport level quality) quiet rfl
  rw [quiet, List.nil_append] at taken
  rw [drain_newKeys 998 (congrArg State.inbox taken) told short (by rw [taken]; exact away)] at run
  refine ⟨_, run, ⟨_, takeLevel_taken _ _ ((tableOk_iff _).mp ok), published.of_same rfl rfl⟩, ?_, ?_⟩
  · rw [taken, ← quiet]
    rfl
  · rw [taken]
    rfl

end Sys2Proof.Machine
end

section
/-! PROOFS. STATUS: a module enters IN_SERVICE (O52). -/

namespace Sys2Proof.Machine

/-! ### LAMP_FAULT -/

/-- A lamp has followed also in a later state with the same outputs, usable modules and plan source. -/
theorem LampFollows.of_same {s t u : State} {x : CallState} {o : Output} (h : LampFollows s t x o) (bsu : u.bsu = t.bsu)
    (usable : anyUsable u.mlc.modules = anyUsable t.mlc.modules) (source : u.pln.source = t.pln.source) :
    LampFollows s u x o := by
  unfold LampFollows at h ⊢
  rw [bsu, usable, source]
  exact h

theorem get_set_same {α : Type} (v : PerOut α) (o : Output) (x : α) : (v.set o x).get o = x := by
  rw [get_set_out, if_pos rfl]

/-- An output selected again follows the state in force. -/
theorem refreshOutput_follows (o : Output) (s : State) : LampFollows s (refreshOutput o s) s.cal.ctx.state o := by
  have out : (refreshOutput o s).bsu.outs.get o = reselect (selectedPattern s o) (s.bsu.outs.get o) := get_set_same ..
  unfold LampFollows
  rw [out]
  change reselect (selectedPattern s o) (s.bsu.outs.get o) =
    if _ ∨ (s.bsu.outs.get o).pattern = selectedPattern s o then _ else startPattern (selectedPattern s o) _
  unfold reselect
  by_cases host : (s.bsu.outs.get o).host = true <;> simp [host]

/-- A change to a state that is not lost, with no MODULE order waiting: the status block, the lamp and the reports. -/
theorem changeState_eq {p : Pos} {new : ModState} {s : State} (wait : s.mlc.wait = none) (kept : lostState new = false)
    (none : (s.module p).pendingRole = none) : changeState p new s =
      postAll (stateReports p (s.module p).state new)
        (bsuFaultLamp (publishStatus (s.withModule p (enterRecord new (s.module p))))) := by
  obtain ⟨role, bands, _⟩ := enterRecord_of_no_role none new
  have still : (bsuFaultLamp (publishStatus (s.withModule p (enterRecord new (s.module p))))).mlc.wait = .none := wait
  unfold changeState
  simp only [kept, Bool.false_eq_true, if_false, settleWait_of_none still, role, bands, and_self, if_true]

theorem changeState_lamp {p : Pos} {new : ModState} {s : State} (wait : s.mlc.wait = none) (kept : lostState new = false)
    (none : (s.module p).pendingRole = none) : LampFollows s (changeState p new s) s.cal.ctx.state .lampFault := by
  rw [changeState_eq wait kept none]
  exact (refreshOutput_follows .lampFault (publishStatus (s.withModule p (enterRecord new (s.module p))))).of_same
    rfl rfl rfl

/-! ### The POLL and the SLEEP of an entry to IN_SERVICE (R143, R149) -/

/-- A request that has no place of its own joins a queue with room. -/
theorem enqueue_roomy {kind : ReqKind} (placeless : callOperation kind = false ∧ kind ≠ .data) {o : Requester} {p : Pos}
    {payload : List Byte} {s : State} (room : s.mlc.queue.length < 12) :
    enqueue o p kind payload s = append o p kind payload s := by
  obtain ⟨call, data⟩ := placeless
  have room : s.mlc.queue.length < Config.queueCapacity := room
  simp [enqueue, call, data, queueWithRoom, room]

/-- A POLL stands in the queue after its queueing, one request more at most. -/
theorem queuePoll_eq (p : Pos) {s : State} (room : s.mlc.queue.length < 12) : ∃ q n, queuePoll p s =
    s.withMlc { s.mlc with queue := q, nextNumber := n } ∧ (∃ r ∈ q, r.pos = p ∧ r.kind = .poll) ∧
      q.length ≤ s.mlc.queue.length + 1 := by
  unfold queuePoll
  split
  next merged =>
    refine ⟨s.mlc.queue, s.mlc.nextNumber, rfl, ?_, by omega⟩
    simpa using merged
  next fresh =>
    rw [enqueue_roomy ⟨rfl, by simp⟩ room]
    exact ⟨_, _, rfl, ⟨_, List.mem_append_right _ (List.mem_singleton_self _), rfl, rfl⟩, by simp⟩

theorem queueSpareSleep_eq (p : Pos) {s : State} (room : s.mlc.queue.length < 12) : queueSpareSleep p s =
    (s.withMlc { s.mlc with
      queue := s.mlc.queue ++ [nextRequest s .mlc p .sleep []], nextNumber := s.mlc.nextNumber + 1 }).withModule p
        { s.module p with sleepAgain := false } := by
  rw [queueSpareSleep, enqueue_roomy ⟨rfl, by simp⟩ room]
  rfl

theorem anyUsable_withModule {s : State} {p : Pos} {m : Module} (h : usable m = usable (s.module p)) :
    anyUsable (s.withModule p m).mlc.modules = anyUsable s.mlc.modules := by
  obtain rfl | rfl | rfl := pos_cases p
  · exact congrArg (fun b => b || usable (s.module 1) || usable (s.module 2)) h
  · exact congrArg (fun b => usable (s.module 0) || b || usable (s.module 2)) h
  · exact congrArg (fun b => usable (s.module 0) || usable (s.module 1) || b) h

/-- What an entry to IN_SERVICE leaves. -/
structure Serves (p : Pos) (s t : State) : Prop where
  moves : LinkMoves false s t
  state : (t.module p).state = .inService
  failures : (t.module p).failures = (s.module p).failures
  timer : (t.module p).poll = some { left := if s.wch.doze then 30000 else 5000, fresh := true }
  poll : ∃ r ∈ t.mlc.queue, r.pos = p ∧ r.kind = .poll
  role : (t.module p).role = (s.module p).role
  lamp : LampFollows s t .idle .lampFault
  posts : t.inbox = s.inbox ++ stateReports p (s.module p).state .inService


theorem withMlc_moves {s0 s : State} (h : LinkMoves false s0 s) (q : List Request) (n : Nat) :
    LinkMoves false s0 (s.withMlc { s.mlc with queue := q, nextNumber := n }) := { h with }

theorem Serves.inPlace {p : Pos} {s t : State} {m : Module} (h : Serves p s t) (state : m.state = .inService)
    (role : m.role = (t.module p).role) (failures : m.failures = (t.module p).failures) (timer : m.poll = (t.module p).poll)
    {q : List Request} {n : Nat} (more : t.mlc.queue <+: q) :
    Serves p s ((t.withMlc { t.mlc with queue := q, nextNumber := n }).withModule p m) where
  moves := (withMlc_moves h.moves q n).withModule
  state := by rw [module_withModule, if_pos rfl, state]
  failures := by rw [module_withModule, if_pos rfl, failures, h.failures]
  timer := by rw [module_withModule, if_pos rfl, timer, h.timer]
  role := by rw [module_withModule, if_pos rfl, role, h.role]
  poll := by
    obtain ⟨r, stands, which⟩ := h.poll
    exact ⟨r, more.subset stands, which⟩
  lamp := h.lamp.of_same rfl (anyUsable_withModule (s := t.withMlc { t.mlc with queue := q, nextNumber := n })
    (show usable m = usable (t.module p) by rw [usable, usable, state, role, h.state])) rfl
  posts := h.posts

/-- A module in service with its POLL queued and its poll timer set. -/
def polled (p : Pos) (s : State) : State :=
  let v := queuePoll p (changeState p .inService s)
  v.withModule p { v.module p with poll := some (longTimer (currentPollInterval v)) }

theorem enterService_polled (p : Pos) (s : State) : enterService p s =
    if ((polled p s).module p).role = .spare then queueSpareSleep p (polled p s) else polled p s := rfl

theorem polled_serves {p : Pos} {s : State} (wait : s.mlc.wait = none) (none : (s.module p).pendingRole = none)
    (idle : s.cal.ctx.state = .idle) (room : s.mlc.queue.length < 12) :
    Serves p s (polled p s) ∧ (polled p s).mlc.queue.length ≤ s.mlc.queue.length + 1 := by
  have changed := changeState_eq (p := p) (new := .inService) wait rfl none
  have moves := changeState_moves (l := false) p .inService wait (fun lost => absurd lost Bool.noConfusion) (LinkMoves.refl s)
  have queue : (changeState p .inService s).mlc.queue = s.mlc.queue := 
    (congrArg (fun u : State => u.mlc.queue) changed).trans rfl
  have posts : (changeState p .inService s).inbox = s.inbox ++ stateReports p (s.module p).state .inService :=
    congrArg State.inbox changed
  have record : (changeState p .inService s).module p = enterRecord .inService (s.module p) := by
    rw [changeState_module, if_pos rfl]
  have lamp := idle ▸ changeState_lamp (p := p) (new := .inService) wait rfl none
  obtain ⟨role, _, _, failures, _, state⟩ := enterRecord_of_no_role none .inService
  obtain ⟨q, n, queued, poll, length⟩ := queuePoll_eq p (s := changeState p .inService s) (by rwa [queue])
  have interval : currentPollInterval (queuePoll p (changeState p .inService s)) = if s.wch.doze then 30000 else 5000 := by
    rw [queued, currentPollInterval]
    change pollInterval (changeState p .inService s).cal.ctx.state (changeState p .inService s).wch.doze = _
    rw [moves.cal, moves.wch, idle]
    rfl
  have whole : polled p s = ((changeState p .inService s).withMlc
      { (changeState p .inService s).mlc with queue := q, nextNumber := n }).withModule p
        { enterRecord .inService (s.module p) with
          poll := some { left := if s.wch.doze then 30000 else 5000, fresh := true } } := by
    unfold polled
    dsimp only
    rw [interval, queued, ← record]
    rfl
  rw [whole]
  refine ⟨?_, queue ▸ length⟩
  exact
    { moves := (withMlc_moves moves q n).withModule
      state := by
        rw [module_withModule, if_pos rfl]
        exact state
      failures := by
        rw [module_withModule, if_pos rfl]
        exact failures
      timer := by rw [module_withModule, if_pos rfl]
      role := by
        rw [module_withModule, if_pos rfl]
        exact role
      poll := poll
      lamp := lamp.of_same rfl (anyUsable_withModule (s := (changeState p .inService s).withMlc
        { (changeState p .inService s).mlc with queue := q, nextNumber := n })
        (show _ = usable ((changeState p .inService s).module p) by rw [record]; rfl)) rfl
      posts := posts }

theorem enterService_serves {p : Pos} {s : State} (wait : s.mlc.wait = none) (none : (s.module p).pendingRole = none)
    (idle : s.cal.ctx.state = .idle) (room : s.mlc.queue.length + 1 < 12) : Serves p s (enterService p s) ∧
      ((s.module p).role = .spare → ((enterService p s).module p).sleepAgain = false ∧
        ∃ r ∈ (enterService p s).mlc.queue, r.pos = p ∧ r.kind = .sleep ∧ r.owners = [.mlc]) := by
  obtain ⟨serves, length⟩ := polled_serves wait none idle (by omega)
  rw [enterService_polled, serves.role]
  split
  next spare =>
    rw [queueSpareSleep_eq p (by omega)]
    refine ⟨serves.inPlace
      (m := { (polled p s).module p with sleepAgain := false }) serves.state rfl rfl rfl (List.prefix_append ..), fun _ => ⟨?_, ?_⟩⟩
    · rw [module_withModule, if_pos rfl]
    · exact ⟨_, List.mem_append_right _ (List.mem_singleton_self _), rfl, rfl, rfl⟩
  next other => exact ⟨serves, fun spare => absurd spare other⟩

/-! ### The cascade of an entry to IN_SERVICE -/

/-- The internal events of an entry to IN_SERVICE from phase PROBE. -/
def ofEntry (p : Pos) (m : Msg) : Prop :=
  newKeys m ∨ m = .hntModule p (.booting .probe) .inService ∨ m = .wchModule p (.booting .probe) .inService

theorem handle_ofEntry {p : Pos} {m : Msg} {s : State} (h : ofEntry p m) (r : Resting s) : WatchGrows s (handle m s) := by
  have same {t : State} (e : t = s) : WatchGrows s t := e ▸ WatchGrows.refl s
  rcases h with ⟨keys, rfl⟩ | rfl | rfl
  · exact same (hntTakeKeys_rests r.hunt keys)
  · exact same (hntTakeModule_rests r.hunt p _ _)
  · exact examine_grows r.toWatchAlone ((WatchGrows.refl s).withWatch ..)

theorem drain_ofEntry (p : Pos) (n : Nat) {s : State} (h : ∀ m ∈ s.inbox, ofEntry p m) (r : Resting s) :
    WatchGrows (s.withInbox []) (drain n s) := by
  refine drain_steps (Good := Resting) (S := WatchGrows) (C := ofEntry p) WatchGrows.refl WatchGrows.trans
    (fun step r => step.resting r) (fun _ r => ⟨⟨r.sound, r.order, r.gather⟩, r.hunt, r.call⟩)
    (fun {m s} entry rest empty => ?_) n h r
  have step := handle_ofEntry entry rest
  have none : (handle m s).inbox = [] := step.inbox.trans empty
  refine ⟨?_, by simp [none]⟩
  have same : (handle m s).withInbox [] = handle m s := by
    rw [← none]
    rfl
  rwa [same]

theorem WatchStep.blocks {s t : State} (h : WatchStep s t) : t.cal = s.cal ∧ t.vsw = s.vsw ∧ t.bsu = s.bsu ∧
    t.pln = s.pln ∧ t.mlc.tx = s.mlc.tx ∧ t.mlc.modules = s.mlc.modules := by
  obtain ⟨⟨w, q, n, rfl⟩, _, _⟩ := h
  exact ⟨rfl, rfl, rfl, rfl, rfl, rfl⟩

theorem WatchStep.pln {s t : State} (h : WatchStep s t) : t.pln = s.pln := by
  obtain ⟨_, _, _, pln, _, _⟩ := h.blocks
  exact pln

/-- STATUS: the module enters IN_SERVICE, and its report is taken in (O52, the first part). -/
theorem status_taken {s : State} (calm : calmPart s = true) (hunt : huntRests s = true) (idle : s.cal.ctx.state = .idle)
    (ok : tableOk s.ctu.table = true) {r : Request} {n d : Nat} {payload : List Byte} {x : CellReport}
    (tx : s.mlc.tx = some ⟨r, n, .waiting d⟩) (kind : r.kind = .probe) (parsed : parseStatus payload = some x)
    (probe : (s.module r.pos).state = .booting .probe) (none : (s.module r.pos).pendingRole = none)
    (wait : s.mlc.wait = .none) (scans : scansRest s = true) (room : roomFor 3 s = true) :
    ∃ t, exec (.status payload) s = .next t ∧ (t.module r.pos).state = .inService ∧ (t.module r.pos).failures = 0 ∧
      (t.module r.pos).poll = some { left := if s.wch.doze then 30000 else 5000, fresh := true } ∧
      (∃ q ∈ t.mlc.queue, q.pos = r.pos ∧ q.kind = .poll) ∧ t.mlc.tx = .none ∧ LampFollows s t .idle .lampFault ∧
      ((s.module r.pos).role = .spare → (t.module r.pos).sleepAgain = false ∧
        ∃ q ∈ t.mlc.queue, q.pos = r.pos ∧ q.kind = .sleep ∧ q.owners = [.mlc]) ∧
      (∃ d, ReportTaken s.pln.plan r.pos x s.ctu d ∧ TablePublished s t d) ∧ t.cal = s.cal ∧ t.vsw = s.vsw := by
  obtain ⟨quiet, sound⟩ := (calmPart_iff s).mp calm
  have rest := resting_of calm hunt scans idle
  have room : s.mlc.queue.length + 3 ≤ 12 := of_decide_eq_true room
  obtain ⟨c, cs, ms, taken, told, published⟩ := ctuIntake_moves r.pos [x] (s := endSuccess ⟨r, n, .waiting d⟩ s) sound
  generalize intake : ctuIntake r.pos [x] (endSuccess ⟨r, n, .waiting d⟩ s) = v at taken published
  have record : v.module r.pos = { s.module r.pos with failures := 0 } := by
    rw [taken]
    exact (module_withModule (s.withMlc { s.mlc with tx := .none }) r.pos r.pos _).trans (if_pos rfl)
  have reply : exec (.status payload) s = settled (enterService r.pos v) := by
    change settled (onReply 20 _ s) = _
    rw [onReply_allowed tx (by rw [kind]; rfl)]
    simp only [parsed, takeStatus, intake, record, probe, if_true]
  obtain ⟨serves, spare⟩ := enterService_serves (p := r.pos) (s := v) (by rw [taken]; exact wait) (by rw [record]; exact none)
    (by rw [taken]; exact idle) (by rw [taken]; change s.mlc.queue.length + 1 < 12; omega)
  have rest' : Resting v := by
    rw [taken]
    exact ⟨⟨rest.sound, rest.order, rest.gather⟩, rest.hunt, rest.call⟩
  have entries (m : Msg) (hm : m ∈ (enterService r.pos v).inbox) : ofEntry r.pos m := by
    have inbox : v.inbox = ms := by
      rw [taken]
      exact (congrArg (· ++ ms) quiet).trans (List.nil_append ms)
    rw [serves.posts, inbox, record, probe, List.mem_append] at hm
    rcases hm with hm | hm
    · exact Or.inl (told m hm)
    · simp only [stateReports, List.mem_append, List.mem_singleton] at hm
      rcases hm with (rfl | hm) | rfl
      · exact Or.inr (Or.inl rfl)
      · simp at hm
      · exact Or.inr (Or.inr rfl)
  have cascade := drain_ofEntry r.pos 1000 entries (serves.moves.resting rest')
  obtain ⟨cal, vsw, bsu, pln, tx', modules⟩ := cascade.toWatchStep.blocks
  have module : (drain 1000 (enterService r.pos v)).module r.pos = (enterService r.pos v).module r.pos :=
    cascade.toWatchStep.module r.pos
  obtain ⟨carriers, causes⟩ := serves.moves.carriers rfl
  have run : exec (.status payload) s = .next (drain 1000 (enterService r.pos v)) := reply
  have start : v.cal = s.cal ∧ v.vsw = s.vsw ∧ v.bsu = s.bsu ∧ v.mlc.tx = .none ∧ v.wch = s.wch := by
    rw [taken]
    exact ⟨rfl, rfl, rfl, rfl, rfl⟩
  obtain ⟨startCal, startVsw, startBsu, startTx, startWch⟩ := start
  refine ⟨_, run, ?_, ?_, ?_, ?_, ?_, ?_, fun isSpare => ?_, ?_, ?_, ?_⟩
  · rw [module, serves.state]
  · rw [module, serves.failures, record]
  · rw [module, serves.timer, startWch]
  · obtain ⟨q, stands, which⟩ := serves.poll
    exact ⟨q, cascade.grows.subset stands, which⟩
  · rw [tx']
    exact serves.moves.tx.trans startTx
  · have lamp : LampFollows s (enterService r.pos v) .idle .lampFault := by
      have lamp := serves.lamp
      unfold LampFollows at lamp ⊢
      rwa [startBsu] at lamp
    exact lamp.of_same bsu (congrArg anyUsable modules) (congrArg Pln.source pln)
  · obtain ⟨again, q, stands, which⟩ := spare (by rw [record]; exact isSpare)
    exact ⟨by rw [module, again], q, cascade.grows.subset stands, which⟩
  · refine ⟨_, takeReport_taken x ((tableOk_iff _).mp ok), published.of_same ?_ ?_⟩
    · exact cascade.toWatchStep.ctu.trans carriers
    · exact congrArg (fun y : Smp => y.causes.getLsbD 9) cascade.toWatchStep.smp |>.trans
        (congrArg (fun y : BitVec 13 => y.getLsbD 9) causes)
  · exact cal.trans (serves.moves.cal.trans startCal)
  · exact vsw.trans (serves.moves.vsw.trans startVsw)

/-- Settles O52: STATUS by `status_taken`, SCAN_LIST by `scanList_taken`, LEVEL_REPORT by `level_taken`. -/
theorem cellReportsAreTakenIn : Obligations.CellReportsAreTakenIn := by
  refine ⟨fun s calm hunt idle ok => ⟨?_, ?_⟩, fun s p level quality calm ok away => level_taken calm ok away⟩
  · intro r n d payload x tx kind parsed probe none wait _ scans room
    exact status_taken calm hunt idle ok tx kind parsed probe none wait scans room
  · intro r n d payload xs tx kind parsed
    exact scanList_taken calm hunt ok tx kind parsed

end Sys2Proof.Machine
end

section
/-! PROOFS. The bytes of a plan image, its checks and its clamping (R171, R174, R175). -/

namespace Sys2Proof.Machine

/-! ### The fields of an image as numbers (R171) -/

theorem append_toNat {m n : Nat} (x : BitVec m) (y : BitVec n) : (x ++ y).toNat = x.toNat * 2 ^ n + y.toNat := by
  rw [BitVec.toNat_append, ← Nat.shiftLeft_add_eq_or_of_lt y.isLt, Nat.shiftLeft_eq]

theorem at8_toNat (raw : List Byte) (i : Nat) : (at8 raw i).toNat = imageByte raw i := rfl

theorem at16_toNat (raw : List Byte) (i : Nat) : (at16 raw i).toNat = imageWord raw i := by
  simp only [at16, wordOf, append_toNat, at8_toNat, imageWord]
  omega

theorem at24_toNat (raw : List Byte) (i : Nat) : (at24 raw i).toNat = imageTag raw i := by
  simp only [at24, append_toNat, at8_toNat, imageTag, imageWord]
  omega

theorem at32_toNat (raw : List Byte) (i : Nat) : (at32 raw i).toNat = imageLong raw i := by
  have next : i + 2 + 1 = i + 3 := rfl
  simp only [at32, append_toNat, at8_toNat, imageLong, imageWord, next]
  omega

/-- A signed field is its unsigned value, less its modulus from the half up. -/
theorem toInt_eq_signed {n : Nat} (x : BitVec (n + 1)) : x.toInt = signed (n + 1) x.toNat := by
  have double : 2 ^ (n + 1) = 2 * 2 ^ n := by rw [Nat.pow_succ, Nat.mul_comm]
  rw [BitVec.toInt_eq_toNat_cond, signed, Nat.add_sub_cancel]
  by_cases low : x.toNat < 2 ^ n
  · rw [if_pos low, if_pos (by omega)]
  · rw [if_neg low, if_neg (by omega)]
    rfl

theorem at16_toInt (raw : List Byte) (i : Nat) : (at16 raw i).toInt = signed 16 (imageWord raw i) := by
  rw [toInt_eq_signed, at16_toNat]

theorem at32_toInt (raw : List Byte) (i : Nat) : (at32 raw i).toInt = signed 32 (imageLong raw i) := by
  rw [toInt_eq_signed, at32_toNat]

theorem byte_zero (raw : List Byte) (i : Nat) : at8 raw i = 0 ↔ imageByte raw i = 0 :=
  ⟨fun h => congrArg BitVec.toNat h, fun h => BitVec.eq_of_toNat_eq h⟩

/-! ### The tests of R174 -/

theorem all_range_eq (n : Nat) (f g : Nat → Bool) (h : ∀ j, f j = !g j) :
    (List.range n).all f = !(List.range n).any g := by
  rw [List.not_any_eq_all_not]
  exact congrArg _ (funext h)

theorem inRange_not (lo hi x : Nat) : (decide (lo ≤ x) && decide (x ≤ hi)) = !!inRange lo hi x := by
  rw [Bool.not_not, inRange]

theorem byte_beq (raw : List Byte) (i : Nat) {n : Nat} (small : n < 256) :
    (at8 raw i == BitVec.ofNat 8 n) = (imageByte raw i == n) := by
  rw [Bool.eq_iff_iff, beq_iff_eq, beq_iff_eq, ← BitVec.toNat_inj, BitVec.toNat_ofNat, Nat.mod_eq_of_lt small, at8_toNat]

/-- A character of a digit string, by its number. -/
theorem dialChar_eq (raw : List Byte) (i : Nat) : dialChar (at8 raw i) =
    (inRange 0x30 0x39 (imageByte raw i) || imageByte raw i == 0x2A || imageByte raw i == 0x23 || imageByte raw i == 0x2B) :=
  congrArg₂ (· || ·) (congrArg₂ (· || ·) (congrArg₂ (· || ·) rfl (byte_beq raw i (n := 0x2A) (by decide)))
    (byte_beq raw i (n := 0x23) (by decide))) (byte_beq raw i (n := 0x2B) (by decide))

theorem digitsOk_eq (raw : List Byte) (i : Nat) : digitsOk raw i = !notDigits raw i := by
  have characters : (atRun raw (i + 1) (imageByte raw i)).all dialChar =
      !(List.range (imageByte raw i)).any (fun j => !(inRange 0x30 0x39 (imageByte raw (i + 1 + j)) ||
        imageByte raw (i + 1 + j) == 0x2A || imageByte raw (i + 1 + j) == 0x23 || imageByte raw (i + 1 + j) == 0x2B)) := by
    rw [atRun, List.all_map]
    exact all_range_eq _ _ _ fun j => (dialChar_eq raw (i + 1 + j)).trans (Bool.not_not _).symm
  have length := inRange_not 1 20 (imageByte raw i)
  change ((decide (1 ≤ imageByte raw i) && decide (imageByte raw i ≤ 20)) && _) = _
  rw [at8_toNat, characters, length, ← Bool.not_or]
  rfl

/-- A kind byte 0, or 1 with a digit string that passes. -/
theorem kindByte_eq (raw : List Byte) (i k : Nat) : (at8 raw i == 0 || (at8 raw i == 1 && digitsOk raw k)) =
    !(decide (1 < imageByte raw i) || (imageByte raw i == 1 && notDigits raw k)) := by
  have zero := byte_beq raw i (n := 0) (by decide)
  have one := byte_beq raw i (n := 1) (by decide)
  change (at8 raw i == BitVec.ofNat 8 0 || (at8 raw i == BitVec.ofNat 8 1 && _)) = _
  rw [zero, one, digitsOk_eq]
  generalize imageByte raw i = b
  match b with
  | 0 => rfl
  | 1 => rfl
  | b + 2 => simp

theorem forms_eq (raw : List Byte) : (formOffsets raw).all (formOk raw) = !(List.range (imageByte raw 2)).any
    (fun j => decide (1 < imageByte raw (4 + 22 * j)) ||
      (imageByte raw (4 + 22 * j) == 1 && notDigits raw (5 + 22 * j))) := by
  rw [formOffsets, List.all_map, at8_toNat]
  refine all_range_eq _ _ _ fun j => ?_
  have next : 4 + 22 * j + 1 = 5 + 22 * j := by omega
  exact next ▸ kindByte_eq raw (4 + 22 * j) (4 + 22 * j + 1)

/-- A list has no element twice exactly when no later one equals an earlier one. -/
theorem noRepeat_iff (l : List (BitVec 24)) : noRepeat l = true ↔ l.Nodup := by
  induction l with
  | nil => simp [noRepeat]
  | cons x rest ih => simp [noRepeat, ih]

theorem tagsOk_eq (raw : List Byte) (count base : Nat) :
    tagsOk (tagsAt raw count base) = !badTags raw base (imageByte raw count) := by
  have value (j : Nat) : (at24 raw (base + 4 * j)).toNat = imageTag raw (base + 4 * j) := at24_toNat ..
  have same (i j : Nat) : at24 raw (base + 4 * i) = at24 raw (base + 4 * j) ↔
      imageTag raw (base + 4 * i) = imageTag raw (base + 4 * j) := by rw [← BitVec.toNat_inj, value, value]
  have zero (j : Nat) : at24 raw (base + 4 * j) = 0#24 ↔ imageTag raw (base + 4 * j) = 0 := by
    rw [← BitVec.toNat_inj, value, BitVec.toNat_zero]
  have distinct : noRepeat (tagsAt raw count base) = true ↔ ∀ j < imageByte raw count, ∀ i < j,
      imageTag raw (base + 4 * i) ≠ imageTag raw (base + 4 * j) := by
    rw [noRepeat_iff, tagsAt, List.nodup_map_iff_inj_on List.nodup_range, at8_toNat]
    constructor
    · intro inj j hj i hi equal
      exact absurd (inj i (List.mem_range.mpr (hi.trans hj)) j (List.mem_range.mpr hj) ((same i j).mpr equal)) hi.ne
    · intro apart i hi j hj equal
      rcases Nat.lt_trichotomy i j with lt | eq | gt
      · exact absurd ((same i j).mp equal) (apart j (List.mem_range.mp hj) i lt)
      · exact eq
      · exact absurd ((same j i).mp equal.symm) (apart i (List.mem_range.mp hi) j gt)
  have present : (tagsAt raw count base).all (fun t => t != 0) = true ↔
      ∀ j < imageByte raw count, imageTag raw (base + 4 * j) ≠ 0 := by
    simp [tagsAt, at8_toNat, zero]
  rw [Bool.eq_iff_iff, tagsOk, Bool.and_eq_true, present, distinct, Bool.not_eq_true', ← Bool.not_eq_true]
  simp only [badTags, List.any_eq_true, List.mem_range, Bool.or_eq_true, beq_iff_eq, not_exists, not_and, not_or]
  exact ⟨fun ⟨p, d⟩ j hj => ⟨p j hj, fun i hi => d j hj i hi⟩,
    fun h => ⟨fun j hj => (h j hj).1, fun j hj i hi => (h j hj).2 i hi⟩⟩

theorem printable_eq (raw : List Byte) (i n : Nat) : (atRun raw i n).all printable = !unprintable raw i n := by
  rw [atRun, List.all_map, unprintable]
  exact all_range_eq _ _ _ fun j => inRange_not 0x20 0x7E (imageByte raw (i + j))

theorem within_eq (raw : List Byte) (i limit : Nat) : within limit (at32 raw i) =
    !decide (limit < (signed 32 (imageLong raw i)).natAbs) := by
  rw [within, at32_toInt, Bool.eq_iff_iff]
  simp only [Bool.and_eq_true, decide_eq_true_eq, Bool.not_eq_true', decide_eq_false_iff_not]
  omega

theorem whenLocated_eq (raw : List Byte) {test fails : Bool} (h : test = !fails) :
    whenLocated raw test = !((imageByte raw 221 != 0) && fails) := by
  have zero := byte_beq raw 221 (n := 0) (by decide)
  change (at8 raw 221 == BitVec.ofNat 8 0 || test) = _
  rw [zero, h, Bool.not_and, bne, Bool.not_not]

theorem notAbove_eq (limit x : Nat) : decide (x ≤ limit) = !decide (limit < x) := by
  rw [Bool.eq_iff_iff]
  simp

theorem roleOf_active (b : Byte) : (roleOf b == .active) = (b.toNat == 0) := by
  unfold roleOf
  split
  next h => rw [h]; rfl
  next h => rw [h]; rfl
  next none one => simpa using none

theorem isWired_eq (straps : Straps) (p : Pos) : isWired straps p = decide (p.val < max straps.wiredCode.toNat 1) := by
  have count : wiredCount straps = max straps.wiredCode.toNat 1 := by
    unfold wiredCount
    split
    next none => rw [none]; rfl
    next some =>
      have positive : straps.wiredCode.toNat ≠ 0 := fun h => some (BitVec.eq_of_toNat_eq h)
      omega
  rw [isWired, count]

theorem planOf_roles (raw : List Byte) (p : Pos) : (planOf raw).roles.get p = roleOf (at8 raw (214 + p.val)) := by
  obtain rfl | rfl | rfl := pos_cases p <;> rfl

theorem rolesTest_eq (straps : Straps) (raw : List Byte) : rolesTest straps (planOf raw) =
    positions.any (fun p => decide (p.val < max straps.wiredCode.toNat 1) && imageByte raw (214 + p.val) == 0) := by
  refine congrArg positions.any (funext fun p => ?_)
  rw [isWired_eq, planOf_roles, roleOf_active, at8_toNat]

theorem roles_eq (straps : Straps) (raw : List Byte) :
    ((atRun raw 214 3).all (fun b => decide (b.toNat ≤ 2)) && rolesTest straps (planOf raw)) =
      !(decide (2 < imageByte raw 214) || decide (2 < imageByte raw 215) || decide (2 < imageByte raw 216) ||
        !positions.any (fun p => decide (p.val < max straps.wiredCode.toNat 1) && imageByte raw (214 + p.val) == 0)) := by
  have codes : (atRun raw 214 3).all (fun b => decide (b.toNat ≤ 2)) = (decide (imageByte raw 214 ≤ 2) &&
      (decide (imageByte raw 215 ≤ 2) && (decide (imageByte raw 216 ≤ 2) && true))) := rfl
  rw [codes, rolesTest_eq, notAbove_eq, notAbove_eq, notAbove_eq]
  simp only [Bool.and_true, Bool.not_or, Bool.not_not, Bool.and_assoc]

theorem allowed_eq (raw : List Byte) :
    (atRun raw 217 3).all (fun b => decide (1 ≤ b.toNat) && decide (b.toNat ≤ 7)) =
      !(!inRange 1 7 (imageByte raw 217) || !inRange 1 7 (imageByte raw 218) || !inRange 1 7 (imageByte raw 219)) := by
  have bands : (atRun raw 217 3).all (fun b => decide (1 ≤ b.toNat) && decide (b.toNat ≤ 7)) =
      (inRange 1 7 (imageByte raw 217) && (inRange 1 7 (imageByte raw 218) && (inRange 1 7 (imageByte raw 219) && true))) := rfl
  rw [bands]
  simp only [Bool.and_true, Bool.not_or, Bool.not_not, Bool.and_assoc]

/-! ### The checks in order (R174) -/

/-- The plan fields that R174 checks. -/
def checkedFields : List Nat := [1, 2, 3, 4, 5, 6, 7, 8, 14, 33, 34, 36, 37, 38, 39, 40, 43, 44]

theorem version_eq (raw : List Byte) : (at16 raw 0 == 1) = !(imageWord raw 0 != 1) := by
  rw [bne, Bool.not_not, Bool.eq_iff_iff, beq_iff_eq, beq_iff_eq, ← BitVec.toNat_inj, at16_toNat]
  rfl

/-- Each check of R174 passes exactly when `imageFails` does not say that its field fails. -/
theorem planChecks_eq (straps : Straps) (raw : List Byte) :
    planChecks straps raw = checkedFields.map (fun i => (i, !imageFails straps raw i)) := by
  have check {i : Nat} {a b : Bool} {l m : List (Nat × Bool)} (h : a = b) (rest : l = m) :
      (i, a) :: l = (i, b) :: m := by rw [h, rest]
  have located {test fails : Bool} (h : test = !fails) := whenLocated_eq raw h
  exact check (version_eq raw) <| check (inRange_not 1 4 _) <| check (forms_eq raw) <| check (kindByte_eq raw 92 93) <|
    check (notAbove_eq 8 _) <| check (notAbove_eq 8 _) <| check (tagsOk_eq raw 114 116) <| check (tagsOk_eq raw 115 148) <|
    check (notAbove_eq 1 _) <| check (roles_eq straps raw) <| check (allowed_eq raw) <| check (notAbove_eq 1 _) <|
    check (located (notAbove_eq 15 _)) <| check (located (printable_eq raw 224 16)) <|
    check (located (within_eq raw 240 90000000)) <| check (located (within_eq raw 244 180000000)) <|
    check (located (notAbove_eq 32 _)) <| check (located (printable_eq raw 255 _)) rfl

/-- A search in ascending numbers finds the least that passes the test. -/
theorem find_ascending {f : Nat → Bool} {l : List Nat} {i : Nat} (sorted : l.Pairwise (· < ·)) (there : i ∈ l)
    (hit : f i = true) (lower : ∀ j < i, f j = false) : l.find? f = some i := by
  induction l with
  | nil => cases there
  | cons x rest ih =>
    obtain ⟨least, sorted⟩ := List.pairwise_cons.mp sorted
    rcases List.mem_cons.mp there with rfl | below
    · rw [List.find?_cons_of_pos hit]
    · rw [List.find?_cons_of_neg (by rw [lower x (least i below)]; decide), ih sorted below]

/-- A field that R174 does not check does not fail. -/
theorem imageFails_checked {straps : Straps} {raw : List Byte} {i : Nat} (h : imageFails straps raw i = true) :
    i ∈ checkedFields := by
  unfold imageFails at h
  dsimp only at h
  split at h
  case h_19 => cases h
  all_goals decide

theorem firstFailing_eq (straps : Straps) (raw : List Byte) :
    firstFailing straps raw = checkedFields.find? (imageFails straps raw) := by
  rw [firstFailing, planChecks_eq, List.find?_map, Option.map_map]
  have test : ((fun c : Nat × Bool => !c.2) ∘ fun i => (i, !imageFails straps raw i)) = imageFails straps raw :=
    funext fun i => Bool.not_not _
  rw [test]
  exact congrFun Option.map_id _

theorem firstFailing_some {straps : Straps} {raw : List Byte} {i : Nat} (fails : imageFails straps raw i = true)
    (lower : ∀ j < i, imageFails straps raw j = false) : firstFailing straps raw = some i := by
  rw [firstFailing_eq]
  exact find_ascending (by decide) (imageFails_checked fails) fails lower

theorem firstFailing_none {straps : Straps} {raw : List Byte} (passes : ∀ i < 45, imageFails straps raw i = false) :
    firstFailing straps raw = none := by
  have small : ∀ i ∈ checkedFields, i < 45 := by decide
  rw [firstFailing_eq, List.find?_eq_none]
  intro i hi
  simp [passes i (small i hi)]

end Sys2Proof.Machine
end

section
/-! PROOFS. The plan that an image loads (R171, R175). -/

namespace Sys2Proof.Machine

/-! ### Clamping -/

theorem clampTo_eq {lo hi : Nat} (h : lo ≤ hi) (x : Nat) : clampTo lo hi x = nearest lo hi x := by
  unfold clampTo nearest
  split
  · omega
  · split <;> omega

theorem clampTens_eq {lo hi : Nat} (h : lo ≤ hi) (x : Nat) : clampTens lo hi x = nearestTen lo hi x := by
  rw [clampTens, clampTo_eq h, nearestTen]
  omega

theorem clampHunt_planOf (raw : List Byte) : (clampPlan (planOf raw)).hunt =
    { weightLow := nearest 0 15 (imageByte raw 180), weightMid := nearest 0 15 (imageByte raw 181)
      weightHigh := nearest 0 15 (imageByte raw 182), perRound := nearest 1 8 (imageByte raw 183)
      concurrency := nearest 1 3 (imageByte raw 184)
      scanScope := if imageByte raw 185 = 0 then .awakeOnly else .awakeAndDoze
      scoreFloor := nearest 0 300 (imageWord raw 186)
      minLevel := max (-130) (min (-90) (signed 16 (imageWord raw 188)))
      stagger := nearestTen 0 2000 (imageWord raw 190), setupTimeout := nearest 5 60 (imageByte raw 192)
      answerTimeout := nearest 20 180 (imageByte raw 193), backoffBase := nearest 1 30 (imageByte raw 194)
      messageRetries := nearest 0 7 (imageByte raw 195)
      backoffCap := max (nearest 10 300 (imageWord raw 196)) (nearest 1 30 (imageByte raw 194))
      benchTime := nearest 30 600 (imageWord raw 198), staleLimit := nearest 600 7200 (imageWord raw 200)
      scanInterval := nearest 30 3600 (imageWord raw 202) } := by
  have scope : (if at8 raw 185 = 0 then ScanScope.awakeOnly else .awakeAndDoze) =
      if imageByte raw 185 = 0 then .awakeOnly else .awakeAndDoze := if_congr (byte_zero raw 185) rfl rfl
  simp only [clampPlan, clampHunt, planOf, scope, at16_toNat, at16_toInt, at8_toNat]
  simp only [clampTo_eq, clampTens_eq, Nat.reduceLeDiff, max_comm]

theorem testBit_byte (raw : List Byte) (i k : Nat) : (at8 raw i).getLsbD k = (imageByte raw i / 2 ^ k % 2 == 1) := by
  rw [BitVec.getLsbD, at8_toNat, Nat.testBit_eq_decide_div_mod_eq]
  rfl

theorem clampCall_planOf (raw : List Byte) : (clampPlan (planOf raw)).call =
    { callbackWindow := nearest 0 1800 (imageWord raw 204), idleAnswer := imageByte raw 206 % 2 == 1
      ackTimeout := nearest 2 20 (imageByte raw 207), holdAfter := nearest 0 30 (imageByte raw 208)
      gap := imageByte raw 209, reassureOn := nearestTen 10 2000 (imageWord raw 210)
      reassureOff := nearestTen 100 10000 (imageWord raw 212) } := by
  have answer : (at8 raw 206).getLsbD 0 = (imageByte raw 206 % 2 == 1) := by
    rw [testBit_byte, Nat.pow_zero, Nat.div_one]
  simp only [clampPlan, clampCall, planOf, answer, at16_toNat, at8_toNat]
  simp only [clampTo_eq, clampTens_eq, Nat.reduceLeDiff]

theorem bandsOf_eq (raw : List Byte) (i : Nat) : bandsOf (at8 raw i) =
    ⟨imageByte raw i % 2 == 1, imageByte raw i / 2 % 2 == 1, imageByte raw i / 4 % 2 == 1⟩ := by
  rw [bandsOf, testBit_byte, testBit_byte, testBit_byte, Nat.pow_zero, Nat.div_one]
  rfl

theorem formAt_eq (raw : List Byte) (j : Nat) : formAt raw (4 + 22 * j) =
    if imageByte raw (4 + 22 * j) = 0 then .category
    else .digits (imageRun raw (6 + 22 * j) (imageByte raw (5 + 22 * j))) := by
  have length : 4 + 22 * j + 1 = 5 + 22 * j := by omega
  have start : 4 + 22 * j + 2 = 6 + 22 * j := by omega
  rw [formAt, length, start]
  exact if_congr (byte_zero raw _) rfl rfl

theorem bitVec_ofNat_toNat {n : Nat} (x : BitVec n) {k : Nat} (h : x.toNat = k) : x = BitVec.ofNat n k := by
  rw [← h, BitVec.ofNat_toNat, BitVec.setWidth_eq]

theorem tagsAt_eq (raw : List Byte) (count base : Nat) : tagsAt raw count base =
    (List.range (imageByte raw count)).map (fun j => BitVec.ofNat 24 (imageTag raw (base + 4 * j))) :=
  congrArg (List.map · (List.range (imageByte raw count)))
    (funext fun j => bitVec_ofNat_toNat _ (at24_toNat raw (base + 4 * j)))

theorem roleOf_eq (raw : List Byte) (i : Nat) : roleOf (at8 raw i) =
    if imageByte raw i = 0 then .active else if imageByte raw i = 1 then .spare else .absent := by
  unfold roleOf
  rw [at8_toNat]
  match imageByte raw i with
  | 0 => rfl
  | 1 => rfl
  | b + 2 => rfl

theorem locationAt_eq (raw : List Byte) : locationAt raw = if imageByte raw 221 = 0 then none else
    some
      { direction := raw.getD 222 0, boxId := imageRun raw 224 16, latitude := BitVec.ofNat 32 (imageLong raw 240)
        longitude := BitVec.ofNat 32 (imageLong raw 244), route := BitVec.ofNat 16 (imageWord raw 248)
        along := BitVec.ofNat 32 (imageLong raw 250), text := imageRun raw 255 (imageByte raw 254) } := by
  rw [← bitVec_ofNat_toNat _ (at32_toNat raw 240), ← bitVec_ofNat_toNat _ (at32_toNat raw 244),
    ← bitVec_ofNat_toNat _ (at16_toNat raw 248), ← bitVec_ofNat_toNat _ (at32_toNat raw 250)]
  exact if_congr (byte_zero raw 221) rfl rfl

/-! ### The clamp count -/

/-- The pairs of a value read and the value loaded that differ. -/
theorem differences_eq (pairs : List (Nat × Nat)) (xs ys : List Int) :
    differences (pairs.map (fun x => (x.1 : Int)) ++ xs) (pairs.map (fun x => (x.2 : Int)) ++ ys) =
      (pairs.filter (fun x => x.1 != x.2)).length + differences xs ys := by
  induction pairs with
  | nil => simp
  | cons x rest ih =>
    simp only [List.map_cons, List.cons_append, differences, ih]
    by_cases same : x.1 = x.2
    · simp [same]
    · have apart : (x.1 : Int) ≠ x.2 := by exact_mod_cast same
      simp only [apart, if_false, bne_iff_ne, ne_eq, same, not_false_eq_true, List.filter_cons_of_pos, List.length_cons]
      omega

/-- The clamp fields before the minimum level, each as the image gives it and as the plan has it. -/
def fieldsBefore (raw : List Byte) (plan : Plan) : List (Nat × Nat) :=
  [ (imageByte raw 180, plan.hunt.weightLow), (imageByte raw 181, plan.hunt.weightMid)
  , (imageByte raw 182, plan.hunt.weightHigh), (imageByte raw 183, plan.hunt.perRound)
  , (imageByte raw 184, plan.hunt.concurrency), (imageWord raw 186, plan.hunt.scoreFloor) ]

/-- The clamp fields after the minimum level. -/
def fieldsAfter (raw : List Byte) (plan : Plan) : List (Nat × Nat) :=
  [ (imageWord raw 190, plan.hunt.stagger), (imageByte raw 192, plan.hunt.setupTimeout)
  , (imageByte raw 193, plan.hunt.answerTimeout), (imageByte raw 194, plan.hunt.backoffBase)
  , (imageByte raw 195, plan.hunt.messageRetries), (imageWord raw 196, plan.hunt.backoffCap)
  , (imageWord raw 198, plan.hunt.benchTime), (imageWord raw 200, plan.hunt.staleLimit)
  , (imageWord raw 202, plan.hunt.scanInterval), (imageWord raw 204, plan.call.callbackWindow)
  , (imageByte raw 207, plan.call.ackTimeout), (imageByte raw 208, plan.call.holdAfter)
  , (imageWord raw 210, plan.call.reassureOn), (imageWord raw 212, plan.call.reassureOff) ]

theorem clampFields_read (raw : List Byte) (plan : Plan) : clampFields (planOf raw) =
    (fieldsBefore raw plan).map (fun x => (x.1 : Int)) ++
      (signed 16 (imageWord raw 188) :: ((fieldsAfter raw plan).map (fun x => (x.1 : Int)) ++ [])) := by
  simp only [clampFields, planOf, at16_toNat, at16_toInt, at8_toNat]
  rfl

theorem clampFields_loaded (raw : List Byte) (plan : Plan) : clampFields plan =
    (fieldsBefore raw plan).map (fun x => (x.2 : Int)) ++
      (plan.hunt.minLevel :: ((fieldsAfter raw plan).map (fun x => (x.2 : Int)) ++ [])) := rfl

theorem clampCount_eq (raw : List Byte) : clampCount (planOf raw) =
    ((fieldsBefore raw (clampPlan (planOf raw)) ++ fieldsAfter raw (clampPlan (planOf raw))).filter
      (fun x => x.1 != x.2)).length +
      (if signed 16 (imageWord raw 188) = (clampPlan (planOf raw)).hunt.minLevel then 0 else 1) := by
  rw [clampCount, clampFields_read raw (clampPlan (planOf raw)), clampFields_loaded raw (clampPlan (planOf raw)),
    differences_eq, differences, differences_eq, List.filter_append, List.length_append]
  have none : differences [] [] = 0 := rfl
  omega

/-- The clamped plan of an image is the one that it loads (R171, R175). -/
theorem imageLoaded (raw : List Byte) : ImageLoaded raw (clampPlan (planOf raw)) (clampCount (planOf raw)) where
  forms := by
    change (formOffsets raw).map (formAt raw) = _
    rw [formOffsets, List.map_map]
    exact congrArg (List.map · (List.range (imageByte raw 2))) (funext fun j => formAt_eq raw j)
  testDial := if_congr (byte_zero raw 92) rfl rfl
  preferred := tagsAt_eq raw 114 116
  barred := tagsAt_eq raw 115 148
  hunt := clampHunt_planOf raw
  call := clampCall_planOf raw
  roles p := (planOf_roles raw p).trans (roleOf_eq raw _)
  allowed p := by
    rw [← bandsOf_eq]
    obtain rfl | rfl | rfl := pos_cases p <;> rfl
  safe o := by
    rw [← testBit_byte]
    cases o <;> rfl
  location := locationAt_eq raw
  changed := clampCount_eq raw

end Sys2Proof.Machine
end

section
/-! PROOFS. A plan installed in a part at rest, and the completion of a copy (O57). -/

namespace Sys2Proof.Machine

theorem LinkMoves.published {l : Bool} {s0 s : State} (h : LinkMoves l s0 s) : LinkMoves l s0 (publishStatus s) :=
  { h with }

/-! ### MLC takes the roles of a plan (R154, R159) -/

theorem applyRole_moves {s0 s : State} (p : Pos) (role : Role) (bands : Bands) (wait : s.mlc.wait = none)
    (h : LinkMoves false s0 s) : LinkMoves false s0 (applyRole p role bands s) := by
  have changed := changeRole_moves p role bands (h.withModule (p := p) (m := { s.module p with pendingRole := none }))
  have still : (changeRole p role bands (s.withModule p { s.module p with pendingRole := none })).mlc.wait = none :=
    (changeRole_moves (l := false) p role bands (LinkMoves.refl _)).wait.trans wait
  unfold applyRole
  split
  · exact h.withModule
  · split
    · exact changed.ite (changeState_moves p .absent still (fun lost => absurd lost Bool.noConfusion) changed)
    · dsimp only
      split
      · exact queueSpareSleep_moves p changed
      · split
        · exact enterBoot_moves p _ still changed
        · exact changed.ite h.withModule

theorem takeRole_moves {s0 s : State} (plan : Plan) (p : Pos) (wait : s.mlc.wait = none) (h : LinkMoves false s0 s) :
    LinkMoves false s0 (takeRole plan p s) := by
  unfold takeRole
  dsimp only
  split
  · exact applyRole_moves p _ _ wait h.withModule
  · exact h

theorem substituteIfLost_moves {s0 s : State} (p : Pos) (h : LinkMoves false s0 s) :
    LinkMoves false s0 (substituteIfLost p s) := (substitute_moves p h).ite h

theorem takeRoles_moves (plan : Plan) {s : State} (wait : s.mlc.wait = none) : LinkMoves false s (takeRoles plan s) := by
  have one := takeRole_moves plan 0 wait (LinkMoves.refl s)
  have two := takeRole_moves plan 1 (one.wait.trans wait) one
  have three := takeRole_moves plan 2 (two.wait.trans wait) two
  exact substituteIfLost_moves 2 (substituteIfLost_moves 1 (substituteIfLost_moves 0 three))

theorem releaseHeld_moves {s0 s : State} (p : Pos) (wait : s.mlc.wait = none) (h : LinkMoves false s0 s) :
    LinkMoves false s0 (releaseHeld p s) := (enterBoot_moves p _ wait h).ite h

theorem releaseModules_moves {s : State} (wait : s.mlc.wait = none) : LinkMoves false s (releaseModules s) := by
  have one := releaseHeld_moves 0 wait (LinkMoves.refl s)
  have two := releaseHeld_moves 1 (one.wait.trans wait) one
  exact releaseHeld_moves 2 (two.wait.trans wait) two

/-! ### The table under the plan (R18) -/

theorem mem_placeAll {es table : List Entry} {x : Entry} : x ∈ placeAll es table ↔ x ∈ es ∨ x ∈ table := by
  induction es generalizing table with
  | nil => simp [placeAll]
  | cons e rest ih =>
    rw [placeAll, ih, mem_placeEntry, List.mem_cons]
    tauto

theorem length_placeAll (es table : List Entry) : (placeAll es table).length = es.length + table.length := by
  induction es generalizing table with
  | nil => simp [placeAll]
  | cons e rest ih =>
    rw [placeAll, ih, length_placeEntry, List.length_cons]
    omega

theorem tableReplanned (plan : Plan) {table : List Entry} (ok : tableOk table = true) :
    TableReplanned plan table (replanTable plan table) where
  length := by simp [replanTable, length_placeAll]
  order := (inRankOrder_iff _).mpr ((tableOk_iff _).mp (replanTable_tableOk ok)).rank
  entries e he := ⟨replanned plan e, mem_placeAll.mpr (Or.inl (List.mem_map_of_mem he)), rfl⟩

/-! ### The installation (R176, R180) -/

/-- A plan has been installed: PLN's state is `pln`, the table is `table`, MLC has moved, and reports wait that find a part
at rest. -/
structure Installs (s t : State) (pln : Pln) (table : List Entry) : Prop where
  pln : t.pln = pln
  table : t.ctu.table = table
  ord : t.ord = s.ord
  mem : t.smp.mem = s.smp.mem
  planProtected : t.smp.planProtected = s.smp.planProtected
  clock : t.clock = s.clock
  hnt : t.hnt = s.hnt
  cal : t.cal = s.cal
  wch : t.wch = s.wch
  wait : t.mlc.wait = s.mlc.wait
  posts : ∃ ms, t.inbox = s.inbox ++ ms ∧ ∀ m ∈ ms, restful m = true

variable {s t u : State} {pln : Pln} {table : List Entry}

theorem Installs.moves (h : Installs s t pln table) (g : LinkMoves false t u) : Installs s u pln table where
  pln := g.pln.trans h.pln
  table := by rw [(g.carriers rfl).1, h.table]
  ord := g.ord.trans h.ord
  mem := g.mem.trans h.mem
  planProtected := g.planProtected.trans h.planProtected
  clock := g.clock.trans h.clock
  hnt := g.hnt.trans h.hnt
  cal := g.cal.trans h.cal
  wch := g.wch.trans h.wch
  wait := g.wait.trans h.wait
  posts := by
    obtain ⟨ms, e, calm⟩ := h.posts
    obtain ⟨ns, f, calm'⟩ := g.posts
    exact ⟨ms ++ ns, by rw [f, e, List.append_assoc],
      fun m hm => (List.mem_append.mp hm).elim (calm m) (calm' m)⟩

theorem Installs.withPln (h : Installs s t pln table) (p : Pln) : Installs s (t.withPln p) p table := { h with pln := rfl }

theorem ctuReplan_installs (old new : Plan) (p : Pln) (s : State) :
    Installs s (ctuReplan old new (s.withPln p)) p (replanTable new s.ctu.table) := by
  obtain ⟨g, c, e⟩ := publishTable_eq s.ctu.table true
    ((s.withPln p).withCtu { s.ctu with table := replanTable new s.ctu.table })
  obtain ⟨ms, told, kind, _⟩ := reportNewKeys_eq (keysWhere
    (fun e => eligible s.mlc.modules new e && !eligibleKey s.mlc.modules old s.ctu.table e.key) (replanTable new s.ctu.table))
    (publishTable s.ctu.table true ((s.withPln p).withCtu { s.ctu with table := replanTable new s.ctu.table }))
  have whole : ctuReplan old new (s.withPln p) =
      (publishTable s.ctu.table true ((s.withPln p).withCtu { s.ctu with table := replanTable new s.ctu.table })).withInbox
        ((publishTable s.ctu.table true
          ((s.withPln p).withCtu { s.ctu with table := replanTable new s.ctu.table })).inbox ++ ms) := told
  rw [whole, e]
  refine ⟨rfl, rfl, rfl, rfl, rfl, rfl, rfl, rfl, rfl, rfl, ms, rfl, fun m hm => ?_⟩
  obtain ⟨keys, rfl⟩ := kind m hm
  rfl

theorem install_installs (plan : Plan) (source : PlanSource) {s : State} (wait : s.mlc.wait = none) :
    Installs s (install plan source s) { s.pln with plan := plan, damaged := [], source := source }
      (replanTable plan s.ctu.table) := by
  have replanned := ctuReplan_installs s.pln.plan plan { s.pln with plan := plan, damaged := [], source := source } s
  generalize whole : ctuReplan s.pln.plan plan
    (s.withPln { s.pln with plan := plan, damaged := [], source := source }) = v at replanned
  have lamp := (takeRoles_moves plan (replanned.wait.trans wait)).lamp
  have moves : LinkMoves false v (post .hntPlan (if s.pln.source = source then bsuFaultLamp (takeRoles plan v)
      else publishStatus (bsuFaultLamp (takeRoles plan v)))) :=
    LinkMoves.postAll (ms := [.hntPlan]) (lamp.ite lamp.published) (by simp [restful])
  rw [← whole] at moves
  exact (whole ▸ replanned).moves moves

/-- PLN's state after an installation that also ends HOLDING. -/
def releasedPln (plan : Plan) (source : PlanSource) (x : Pln) : Pln :=
  { x with
    plan := plan, damaged := [], source := source, phase := .released
    grace := if x.phase = .holding then none else x.grace }

theorem installAndRelease_installs (plan : Plan) (source : PlanSource) {s : State} (wait : s.mlc.wait = none) :
    Installs s (installAndRelease plan source s) (releasedPln plan source s.pln) (replanTable plan s.ctu.table) := by
  have installed := install_installs plan source wait
  have phase : (install plan source s).pln.phase = s.pln.phase := (congrArg Pln.phase installed.pln).trans rfl
  have grace : (install plan source s).pln = { s.pln with plan := plan, damaged := [], source := source } := installed.pln
  unfold installAndRelease
  dsimp only
  rw [phase]
  split
  next holding =>
    have ended := (installed.withPln { (install plan source s).pln with phase := .released, grace := none }).moves
      (releaseModules_moves (installed.wait.trans wait))
    have same : releasedPln plan source s.pln = { (install plan source s).pln with phase := .released, grace := none } := by
      rw [grace, releasedPln, if_pos holding]
    rw [same]
    exact ended
  next released =>
    have same : releasedPln plan source s.pln = { s.pln with plan := plan, damaged := [], source := source } := by
      rw [releasedPln, if_neg released]
      cases here : s.pln.phase with
      | holding => exact absurd here released
      | released => simp [← here]
    rw [same]
    exact installed

/-! ### The completion of a copy (R173 to R175) -/

theorem Completed.before {v : State} {h : Held} {o : OrderOutcome} {d : Word} (c : Completed v t h o d)
    (ord : v.ord = s.ord) (mem : v.smp.mem = s.smp.mem) (clock : v.clock = s.clock) : Completed s t h o d := by
  obtain ⟨slot, result, memory, cause⟩ := c
  exact ⟨by rw [slot, ord], by rwa [← clock], by rwa [← mem], cause⟩

theorem isTakenBy_of {h : Held} {kind : Nat} (taken : s.ord.slots.get h.slot = .taken kind h.take) :
    isTakenBy h (s.ord.slots.get h.slot) = true := by
  simp [taken, isTakenBy]

/-- A held LOAD PLAN completed: the slot and the memory, ORDER_DONE, and PLN holding nothing. -/
theorem completeLoad_held {h : Held} {kind : Nat} (o : OrderOutcome) (d : Word) (wf : Memory.wf s.smp.mem = true)
    (held : s.pln.held = some h) (taken : s.ord.slots.get h.slot = .taken kind h.take) :
    (∃ slots mem, completeLoad o d s = ((s.withOrd { s.ord with slots := slots }).withSmp
      { s.smp with mem := mem, causes := causeSet s.smp.causes .orderDone }).withPln { s.pln with held := none }) ∧
    Completed s (completeLoad o d s) h o d := by
  have whole : completeLoad o d s = (complete h o d s).withPln { s.pln with held := none } := by
    rw [completeLoad, held]
    rfl
  have completed := completed_of_taken o d wf (isTakenBy_of taken)
  obtain ⟨slots, mem, e⟩ := complete_eq o d (isTakenBy_of taken)
  refine ⟨⟨slots, mem, by rw [whole, e]⟩, ?_⟩
  rw [whole]
  exact completed.of_same rfl rfl

/-- The state in which a completed copy is judged. -/
def copied (s : State) : State := (s.withSmp { s.smp with planProtected := false }).withPln { s.pln with copy := none }

/-- What PLN does with a copied image. -/
def judge (raw : List Byte) (c : Copy) (s : State) : State :=
  if s.cal.ctx.state ≠ .idle then discardStaged (completeLoad .busy 0 s)
  else
    match firstFailing s.straps raw with
    | some i => discardStaged (completeLoad .invalidPlan (BitVec.ofNat 16 i) s)
    | none => loadImage raw c s

theorem plnCopyCompletion_eq {c : Copy} {raw : List Byte} (copy : s.pln.copy = some c)
    (staged : s.pln.staged = .bytes raw) : plnCopyCompletion s = judge raw c (copied s) := by
  unfold plnCopyCompletion
  split
  next c' raw' copy' staged' =>
    obtain rfl : c = c' := Option.some.inj (copy.symm.trans copy')
    obtain rfl : raw = raw' := Staged.bytes.inj (staged.symm.trans staged')
    rfl
  next other => exact absurd staged (other c raw copy)

theorem judge_invalid {c : Copy} {raw : List Byte} {i : Nat} (idle : s.cal.ctx.state = .idle)
    (fails : firstFailing s.straps raw = some i) :
    judge raw c s = discardStaged (completeLoad .invalidPlan (BitVec.ofNat 16 i) s) := by
  rw [judge, if_neg (by simp [idle]), fails]

theorem judge_loaded {c : Copy} {raw : List Byte} (idle : s.cal.ctx.state = .idle)
    (passes : firstFailing s.straps raw = none) : judge raw c s = loadImage raw c s := by
  rw [judge, if_neg (by simp [idle]), passes]

/-- A copy that is not loaded: its order completes, the image is forgotten, and the plan stays. -/
theorem copy_turnedAway {h : Held} {kind : Nat} (o : OrderOutcome) (d : Word) (quiet : s.inbox = [])
    (wf : Memory.wf s.smp.mem = true) (held : s.pln.held = some h)
    (taken : s.ord.slots.get h.slot = .taken kind h.take) : ∃ t, settled (discardStaged (completeLoad o d (copied s))) = .next t ∧
      (Completed s t h o d ∧ t.pln.held = none ∧ t.pln.staged = .none) ∧ t.pln.copy = none ∧
      t.smp.planProtected = false ∧ t.pln.plan = s.pln.plan ∧ t.pln.phase = s.pln.phase := by
  obtain ⟨⟨slots, mem, e⟩, completed⟩ := completeLoad_held (s := copied s) o d wf held taken
  have completed := completed.before (s := s) rfl rfl rfl
  rw [e] at completed ⊢
  exact ⟨_, settled_of_inbox quiet, ⟨completed.of_same rfl rfl, rfl, rfl⟩, rfl, rfl, rfl, rfl⟩

theorem setStoreState_eq (x : StoreState) (s : State) : ∃ g, setStoreState x s =
    (s.withPln { s.pln with storeState := x }).withSmp { s.smp with statusGen := g } := by
  unfold setStoreState
  split
  next same =>
    refine ⟨s.smp.statusGen, ?_⟩
    rw [← same]
    rfl
  · exact ⟨s.smp.statusGen + 2, rfl⟩

theorem Installs.resting {v : State} (h : Installs s t pln table) (r : Resting s) (sound : v.pln.damaged = [])
    (wch : v.wch = t.wch) (hnt : v.hnt = t.hnt) (cal : v.cal = t.cal) : Resting v where
  sound := sound
  order := by rw [wch, h.wch, r.order]
  gather := by rw [wch, h.wch, r.gather]
  hunt := by
    have same : huntRests v = huntRests s := by simp only [huntRests, noRecord, State.record, hnt, h.hnt]
    rw [same, r.hunt]
  call := by rw [cal, h.cal, r.call]

/-- What a loaded image leaves, whatever becomes of its order. -/
theorem load_settles {plan : Plan} {v y : State} (quiet : v.inbox = []) (r : Resting v) (wait : v.mlc.wait = none)
    (inbox : y.inbox = (installAndRelease plan .host v).inbox) (sound : y.pln.damaged = [])
    (wch : y.wch = (installAndRelease plan .host v).wch) (hnt : y.hnt = (installAndRelease plan .host v).hnt)
    (cal : y.cal = (installAndRelease plan .host v).cal) (ctu : y.ctu = (installAndRelease plan .host v).ctu) :
    ∃ t, settled y = .next t ∧ t.pln = y.pln ∧ t.ord = y.ord ∧ t.smp = y.smp ∧
      t.ctu.table = replanTable plan v.ctu.table := by
  have installed := installAndRelease_installs plan .host wait
  obtain ⟨ms, posted, calm⟩ := installed.posts
  obtain ⟨t, run, step⟩ := settles_resting (u := y) (by rwa [inbox, posted, quiet, List.nil_append])
    (installed.resting r sound wch hnt cal)
  refine ⟨t, run, step.pln, step.ord, step.smp, ?_⟩
  rw [step.ctu]
  exact (congrArg Ctu.table ctu).trans installed.table

/-- A copy whose image passes the checks: the plan installed, and its order completed or kept with the store. -/
theorem copy_loaded {c : Copy} {raw : List Byte} {h : Held} {kind : Nat} (quiet : s.inbox = [])
    (wf : Memory.wf s.smp.mem = true) (held : s.pln.held = some h) (taken : s.ord.slots.get h.slot = .taken kind h.take)
    (r : Resting s) (wait : s.mlc.wait = none) : ∃ t, settled (loadImage raw c (copied s)) = .next t ∧
      t.pln.copy = none ∧ t.smp.planProtected = false ∧ t.pln.damaged = [] ∧ t.pln.source = .host ∧
      t.pln.phase = .released ∧ t.pln.plan = clampPlan (planOf raw) ∧
      t.ctu.table = replanTable (clampPlan (planOf raw)) s.ctu.table ∧
      (c.persist = false → Completed s t h .loaded (loadDetail (clampCount (planOf raw)) c.trespassSeen) ∧
        t.pln.held = none ∧ t.pln.staged = .none) ∧
      (c.persist = true → t.pln.storeState = .storing ∧ t.pln.storePhase = some .marker ∧
        t.pln.staged = .plan (clampPlan (planOf raw)) ∧ t.pln.held = some h ∧
        t.pln.detail = loadDetail (clampCount (planOf raw)) c.trespassSeen ∧ t.ord.slots = s.ord.slots) := by
  have resting : Resting (copied s) := ⟨⟨r.sound, r.order, r.gather⟩, r.hunt, r.call⟩
  have installed := installAndRelease_installs (clampPlan (planOf raw)) .host (s := copied s) wait
  have settles {y : State} := load_settles (plan := clampPlan (planOf raw)) (v := copied s) (y := y) quiet resting wait
  generalize w_eq : installAndRelease (clampPlan (planOf raw)) .host (copied s) = w at installed settles
  have loaded : loadImage raw c (copied s) =
      if c.persist then startStore (clampPlan (planOf raw)) (loadDetail (clampCount (planOf raw)) c.trespassSeen) w
      else completeLoad .loaded (loadDetail (clampCount (planOf raw)) c.trespassSeen) (discardStaged w) := by
    rw [← w_eq]
    rfl
  have pln := installed.pln
  cases persist : c.persist with
  | true =>
    obtain ⟨g, store⟩ := setStoreState_eq .storing (w.withPln { w.pln with
      staged := .plan (clampPlan (planOf raw)), storePhase := some .marker
      detail := loadDetail (clampCount (planOf raw)) c.trespassSeen })
    have whole := loaded.trans ((if_pos persist).trans store)
    rw [whole]
    obtain ⟨t, run, pln', ord, smp, carriers⟩ := settles (y := ((w.withPln { w.pln with
      staged := .plan (clampPlan (planOf raw)), storePhase := some .marker
      detail := loadDetail (clampCount (planOf raw)) c.trespassSeen }).withPln { w.pln with
        staged := .plan (clampPlan (planOf raw)), storePhase := some .marker
        detail := loadDetail (clampCount (planOf raw)) c.trespassSeen, storeState := .storing }).withSmp
          { w.smp with statusGen := g }) rfl (by rw [pln]; rfl) rfl rfl rfl rfl
    refine ⟨t, run, ?_⟩
    rw [pln', pln, smp, ord]
    exact ⟨rfl, installed.planProtected, rfl, rfl, rfl, rfl, carriers, fun no => absurd no Bool.noConfusion,
      fun _ => ⟨rfl, rfl, rfl, held, rfl, congrArg Ord.slots installed.ord⟩⟩
  | false =>
    have heldW : (discardStaged w).pln.held = some h := by
      rw [discardStaged, pln]
      exact held
    obtain ⟨⟨slots, mem, e⟩, completed⟩ := completeLoad_held (s := discardStaged w) (h := h) (kind := kind) .loaded
      (loadDetail (clampCount (planOf raw)) c.trespassSeen) 
      ((congrArg Memory.wf installed.mem).trans wf) heldW
      (by rw [← taken]; exact congrArg (fun o : Ord => o.slots.get h.slot) installed.ord)
    have completed := completed.before (s := s) installed.ord installed.mem installed.clock
    have whole := loaded.trans ((if_neg (by simp [persist])).trans e)
    rw [whole]
    rw [e] at completed
    obtain ⟨t, run, pln', ord, smp, carriers⟩ := settles (y := (((discardStaged w).withOrd
      { (discardStaged w).ord with slots := slots }).withSmp { (discardStaged w).smp with
        mem := mem, causes := causeSet (discardStaged w).smp.causes .orderDone }).withPln
          { (discardStaged w).pln with held := none }) rfl (by rw [discardStaged, pln]; rfl) rfl rfl rfl rfl
    have completed := completed.of_same ord smp
    refine ⟨t, run, ?_⟩
    rw [pln', smp, discardStaged, pln]
    exact ⟨rfl, installed.planProtected, rfl, rfl, rfl, rfl, carriers,
      fun _ => ⟨completed, rfl, rfl⟩, fun yes => absurd yes Bool.noConfusion⟩

/-- Settles O57: the three ends of a copy (`judge`), with the image's fields by `imageLoaded` and the table by
`tableReplanned`. -/
theorem copiesComplete : Obligations.CopiesComplete := by
  intro s c raw h kind calm wf copy staged held taken
  obtain ⟨quiet, _⟩ := (calmPart_iff s).mp calm
  have run : exec .copyCompletion s = settled (judge raw c (copied s)) :=
    congrArg settled (plnCopyCompletion_eq copy staged)
  rw [run]
  refine ⟨fun busy => ?_, fun i idle fails lower => ?_, fun idle passes hunt scans wait => ?_⟩
  · have whole : judge raw c (copied s) = discardStaged (completeLoad .busy 0 (copied s)) := if_pos busy
    obtain ⟨t, e, done, noCopy, free, plan, _⟩ := copy_turnedAway .busy 0 quiet wf held taken
    exact ⟨t, by rw [whole, e], done, noCopy, free, plan⟩
  · have whole := judge_invalid (s := copied s) (c := c) idle (firstFailing_some fails lower)
    rw [whole]
    exact copy_turnedAway .invalidPlan _ quiet wf held taken
  · have whole := judge_loaded (s := copied s) (c := c) idle (firstFailing_none passes)
    obtain ⟨t, e, noCopy, free, sound, source, phase, plan, table, done, stored⟩ :=
      copy_loaded (c := c) (raw := raw) quiet wf held taken (resting_of calm hunt scans idle) wait
    refine ⟨t, by rw [whole, e], noCopy, free, sound, source, phase, ⟨clampCount (planOf raw), ?_, done, ?_⟩, fun ok => ?_⟩
    · rw [plan]
      exact imageLoaded raw
    · rw [plan]
      exact stored
    · rw [plan, table]
      exact tableReplanned _ ok

end Sys2Proof.Machine
end

section
/-! PROOFS. The first answer, with a second attempt to release: a state that refutes O42. -/

namespace Sys2Proof.Machine

/-- An attempt in SENT. -/
def sentAttempt (p : Pos) : Attempt where
  number := 1
  key := ⟨p, 1, 1⟩
  form := 0
  state := .sent
  timer := none
  outcome := .none
  releaseOnReply := false
  strayOnEnd := false
  request := none

/-- A REJECT in position 1's call place that is LMU's, under the number that the next DATA but one takes. -/
def rejectOfLmu : Request where
  owners := [.lmu]
  pos := 1
  kind := .reject
  payload := []
  number := 2

/-- A hunt with two attempts in SENT, and such a REJECT in the queue. -/
def twoSent : State :=
  { State.reset with
    hnt := { resetHnt with state := .round, records := ⟨some (sentAttempt 0), some (sentAttempt 1), none⟩ }
    cal := { resetCal with ctx := { resetContext with state := .hunting }, held7 := stateFlags .hunting }
    mlc := { resetMlc defaultStraps (PerPos.all false) with queue := [rejectOfLmu] } }

/-- The state that a command answers with. -/
def answered : Host.Outcome State Fault Refusal → Option State
  | .next t => some t
  | _ => none

/-- The surplus RELEASE displaces the REJECT, and LMU takes DISPLACED for its own DATA: the delivery concludes, and the call
enters TALK. -/
theorem twoSent_talks : (answered (exec (.callAnswered 0) twoSent)).map (fun t => t.cal.ctx.state) = some .talk := by
  rfl

/-- Refutes O42, in its second part: nothing there keeps the request that the surplus RELEASE displaces from being LMU's,
under the number of the DATA that the connection queues. In `twoSent` its DISPLACED ends the delivery, and the call is in TALK
and not in LOCATING. -/
theorem not_firstAnswerConnects : ¬ Obligations.FirstAnswerConnects := by
  rintro ⟨_, second⟩
  obtain ⟨t, run, _, _, _, locating, _⟩ := second twoSent 0 1 (sentAttempt 0) (sentAttempt 1) rfl rfl (Or.inl rfl)
    (by decide) rfl (by decide) rfl rfl (Or.inl rfl) rfl rfl rfl rfl rfl
  have talk := twoSent_talks
  rw [run] at talk
  exact absurd (locating.symm.trans (Option.some.inj talk)) (by decide)

end Sys2Proof.Machine
end

section
/-! PROOFS. What a change of the call's state asks of the neighbours (R87), with the plan sound and WCH awake. -/

namespace Sys2Proof.Machine

/-! ### VSW (R108 to R112) -/

/-- The voice switch's connection and mutes as they were. -/
structure SamePath (v w : Vsw) : Prop where
  conn : w.conn = v.conn
  uplink : w.uplinkMute = v.uplinkMute
  downlink : w.downlinkMute = v.downlinkMute

theorem SamePath.trans {u v w : Vsw} (h : SamePath u v) (g : SamePath v w) : SamePath u w :=
  ⟨g.conn.trans h.conn, g.uplink.trans h.uplink, g.downlink.trans h.downlink⟩

/-- A tone requested or withdrawn moves the voice switch's tones, and nothing else. -/
theorem vswTone_eq (t : Tone) (present : Bool) {s : State} (sound : s.pln.damaged = []) : ∃ v,
    vswTone t present s = s.withVsw v ∧ v.requested = s.vsw.requested.put t present ∧ SamePath s.vsw v := by
  unfold vswTone retune
  dsimp only
  split
  · exact ⟨_, rfl, rfl, rfl, rfl, rfl⟩
  · split
    · exact ⟨_, rfl, rfl, rfl, rfl, rfl⟩
    next tone _ =>
      have read (u : State) (h : u.pln.damaged = []) : touchAll (cadenceFields tone) u = u := touchAll_sound h _
      unfold cadenceStart
      rw [read _ (by exact sound)]
      exact ⟨_, rfl, rfl, rfl, rfl, rfl⟩

/-- A link request: the position is linked, at once or after the gap, and the tones and the mutes stay. -/
theorem vswLink_eq (p : Pos) {s : State} (sound : s.pln.damaged = []) : ∃ v, vswLink p s = s.withVsw v ∧
    (v.conn = .linked p ∨ v.conn = .gap p) ∧ v.requested = s.vsw.requested := by
  unfold vswLink
  rw [touch_sound sound]
  split
  next linked => exact ⟨s.vsw, rfl, Or.inl linked, rfl⟩
  · dsimp only
    split
    · exact ⟨_, rfl, Or.inl rfl, rfl⟩
    · exact ⟨_, rfl, Or.inr rfl, rfl⟩

theorem withdrawTones_eq {s : State} (sound : s.pln.damaged = []) : ∃ v, withdrawTones s = s.withVsw v ∧
    v.requested = (s.vsw.requested.put .reassure false).put .chime false := by
  obtain ⟨v, one, requested, _⟩ := vswTone_eq .reassure false sound
  obtain ⟨w, two, requested', _⟩ := vswTone_eq .chime false (s := s.withVsw v) sound
  refine ⟨w, ?_, by rw [requested']; exact congrArg (fun x : ToneSet => x.put .chime false) requested⟩
  rw [withdrawTones, one, two]
  rfl

/-- The voice switch of a call that has entered LOCATING or TALK at a position. -/
structure VoiceAt (p : Pos) (muted chime : Bool) (old new : Vsw) : Prop where
  conn : new.conn = .linked p ∨ new.conn = .gap p
  uplink : new.uplinkMute = muted
  downlink : new.downlinkMute = muted
  ring : new.requested.callbackRing = old.requested.callbackRing
  chime : new.requested.chime = chime

theorem stateAudio_locating {s : State} {p : Pos} (sound : s.pln.damaged = [])
    (serving : servingPos s.cal.ctx.serving = some p) :
    ∃ v, stateAudio .locating s = s.withVsw v ∧ VoiceAt p true false s.vsw v := by
  obtain ⟨v, tones, requested⟩ := withdrawTones_eq sound
  obtain ⟨w, link, conn, requested'⟩ := vswLink_eq p (s := s.withVsw v) sound
  have requested' : w.requested = v.requested := requested'
  have here : servingPos (s.withVsw v).cal.ctx.serving = some p := serving
  refine ⟨{ w with uplinkMute := true, downlinkMute := true }, ?_, conn, rfl, rfl, ?_, ?_⟩
  · simp only [stateAudio, tones, here, link]
    rfl
  · exact (congrArg ToneSet.callbackRing (requested'.trans requested)).trans rfl
  · exact congrArg ToneSet.chime (requested'.trans requested)

theorem stateAudio_talk {s : State} {p : Pos} (sound : s.pln.damaged = [])
    (serving : servingPos s.cal.ctx.serving = some p) :
    ∃ v, stateAudio .talk s = s.withVsw v ∧ VoiceAt p false true s.vsw v := by
  obtain ⟨v, tones, requested⟩ := withdrawTones_eq sound
  obtain ⟨w, link, conn, requested'⟩ := vswLink_eq p (s := s.withVsw v) sound
  obtain ⟨x, chime, requested'', path⟩ := vswTone_eq .chime true (s := (s.withVsw v).withVsw w) sound
  have requested' : w.requested = v.requested := requested'
  have here : servingPos (s.withVsw v).cal.ctx.serving = some p := serving
  refine ⟨{ x with uplinkMute := false, downlinkMute := false }, ?_, ?_, rfl, rfl, ?_, ?_⟩
  · simp only [stateAudio, tones, here, link, chime]
    rfl
  · change x.conn = .linked p ∨ x.conn = .gap p
    rw [path.conn]
    exact conn
  · have same : (w.requested.put .chime true).callbackRing = s.vsw.requested.callbackRing :=
      (congrArg ToneSet.callbackRing (requested'.trans requested)).trans rfl
    exact (congrArg ToneSet.callbackRing requested'').trans same
  · exact congrArg ToneSet.chime requested''

theorem stateAudio_unlinks {s : State} {x : CallState} (sound : s.pln.damaged = []) (rests : x = .idle ∨ x = .callbackWait) :
    ∃ v, stateAudio x s = s.withVsw v := by
  obtain ⟨v, tones, _⟩ := withdrawTones_eq sound
  rcases rests with rfl | rfl <;>
    exact ⟨{ v with conn := .none, gapTimer := none, uplinkMute := false, downlinkMute := false }, by
      simp only [stateAudio, tones]
      rfl⟩

/-! ### BSU, MLC and WCH (R87, R123, R143, R161) -/

/-- The three outputs that follow the call's state. -/
theorem bsuCallState_eq (s : State) : ∃ outs, bsuCallState s = s.withBsu { s.bsu with outs := outs } ∧
    ∀ o, o ≠ .lampFault → outs.get o = reselect (selectedPattern s o) (s.bsu.outs.get o) := by
  refine ⟨((s.bsu.outs.set .lampCall (reselect (selectedPattern s .lampCall) (s.bsu.outs.get .lampCall))).set .lampLink
    (reselect (selectedPattern s .lampLink) (s.bsu.outs.get .lampLink))).set .beacon
      (reselect (selectedPattern s .beacon) (s.bsu.outs.get .beacon)), rfl, fun o call => ?_⟩
  cases o
  · rfl
  · rfl
  · exact absurd rfl call
  · rfl

/-- Only LAMP_FAULT looks at the modules and the plan source (R123). -/
theorem selectPattern_call {o : Output} (h : o ≠ .lampFault) (x : CallState) (u u' : Bool) (y y' : PlanSource) :
    selectPattern x u y o = selectPattern x u' y' o := by
  cases o
  · rfl
  · rfl
  · exact absurd rfl h
  · rfl

theorem lampsFollow_of {s t : State} {x : CallState} {u : Bool} {y : PlanSource}
    (h : ∀ o, o ≠ .lampFault → t.bsu.outs.get o = reselect (selectPattern x u y o) (s.bsu.outs.get o)) :
    LampsFollow s t x := by
  intro o call
  unfold LampFollows
  rw [h o call, selectPattern_call call x u (anyUsable t.mlc.modules) y t.pln.source]
  unfold reselect
  by_cases host : (s.bsu.outs.get o).host = true <;> simp [host]

theorem applyAtIdle_of_none {s : State} {p : Pos} (h : (s.module p).pendingRole = none) : applyAtIdle p s = s := by
  simp [applyAtIdle, h]

/-- The poll timers follow the call's state; no role waits for IDLE. -/
theorem mlcCallState_eq {s : State} (roles : s.cal.ctx.state = .idle → ∀ q, (s.module q).pendingRole = none) :
    ∃ modules, mlcCallState s = s.withMlc { s.mlc with modules := modules } := by
  have kept (q : Pos) : ((mlcInterval s).module q).pendingRole = (s.module q).pendingRole := by
    have cap (i : Nat) (m : Module) : (capPoll i m).pendingRole = m.pendingRole := by
      unfold capPoll
      split
      · split <;> rfl
      · rfl
    obtain rfl | rfl | rfl := pos_cases q <;> exact cap _ _
  have interval : ∃ modules, mlcInterval s = s.withMlc { s.mlc with modules := modules } := ⟨_, rfl⟩
  unfold mlcCallState
  dsimp only
  split
  next idle =>
    have none (q : Pos) : ((mlcInterval s).module q).pendingRole = none := (kept q).trans (roles idle q)
    rw [applyAtIdle_of_none (none 0), applyAtIdle_of_none (none 1), applyAtIdle_of_none (none 2)]
    exact interval
  · exact interval

/-- In AWAKE, with no DOZE waiting, WCH only notes the call's state. -/
theorem wchCallState_awake {s : State} (awake : s.wch.doze = false)
    (pending : s.cal.ctx.state = .idle → s.wch.dozePending = false) :
    wchCallState s = s.withWch { s.wch with reported := s.cal.ctx.state } := by
  unfold wchCallState
  dsimp only
  split
  next idle => exact if_neg (by simp [pending idle])
  · exact if_neg (by simp [awake])

/-! ### A state entered -/

/-- The neighbours take a state that changes nothing else: the lamps follow, the poll timers too, and WCH notes it. -/
theorem enter_eq {x : CallState} {s : State} {v : Vsw} (audio : stateAudio x (writeState x s) = (writeState x s).withVsw v)
    (awake : s.wch.doze = false) (pending : x = .idle → s.wch.dozePending = false)
    (roles : x = .idle → ∀ q, (s.module q).pendingRole = none) : ∃ outs modules,
      enter x s = ((((s.withCal { s.cal with ctx := { s.cal.ctx with state := x }, held7 := stateFlags x }).withVsw v).withBsu
        { s.bsu with outs := outs }).withMlc { s.mlc with modules := modules }).withWch { s.wch with reported := x } ∧
      ∀ o, o ≠ .lampFault → outs.get o =
        reselect (selectPattern x (anyUsable s.mlc.modules) s.pln.source o) (s.bsu.outs.get o) := by
  obtain ⟨outs, lamps, follow⟩ := bsuCallState_eq ((writeState x s).withVsw v)
  obtain ⟨modules, polls⟩ := mlcCallState_eq (s := ((writeState x s).withVsw v).withBsu { s.bsu with outs := outs }) roles
  have watch := wchCallState_awake (s := (((writeState x s).withVsw v).withBsu { s.bsu with outs := outs }).withMlc
    { s.mlc with modules := modules }) awake pending
  refine ⟨outs, modules, ?_, follow⟩
  rw [enter, audio, tellState, lamps]
  exact (congrArg wchCallState polls).trans watch

end Sys2Proof.Machine
end

section
/-! PROOFS. The replies that end a request, and what an attempt, the watch unit and the message unit make of them (O51). -/

namespace Sys2Proof.Machine

/-! ### A reply to a request (R132, R134, R140) -/

/-- The link free after a success, and the module's failure count 0 (R134). -/
def freed (s : State) (p : Pos) : State :=
  (s.withMlc { s.mlc with tx := none }).withModule p { s.module p with failures := 0 }

section
variable {s : State} {r : Request} {n d : Nat}

theorem replyOk_run (tx : s.mlc.tx = some ⟨r, n, .waiting d⟩) (allowed : (allowedReplies r.kind).contains 16 = true) :
    exec .replyOk s = settled (deliver r .ok (replyOkModule r.pos r.kind (freed s r.pos))) := by
  change settled (onReply 16 _ s) = _
  rw [onReply_allowed tx allowed]
  rfl

theorem replyNak_run {x : NakReason} (other : x ≠ .badFrame) (tx : s.mlc.tx = some ⟨r, n, .waiting d⟩)
    (allowed : (allowedReplies r.kind).contains 17 = true) :
    exec (.replyNak x) s = settled (deliver r (.nak x) (freed s r.pos)) := by
  change settled (if x = .badFrame then _ else onReply 17 _ s) = _
  rw [if_neg other, onReply_allowed tx allowed]
  rfl

end

theorem deliver_one {r : Request} {o : Requester} (owners : r.owners = [o]) (x : LinkResult) (s : State) :
    deliver r x s = deliverTo r x o s := by
  rw [deliver, owners]
  rfl

/-- A report that finds nothing before it: the block's doing, and what it sets off. -/
theorem settled_post {m : Msg} {s : State} (quiet : s.inbox = []) :
    settled (post m s) = .next (drain 999 (handle m s)) := by
  have inbox : (post m s).inbox = [m] := by
    rw [post, quiet]
    rfl
  have bare : (post m s).withInbox [] = s := by
    rw [← quiet]
    rfl
  have first : drainOne m [] (post m s) = handle m s := by
    simp only [drainOne, bare, inboxAfter_nil]
    rfl
  exact congrArg Host.Outcome.next ((drain_cons 999 inbox).trans (congrArg (drain 999) first))

/-- A report whose taking posts nothing. -/
theorem settled_post_quiet {m : Msg} {s : State} (quiet : s.inbox = []) (after : (handle m s).inbox = []) :
    settled (post m s) = .next (handle m s) := by
  rw [settled_post quiet, drain_of_inbox after]

/-! ### An ORIGINATE (R51) -/

theorem record_none_of_noRecord {u : State} (h : noRecord u = true) (p : Pos) : u.record p = none := by
  have h : ∀ p ∈ positions, (u.record p).isNone = true := by simpa [noRecord] using h
  simpa using h p (by obtain rfl | rfl | rfl := pos_cases p <;> simp [positions])

/-- With an attempt in flight and no key left to launch, the checks after a record find nothing to do. -/
theorem recordChecks_inFlight {before s : State} {p : Pos} {b : Attempt} (set : s.hnt.set = [])
    (record : s.record p = some b) (flies : inFlight b = true) : recordChecks before s = s := by
  have some : noRecord s = false := by
    rw [Bool.eq_false_iff]
    intro none
    exact absurd (record.symm.trans (record_none_of_noRecord none p)) (by simp)
  have count : inFlightCount s ≠ 0 := by
    refine (List.length_pos_of_mem (a := p) ?_).ne'
    refine List.mem_filter.mpr ⟨?_, by rw [record]; exact flies⟩
    obtain rfl | rfl | rfl := pos_cases p <;> simp [positions]
  have closed : launchOpen s = false := by simp [launchOpen, firstFree, set]
  have launched : launchCheck s = s := by simp [launchCheck, launchLoop, closed]
  unfold recordChecks
  split
  · simp [some]
  · rw [huntChecks, launched, roundEndCheck, if_neg (by simp [count])]

/-- REPLY_OK to an ORIGINATE: the record is SENT under the setup timeout. -/
theorem originate_ok {s : State} {r : Request} {n d : Nat} {a : Attempt} (calm : calmPart s = true)
    (tx : s.mlc.tx = some ⟨r, n, .waiting d⟩) (kind : r.kind = .originate) (owners : r.owners = [.attempt])
    (record : s.record r.pos = some a) (request : a.request = some r.number) (release : a.releaseOnReply = false)
    (set : s.hnt.set = []) (other : s.cal.ctx.state ≠ .clearing) : ∃ t, exec .replyOk s = .next t ∧
      t.record r.pos = some
        { a with state := .sent, request := none, timer := some (1000 * s.pln.plan.hunt.setupTimeout) } ∧
      t.mlc = (freed s r.pos).mlc ∧ t.ctu = s.ctu ∧
      t.cal.ctx.summaries.get r.pos = some ⟨a.number, .sent, a.outcome, a.form⟩ ∧ t.vsw = s.vsw ∧ t.wch = s.wch := by
  obtain ⟨quiet, sound⟩ := (calmPart_iff s).mp calm
  have ongoing : clearingOver (freed s r.pos) = false := by
    have other : (freed s r.pos).cal.ctx.state ≠ .clearing := other
    simp [clearingOver, other]
  have sent : originateResult r.pos a .ok (freed s r.pos) = putRecord r.pos
      { a with state := .sent, request := none, timer := some (1000 * s.pln.plan.hunt.setupTimeout) } (freed s r.pos) := by
    simp only [originateResult, release, Bool.false_eq_true, if_false, touch_sound (s := freed s r.pos) sound]
    rfl
  have taken : handle (.hntResult r.pos r.number r.kind .ok) (freed s r.pos) = putRecord r.pos
      { a with state := .sent, request := none, timer := some (1000 * s.pln.plan.hunt.setupTimeout) } (freed s r.pos) := by
    have here : (freed s r.pos).record r.pos = some a := record
    change hntTakeResult r.pos r.number r.kind .ok (freed s r.pos) = _
    simp only [hntTakeResult, here, request, if_true, kind, sent]
    exact recordChecks_inFlight (p := r.pos) (s := putRecord r.pos _ (freed s r.pos)) set
      ((record_withRecord (freed s r.pos) r.pos r.pos _).trans (if_pos rfl)) rfl
  have run : exec .replyOk s = .next (drain 999 (handle (.hntResult r.pos r.number r.kind .ok) (freed s r.pos))) := by
    rw [replyOk_run tx (by rw [kind]; rfl), deliver_one owners]
    have same : replyOkModule r.pos r.kind (freed s r.pos) = freed s r.pos := by rw [kind]; rfl
    rw [same]
    exact settled_post (s := freed s r.pos) quiet
  obtain ⟨t, drained, put, summary, frame, _⟩ := settled_putRecord r.pos
    { a with state := .sent, request := none, timer := some (1000 * s.pln.plan.hunt.setupTimeout) }
    (s := freed s r.pos) quiet ongoing 998
  refine ⟨t, by rw [run, taken, drained], put, ?_, ?_, summary, ?_, ?_⟩
  · have same := congrArg State.mlc frame
    exact same
  · have same := congrArg State.ctu frame
    exact same
  · have same := congrArg State.vsw frame
    exact same
  · have same := congrArg State.wch frame
    exact same

/-- A record ended with its outcome, the checks after it, and what CAL then shows. -/
theorem endRecord_drained {u : State} {p : Pos} {a : Attempt} {o : Outcome} (quiet : u.inbox = [])
    (sound : u.pln.damaged = []) (stray : a.strayOnEnd = false) (set : u.hnt.set = []) (kind : u.hnt.kind = .emergency)
    (other : u.cal.ctx.state ≠ .clearing) : ∃ y c h ctx g c',
      drain 999 (recordChecks u (endRecord p a o u)) =
        (((u.withCtu y).withHnt h).withCal { u.cal with ctx := ctx, fileGen := g }).withSmp { u.smp with causes := c' } ∧
      ctuOutcome o a.key u = (u.withCtu y).withSmp { u.smp with causes := c } ∧ h.records = u.hnt.records.set p none ∧
      ctx.summaries.get p = none := by
  obtain ⟨y, c, h, ms, checked, table, records, short, shownOnly, summaries⟩ :=
    endRecord_checked (p := p) (o := o) sound stray set kind
  rw [quiet, List.nil_append] at checked
  obtain ⟨g, c', drained⟩ := drain_shows_all (n := 999) (congrArg State.inbox checked) (by simpa [shows] using shownOnly)
    (by simp; omega) (Or.inl (by rw [checked]; exact other))
  refine ⟨y, c, h, (.calRecordEnd p :: ms).foldl shown u.cal.ctx, g, c', ?_, table, records, ?_⟩
  · rw [drained, checked, ← quiet]
    rfl
  · change (ms.foldl shown (shown u.cal.ctx (.calRecordEnd p))).summaries.get p = none
    rw [summaries]
    exact (PerPos.get_set _ _ _ _).trans (if_pos rfl)

theorem failed_fields (plan : Plan) (last : LastOutcome) (e : Entry) :
    (failed plan last e).failures = min (e.failures + 1) 7 ∧ (failed plan last e).last = last ∧
      (failed plan last e).inAttempt = false ∧
      (failed plan last e).bench = if 6 ≤ e.failures then some plan.hunt.benchTime else e.bench := ⟨rfl, rfl, rfl, rfl⟩

/-- A refused attempt ends: the record is gone, and its carrier takes the failure (R15, R51, R54). -/
theorem refused_drained {u : State} {p : Pos} {a : Attempt} {e : Entry} (quiet : u.inbox = [])
    (sound : u.pln.damaged = []) (stray : a.strayOnEnd = false) (set : u.hnt.set = []) (kind : u.hnt.kind = .emergency)
    (other : u.cal.ctx.state ≠ .clearing) (pos : a.key.pos = p) (found : findEntry u.ctu.table a.key = some e)
    (there : lostState (u.module p).state = false) :
    ∃ t, drain 999 (recordChecks u (endRecord p a .refused u)) = t ∧ t.record p = none ∧ t.mlc = u.mlc ∧
      findEntry t.ctu.table a.key = some (failed u.pln.plan .refused e) ∧
      t.cal.ctx.summaries.get p = none ∧ t.vsw = u.vsw ∧ t.wch = u.wch := by
  obtain ⟨y, c, h, ctx, g, c', drained, table, records, summary⟩ :=
    endRecord_drained (p := p) (o := .refused) quiet sound stray set kind other
  obtain ⟨g', c'', table'⟩ := ctuOutcome_eq (o := .refused) sound found (pos ▸ there)
  have carriers : y.table = outcomeTable u.pln.plan .refused a.key u.ctu.table :=
    congrArg (fun u : State => u.ctu.table) (table.symm.trans table')
  refine ⟨_, drained, ?_, rfl, ?_, summary, rfl, rfl⟩
  · change h.records.get p = none
    rw [records]
    exact (PerPos.get_set _ _ _ _).trans (if_pos rfl)
  · change findEntry y.table a.key = _
    rw [carriers]
    exact findEntry_outcome_failed found (Or.inl ⟨rfl, rfl⟩)

/-- REPLY_NAK to an ORIGINATE: the record ends REFUSED. -/
theorem originate_nak {s : State} {r : Request} {n d : Nat} {a : Attempt} {e : Entry} {x : NakReason}
    (notFrame : x ≠ .badFrame) (calm : calmPart s = true)
    (tx : s.mlc.tx = some ⟨r, n, .waiting d⟩) (kind : r.kind = .originate) (owners : r.owners = [.attempt])
    (record : s.record r.pos = some a) (request : a.request = some r.number) (pos : a.key.pos = r.pos)
    (release : a.releaseOnReply = false) (stray : a.strayOnEnd = false) (set : s.hnt.set = [])
    (emergency : s.hnt.kind = .emergency) (other : s.cal.ctx.state ≠ .clearing)
    (found : findEntry s.ctu.table a.key = some e) (serves : (s.module r.pos).state = .inService) :
    ∃ t, exec (.replyNak x) s = .next t ∧ t.record r.pos = none ∧ t.mlc = (freed s r.pos).mlc ∧
      (∃ e', findEntry t.ctu.table a.key = some e' ∧ e'.failures = min (e.failures + 1) 7 ∧ e'.inAttempt = false ∧
        e'.last = .refused ∧ (6 ≤ e.failures → e'.bench = some s.pln.plan.hunt.benchTime)) ∧
      t.cal.ctx.summaries.get r.pos = none ∧ t.vsw = s.vsw ∧ t.wch = s.wch := by
  obtain ⟨quiet, sound⟩ := (calmPart_iff s).mp calm
  have state : ((freed s r.pos).module r.pos).state = .inService := by
    rw [freed, module_withModule, if_pos rfl]
    exact serves
  have taken : handle (.hntResult r.pos r.number r.kind (.nak x)) (freed s r.pos) =
      recordChecks (freed s r.pos) (endRecord r.pos a .refused (freed s r.pos)) := by
    have here : (freed s r.pos).record r.pos = some a := record
    change hntTakeResult r.pos r.number r.kind (.nak x) (freed s r.pos) = _
    simp only [hntTakeResult, here, request, if_true, kind, originateResult, release, Bool.false_eq_true, if_false]
  have run : exec (.replyNak x) s =
      .next (drain 999 (handle (.hntResult r.pos r.number r.kind (.nak x)) (freed s r.pos))) := by
    rw [replyNak_run notFrame tx (by rw [kind]; rfl), deliver_one owners]
    exact settled_post (s := freed s r.pos) quiet
  obtain ⟨t, drained, gone, mlc, entry, summary, vsw, wch⟩ := refused_drained (u := freed s r.pos) quiet sound stray set
    emergency other pos found (by rw [state]; rfl)
  rw [taken, drained] at run
  obtain ⟨failures, last, attempt, bench⟩ := failed_fields s.pln.plan .refused e
  exact ⟨t, run, gone, mlc, ⟨_, entry, failures, attempt, last, fun many => bench.trans (if_pos many)⟩, summary, vsw, wch⟩

end Sys2Proof.Machine
end

section
/-! PROOFS. The replies to a RELEASE, a REJECT, a DATA and a SCAN, and the ANSWER that comes to nothing (O51). -/

namespace Sys2Proof.Machine

variable {u : State} {p : Pos}

theorem clearingOver_of_state (h : u.cal.ctx.state ≠ .clearing) : clearingOver u = false := by
  simp [clearingOver, h]

theorem clearingOver_of_pending (h : u.cal.ctx.releases ≠ PerPos.all false) : clearingOver u = false := by
  simp [clearingOver, h]

/-! ### A RELEASE (R51, R54, R59, R79) -/

theorem stray_taken {k : Nat} (mark : u.hnt.stray.get p = some k) (rests : u.hnt.state = .idle ∨ u.hnt.state = .won) :
    handle (.hntStrayResult p k) u = u.withHnt { u.hnt with stray := u.hnt.stray.set p none } := by
  change hntTakeStray p k u = _
  rw [hntTakeStray, if_pos mark]
  exact huntChecks_of_not_round (by rcases rests with e | e <;> simp [e])

/-- The checks after a record of a hunt that is WON find nothing to do. -/
theorem recordChecks_won {before : State} (won : u.hnt.state = .won) : recordChecks before u = u := by
  rw [recordChecks, if_neg (by simp [won]), huntChecks_of_not_round (by simp [won])]

/-- A record in RELEASING ends with its outcome, in a hunt that is WON. -/
theorem released_drained {a : Attempt} (quiet : u.inbox = []) (sound : u.pln.damaged = []) (won : u.hnt.state = .won)
    (stray : a.strayOnEnd = false) (ongoing : clearingOver u = false) : ∃ y c g c',
      drain 999 (recordChecks u (endRecord p a a.outcome u)) = (((u.withCtu y).withRecord p none).withCal { u.cal with
        ctx := { u.cal.ctx with summaries := u.cal.ctx.summaries.set p none }, fileGen := g }).withSmp
          { u.smp with causes := c' } ∧
      ctuOutcome a.outcome a.key u = (u.withCtu y).withSmp { u.smp with causes := c } := by
  obtain ⟨y, c, ended, outcome⟩ := endRecord_eq (p := p) (o := a.outcome) sound stray
  have checked : recordChecks u (endRecord p a a.outcome u) = endRecord p a a.outcome u :=
    recordChecks_won (by rw [ended]; exact won)
  rw [quiet, List.nil_append] at ended
  obtain ⟨g, c', drained⟩ := drain_shows_all (n := 999) (s := endRecord p a a.outcome u) (ms := [.calRecordEnd p])
    (congrArg State.inbox ended) (by simp [shows]) (by simp) (Or.inr ⟨by rw [ended]; exact ongoing, by simp⟩)
  have bare : u.withInbox [] = u := by
    rw [← quiet]
    rfl
  refine ⟨y, c, g, c', ?_, outcome⟩
  rw [checked, drained, ended]
  conv_rhs => rw [← bare]
  rfl

/-- The entry of a released attempt, by its outcome. -/
theorem released_entry {a : Attempt} {e : Entry} {y : Ctu} {c : BitVec 13} (sound : u.pln.damaged = [])
    (outcome : ctuOutcome a.outcome a.key u = (u.withCtu y).withSmp { u.smp with causes := c })
    (found : findEntry u.ctu.table a.key = some e) (there : lostState (u.module a.key.pos).state = false) :
    (a.outcome = .surplus → findEntry y.table a.key = some { e with inAttempt := false }) ∧
      (a.outcome = .timeout → findEntry y.table a.key = some (failed u.pln.plan .timeout e)) := by
  obtain ⟨g, c', whole⟩ := ctuOutcome_eq (o := a.outcome) sound found there
  have table : y.table = outcomeTable u.pln.plan a.outcome a.key u.ctu.table :=
    congrArg (fun u : State => u.ctu.table) (outcome.symm.trans whole)
  rw [table]
  refine ⟨fun surplus => ?_, fun timeout => ?_⟩
  · rw [surplus]
    exact findEntry_updateInPlace found fun _ => rfl
  · rw [timeout]
    exact findEntry_outcome_failed found (Or.inr ⟨rfl, rfl⟩)

/-- CAL takes the result of a RELEASE of its own while the clearing is not over. -/
theorem calRelease_taken (ongoing : clearingOver (takeReleaseResult p u) = false) : ∃ g c,
    handle (.calReleaseResult p) u = (u.withCal { u.cal with
      ctx := { u.cal.ctx with releases := u.cal.ctx.releases.set p false }, fileGen := g }).withSmp
        { u.smp with causes := c } := calEvent_eq (f := takeReleaseResult p) ongoing

/-! ### The ANSWER that comes to nothing, and the one that comes too late (R79, R82) -/

/-- The end of the answer in progress, with its ring. -/
theorem endAnswer_eq (sound : u.pln.damaged = []) : ∃ v,
    endAnswer u = (u.withCtx { u.cal.ctx with answer := none }).withVsw v ∧
      v.requested = { u.vsw.requested with callbackRing := false } ∧ SamePath u.vsw v :=
  vswTone_eq .callbackRing false (s := u.withCtx { u.cal.ctx with answer := none }) sound

theorem answerNak_taken (sound : u.pln.damaged = []) (answer : u.cal.ctx.answer = some p)
    (other : u.cal.ctx.state ≠ .clearing)
    (window : u.cal.ctx.state = .callbackWait → u.cal.callbackTimer.isSome = true) : ∃ v g c,
    handle (.calAnswerResult p false) u = ((u.withVsw v).withCal { u.cal with
      ctx := { u.cal.ctx with answer := none }, fileGen := g }).withSmp { u.smp with causes := c } ∧
      v.requested = { u.vsw.requested with callbackRing := false } := by
  obtain ⟨v, ended, requested, _⟩ := endAnswer_eq sound
  have stays : ¬ ((endAnswer u).cal.ctx.state = .callbackWait ∧ (endAnswer u).cal.callbackTimer = none) := by
    rw [ended]
    rintro ⟨wait, gone⟩
    have timer := window wait
    have gone : u.cal.callbackTimer = none := gone
    rw [gone] at timer
    cases timer
  have effect : takeAnswerResult p false u = (u.withCtx { u.cal.ctx with answer := none }).withVsw v := by
    rw [takeAnswerResult, if_pos answer, if_neg Bool.false_ne_true, answerFailed]
    exact (if_neg stays).trans ended
  obtain ⟨g, c, taken⟩ := calEvent_eq (f := takeAnswerResult p false) (s := u) (by
    rw [effect]
    exact clearingOver_of_state other)
  refine ⟨v, g, c, ?_, requested⟩
  change calEvent (takeAnswerResult p false) u = _
  rw [taken, effect]
  rfl

theorem calRelease_free (free : callPlaceFree p u = true) : calRelease p u =
    (u.withMlc { u.mlc with
      queue := u.mlc.queue ++ [nextRequest u .calRelease p .release []], nextNumber := u.mlc.nextNumber + 1 }).withCtx
        { u.cal.ctx with releases := u.cal.ctx.releases.set p true } := by
  rw [calRelease, enqueue_free (kind := .release) rfl .calRelease free]
  rfl

theorem lateAnswer_taken (sound : u.pln.damaged = []) (answer : u.cal.ctx.answer = some p)
    (state : u.cal.ctx.state = .locating ∨ u.cal.ctx.state = .talk ∨ u.cal.ctx.state = .clearing)
    (free : callPlaceFree p u = true) : ∃ v g c,
    handle (.calAnswerResult p true) u = (((u.withVsw v).withMlc { u.mlc with
      queue := u.mlc.queue ++ [nextRequest u .calRelease p .release []], nextNumber := u.mlc.nextNumber + 1 }).withCal
        { u.cal with
          ctx := { u.cal.ctx with answer := none, releases := u.cal.ctx.releases.set p true }, fileGen := g }).withSmp
            { u.smp with causes := c } := by
  obtain ⟨v, ended, _, _⟩ := endAnswer_eq sound
  have released : answerConnects p (endAnswer u) = calRelease p (endAnswer u) := by
    have same : (endAnswer u).cal.ctx.state = u.cal.ctx.state := by rw [ended]; rfl
    unfold answerConnects
    dsimp only
    rw [same]
    rcases state with e | e | e <;> rw [e]
  have effect : takeAnswerResult p true u = ((u.withVsw v).withMlc { u.mlc with
      queue := u.mlc.queue ++ [nextRequest u .calRelease p .release []], nextNumber := u.mlc.nextNumber + 1 }).withCtx
        { u.cal.ctx with answer := none, releases := u.cal.ctx.releases.set p true } := by
    rw [takeAnswerResult, if_pos answer, if_pos rfl, released, ended]
    exact calRelease_free (u := (u.withCtx { u.cal.ctx with answer := none }).withVsw v) free
  have pending : u.cal.ctx.releases.set p true ≠ PerPos.all false := by
    intro none
    have here := congrArg (fun v : PerPos Bool => v.get p) none
    have held : (u.cal.ctx.releases.set p true).get p = true := (PerPos.get_set _ _ _ _).trans (if_pos rfl)
    have clear : (PerPos.all false : PerPos Bool).get p = false := by obtain rfl | rfl | rfl := pos_cases p <;> rfl
    exact absurd (held.symm.trans (here.trans clear)) (by decide)
  obtain ⟨g, c, taken⟩ := calEvent_eq (f := takeAnswerResult p true) (s := u) (by
    rw [effect]
    exact clearingOver_of_pending pending)
  refine ⟨v, g, c, ?_⟩
  change calEvent (takeAnswerResult p true) u = _
  rw [taken, effect]
  rfl

/-! ### A DATA (R97 to R99, R101) -/

/-- A DATA for a free message place, with room, joins the queue. -/
theorem enqueue_data (o : Requester) (payload : List Byte) (free : messagePlace u.mlc.queue p = none)
    (room : roomFor 1 u = true) : enqueue o p .data payload u =
      (.queued (u.mlc.nextNumber + 1), u.withMlc { u.mlc with
        queue := u.mlc.queue ++ [nextRequest u o p .data payload], nextNumber := u.mlc.nextNumber + 1 }) := by
  have room : u.mlc.queue.length < Config.queueCapacity := of_decide_eq_true room
  have call : callOperation .data = false := rfl
  simp only [enqueue, call, Bool.false_eq_true, if_false, if_true, free, queueWithRoom, room]
  rfl

theorem lmuSend_free {record : List Byte} (segment : Nat) (pos : u.lmu.pos = some p) (stands : u.lmu.record = some record)
    (free : messagePlace u.mlc.queue p = none) (room : roomFor 1 u = true) : lmuSend segment u =
      (true, (u.withMlc { u.mlc with
        queue := u.mlc.queue ++ [nextRequest u .lmu p .data
          ([byteOf segment, byteOf u.lmu.segments] ++ segmentBytes record segment)]
        nextNumber := u.mlc.nextNumber + 1 }).withLmu
          { u.lmu with state := .sending, segment := segment, current := some (u.mlc.nextNumber + 1) }) := by
  have queued := enqueue_data (u := u.withLmu { u.lmu with state := .sending, segment := segment, current := none })
    (p := p) .lmu (dataPayload segment (u.withLmu { u.lmu with
      state := .sending, segment := segment, current := none }).lmu.segments (segmentBytes record segment)) free room
  unfold lmuSend
  dsimp only
  split
  next q record' here there =>
    obtain rfl : p = q := Option.some.inj (pos.symm.trans here)
    obtain rfl : record = record' := Option.some.inj (stands.symm.trans there)
    rw [queued]
    rfl
  next absent => exact absurd stands (absent p record pos)

theorem lmuReplyOk_left {t : State} (left : u.lmu.segment < u.lmu.segments)
    (sent : lmuSend (u.lmu.segment + 1) (u.withLmu { u.lmu with current := none, replySeen := true }) = (true, t)) :
    lmuReplyOk u = t := by
  unfold lmuReplyOk
  exact (if_pos left).trans (by rw [State.withLmu_lmu, sent])

theorem lmuReplyOk_last (sound : u.pln.damaged = []) (last : u.lmu.segments ≤ u.lmu.segment) :
    lmuReplyOk u = u.withLmu { u.lmu with
      state := .awaiting, replySeen := true, current := none, ackTimer := some (1000 * u.pln.plan.call.ackTimeout) } := by
  have read := touch_sound (i := 28) (s := u.withLmu { u.lmu with current := none, replySeen := true }) sound
  unfold lmuReplyOk
  exact (if_neg (Nat.not_lt.mpr last)).trans (by rw [read]; rfl)

/-- A failed try with a retry left starts the next one. -/
theorem lmuTryFailed_again {n : Nat} {t : State} (sound : u.pln.damaged = [])
    (tries : u.lmu.tries < u.pln.plan.hunt.messageRetries + 1)
    (sent : lmuSend 1 (u.withLmu { u.lmu with ackTimer := none, tries := u.lmu.tries + 1 }) = (true, t)) :
    lmuTryFailed (n + 1) u = t := by
  have read := touch_sound (i := 21) (s := u.withLmu { u.lmu with ackTimer := none }) sound
  have start : lmuStartTry (u.withLmu { u.lmu with ackTimer := none }) = (true, t) := sent
  unfold lmuTryFailed
  rw [read]
  exact (if_pos tries).trans (by rw [start])

/-- A REPLY_OK to the current DATA with a segment left: the next segment goes. -/
theorem nextSegment {number : Nat} {record : List Byte} (current : u.lmu.current = some number)
    (sending : u.lmu.state = .sending) (pos : u.lmu.pos = some p) (stands : u.lmu.record = some record)
    (free : messagePlace u.mlc.queue p = none) (room : roomFor 1 u = true) (left : u.lmu.segment < u.lmu.segments) :
    handle (.lmuResult number .ok) u = (u.withMlc { u.mlc with
        queue := u.mlc.queue ++ [nextRequest u .lmu p .data
          ([byteOf (u.lmu.segment + 1), byteOf u.lmu.segments] ++ segmentBytes record (u.lmu.segment + 1))]
        nextNumber := u.mlc.nextNumber + 1 }).withLmu
          { u.lmu with segment := u.lmu.segment + 1, replySeen := true, current := some (u.mlc.nextNumber + 1) } := by
  have sent := lmuSend_free (u := u.withLmu { u.lmu with current := none, replySeen := true }) (u.lmu.segment + 1) pos stands
    free room
  change lmuTakeResult number .ok u = _
  rw [lmuTakeResult, if_pos current, if_pos rfl, lmuReplyOk_left left sent, ← sending]
  rfl

/-- A REPLY_OK to the last DATA: the acknowledgement is awaited. -/
theorem lastSegment {number : Nat} (sound : u.pln.damaged = []) (current : u.lmu.current = some number)
    (last : u.lmu.segments ≤ u.lmu.segment) : handle (.lmuResult number .ok) u = u.withLmu { u.lmu with
      state := .awaiting, replySeen := true, current := none, ackTimer := some (1000 * u.pln.plan.call.ackTimeout) } := by
  change lmuTakeResult number .ok u = _
  rw [lmuTakeResult, if_pos current, if_pos rfl, lmuReplyOk_last sound last]

/-- Another result of the current DATA: a new try, while the retries allow one. -/
theorem nextTry {number : Nat} {record : List Byte} {x : LinkResult} (bad : x ≠ .ok) (sound : u.pln.damaged = [])
    (current : u.lmu.current = some number) (sending : u.lmu.state = .sending) (pos : u.lmu.pos = some p)
    (stands : u.lmu.record = some record) (free : messagePlace u.mlc.queue p = none) (room : roomFor 1 u = true)
    (tries : u.lmu.tries < u.pln.plan.hunt.messageRetries + 1) :
    handle (.lmuResult number x) u = (u.withMlc { u.mlc with
        queue := u.mlc.queue ++ [nextRequest u .lmu p .data
          ([byteOf 1, byteOf u.lmu.segments] ++ segmentBytes record 1)]
        nextNumber := u.mlc.nextNumber + 1 }).withLmu
          { u.lmu with
            segment := 1, tries := u.lmu.tries + 1, ackTimer := none, current := some (u.mlc.nextNumber + 1) } := by
  have sent := lmuSend_free (u := u.withLmu { u.lmu with current := none, ackTimer := none, tries := u.lmu.tries + 1 }) 1
    pos stands free room
  change lmuTakeResult number x u = _
  rw [lmuTakeResult, if_pos current, if_neg bad, triesFuel,
    lmuTryFailed_again (u := u.withLmu { u.lmu with current := none }) sound tries sent, ← sending]
  rfl

end Sys2Proof.Machine
end

section
/-! PROOFS. The replies to a SLEEP and a WAKE (O51): what WCH's outstanding requests are afterwards. -/

namespace Sys2Proof.Machine

/-! ### WCH's outstanding requests -/

/-- A step of WCH's that leaves a position's outstanding SLEEPs, and its outstanding WAKE where the module is not ASLEEP. -/
structure WatchHolds (p : Pos) (s t : State) : Prop extends WatchStep s t where
  sleeps : (t.watch p).sleeps = (s.watch p).sleeps
  wake : (s.module p).state ≠ .asleep → (t.watch p).wakeRequest = (s.watch p).wakeRequest

variable {p q : Pos} {s0 s t u : State}

theorem WatchHolds.refl (p : Pos) (s : State) : WatchHolds p s s := ⟨WatchStep.refl s, rfl, fun _ => rfl⟩

theorem WatchHolds.trans (h : WatchHolds p s t) (g : WatchHolds p t u) : WatchHolds p s u where
  toWatchStep := h.toWatchStep.trans g.toWatchStep
  sleeps := g.sleeps.trans h.sleeps
  wake awake := (g.wake (by rwa [h.toWatchStep.module])).trans (h.wake awake)

theorem WatchHolds.withWatch (h : WatchHolds p s0 s) {w : Watch} (sleeps : w.sleeps = (s.watch q).sleeps)
    (wake : q = p → (s.module p).state ≠ .asleep → w.wakeRequest = (s.watch q).wakeRequest) :
    WatchHolds p s0 (s.withWatch q w) := by
  refine h.trans ⟨(WatchStep.refl s).withWatch q w, ?_, fun awake => ?_⟩
  · rw [watch_withWatch]
    split
    next here => rw [here, sleeps]
    · rfl
  · rw [watch_withWatch]
    split
    next here => rw [wake here.symm awake, here]
    · rfl

theorem WatchHolds.withWch (h : WatchHolds p s0 s) {w : Wch} (watch : w.watch = s.wch.watch)
    (order : w.order = s.wch.order) (gather : w.gatherReport = s.wch.gatherReport) :
    WatchHolds p s0 (s.withWch w) :=
  have same : (s.withWch w).watch p = s.watch p := congrArg (fun v : PerPos Watch => v.get p) watch
  h.trans ⟨(WatchStep.refl s).withWch order gather, by rw [same], fun _ => by rw [same]⟩

/-- A step of WCH's in which only the queue moves. -/
theorem WatchHolds.of_queue (step : WatchStep s t) (wch : t.wch = s.wch) : WatchHolds p s t :=
  have same : t.watch p = s.watch p := by simp only [State.watch, wch]
  ⟨step, by rw [same], fun _ => by rw [same]⟩

theorem enqueue_holds {kind : ReqKind} (h : watchKind kind = true) {payload : List Byte} {x : QueueAnswer}
    (g : WatchHolds p s0 s) (e : enqueue .wch q kind payload s = (x, t)) : WatchHolds p s0 t := by
  refine g.trans (WatchHolds.of_queue (enqueue_grows h (WatchGrows.refl s) e).toWatchStep ?_)
  rw [enqueue_watchKind h] at e
  split at e <;> cases e <;> rfl

theorem queueWake_holds {x : Bool} (g : WatchHolds p s0 s) (e : queueWake q s = (x, t))
    (asleep : (s.module q).state = .asleep) : WatchHolds p s0 t := by
  unfold queueWake at e
  split at e
  next n v e' =>
    cases e
    have queued := enqueue_holds (p := p) rfl (WatchHolds.refl p s) e'
    refine g.trans (queued.withWatch rfl fun here awake => ?_)
    rw [queued.toWatchStep.module, ← here] at awake
    exact absurd asleep awake
  next e' =>
    cases e
    exact enqueue_holds rfl g e'

theorem wakeIfWanted_holds (q : Pos) (g : WatchHolds p s0 s) : WatchHolds p s0 (wakeIfWanted q s) := by
  unfold wakeIfWanted
  split
  next wanted =>
    have asleep : (s.module q).state = .asleep := by
      simp only [wakesForScan, Bool.and_eq_true, beq_iff_eq] at wanted
      exact wanted.1.1.1
    have waking := g.withWatch (q := q) (w := { s.watch q with phase := .waking }) rfl fun _ _ => rfl
    unfold startWaking
    dsimp only
    split
    next e => exact queueWake_holds waking e asleep
    next e => exact (queueWake_holds waking e asleep).withWatch rfl fun _ _ => rfl
  · exact g

theorem endMember_holds (q : Pos) (a : WatchAlone s) (g : WatchHolds p s0 s) : WatchHolds p s0 (endMember q s) := by
  rw [endMember_alone a]
  exact (g.withWatch (q := q) (w := { s.watch q with requested := false }) rfl fun _ _ => rfl).withWch
    (w := { (s.withWatch q { s.watch q with requested := false }).wch with gather := s.wch.gather.set q false }) rfl rfl rfl

theorem startScan_holds (q : Pos) (sound : s.pln.damaged = []) (g : WatchHolds p s0 s) :
    WatchHolds p s0 (startScan q s) := by
  unfold startScan
  simp only [touch_sound sound]
  have started (w : Watch) (sleeps : w.sleeps = (s.watch q).sleeps) (wake : w.wakeRequest = (s.watch q).wakeRequest)
      (x : Option Nat) : WatchHolds p s0 ((s.withWatch q w).withWch { (s.withWatch q w).wch with stagger := x }) :=
    (g.withWatch sleeps fun _ _ => wake).withWch rfl rfl rfl
  split
  next e =>
    refine (enqueue_holds (s0 := s0) rfl (started _ ?_ ?_ _) e).withWatch rfl fun _ _ => rfl
    · dsimp only
      split <;> rfl
    · dsimp only
      split <;> rfl
  next e =>
    refine (enqueue_holds (s0 := s0) rfl (started _ ?_ ?_ _) e).withWatch rfl fun _ _ => rfl
    · dsimp only
      split <;> rfl
    · dsimp only
      split <;> rfl

theorem startScans_holds (n : Nat) (looked : List Pos) (a : WatchAlone s) (g : WatchHolds p s0 s) :
    WatchHolds p s0 (startScans n looked s) := by
  induction n generalizing looked s with
  | zero => exact g
  | succ n ih =>
    unfold startScans
    split
    · exact g
    · split
      · exact g
      · dsimp only
        split
        · exact ih _ ((endMember_watchStep _ a (WatchStep.refl s)).alone a) (endMember_holds _ a g)
        · exact ih _ ((startScan_grows _ a.sound (WatchGrows.refl s)).toWatchStep.alone a) (startScan_holds _ a.sound g)

theorem examine_holds (a : WatchAlone s) (g : WatchHolds p s0 s) : WatchHolds p s0 (examine s) := by
  have woken := wakeIfWanted_holds 2 (wakeIfWanted_holds 1 (wakeIfWanted_holds 0 (WatchHolds.refl p s)))
  unfold examine
  rw [touch_sound a.sound]
  exact startScans_holds _ _ (woken.toWatchStep.alone a) (g.trans woken)

theorem withdrawIf_holds (n : Option Nat) (g : WatchHolds p s0 s) : WatchHolds p s0 (withdrawIf .wch n s) := by
  refine g.trans (WatchHolds.of_queue (withdrawIf_watchStep .wch n (WatchStep.refl s)) ?_)
  unfold withdrawIf withdraw
  split
  · split
    · dsimp only
      split <;> rfl
    · split
      · split <;> rfl
      · rfl
  · rfl

theorem endAtDeparture_holds (a : WatchAlone s) (away : usable (s.module q) = false) (g : WatchHolds p s0 s) :
    WatchHolds p s0 (endAtDeparture q s) := by
  have withdrawn := withdrawIf_holds (s.watch q).scanRequest (WatchHolds.refl p s)
  have alone := withdrawn.toWatchStep.alone a
  have ended {w : Watch} {v : State} (h : WatchHolds p s v) (sleeps : w.sleeps = (v.watch q).sleeps)
      (wake : w.wakeRequest = (v.watch q).wakeRequest) :
      WatchHolds p s (sleepAfterScan q (endMember q (v.withWatch q w))) := by
    have noted := h.withWatch (q := q) (w := w) sleeps fun _ _ => wake
    have member := endMember_holds q (noted.toWatchStep.alone a) noted
    have still : usable ((endMember q (v.withWatch q w)).module q) = false := by
      rw [member.toWatchStep.module]
      exact away
    rw [sleepAfterScan, if_neg (by simp [still])]
    exact member
  unfold endAtDeparture
  split
  · refine g.trans ?_
    unfold scanEndNoExamine
    simp only [touch_sound alone.sound]
    exact ended withdrawn rfl rfl
  · split
    · exact endMember_holds q a g
    · exact g

/-- A module's new state, where the module is away, leaves WCH's outstanding requests for it. -/
theorem wchTakeModule_holds (old : ModState) {new : ModState} (a : WatchAlone s) (away : usable (s.module q) = false)
    (other : new ≠ .inService) (kept : lostToWatch new = false) : WatchHolds p s (wchTakeModule q old new s) := by
  have left : WatchHolds p s (if (old == .inService && new != .inService) || lostToWatch new then endAtDeparture q s else s) := by
    split
    · exact endAtDeparture_holds a away (WatchHolds.refl p s)
    · exact WatchHolds.refl p s
  unfold wchTakeModule
  simp only [kept, Bool.false_eq_true, if_false, if_neg other]
  rw [kept] at left
  exact examine_holds (left.toWatchStep.alone a) left

/-! ### The cascade of a module's change, and the result behind it -/

/-- Events before the last that post nothing: they are taken one after another. -/
theorem drain_quiet {Good : State → Prop} {S : State → State → Prop} {C : Msg → Prop} (refl : ∀ s, S s s)
    (trans : ∀ {s t u}, S s t → S t u → S s u) (good : ∀ {s t}, S s t → Good s → Good t)
    (step : ∀ {m s}, C m → Good s → s.inbox = [] → S s (handle m s) ∧ (handle m s).inbox = [])
    (n : Nat) (ms rest : List Msg) {s : State} (h : ∀ m ∈ ms, C m) (g : Good s) (quiet : s.inbox = []) :
    ∃ t, drain (n + ms.length) (s.withInbox (ms ++ rest)) = drain n (t.withInbox rest) ∧ S s t ∧ t.inbox = [] := by
  induction ms generalizing s with
  | nil => exact ⟨s, rfl, refl s, quiet⟩
  | cons m ms ih =>
    obtain ⟨first, none⟩ := step (h m (by simp)) g quiet
    obtain ⟨t, drained, later, quiet'⟩ := ih (s := handle m s) (fun x hx => h x (List.mem_cons_of_mem m hx)) (good first g) none
    refine ⟨t, ?_, trans first later, quiet'⟩
    have bare : (s.withInbox (m :: ms ++ rest)).withInbox [] = s := by
      rw [← quiet]
      rfl
    have one : drainOne m (ms ++ rest) (s.withInbox (m :: ms ++ rest)) = (handle m s).withInbox (ms ++ rest) := by
      rw [drainOne_of_quiet (by rw [bare]; exact none), bare]
    have inbox : (s.withInbox (m :: ms ++ rest)).inbox = m :: (ms ++ rest) := rfl
    have fuel : n + (m :: ms).length = n + ms.length + 1 := rfl
    rw [fuel, drain_cons _ inbox, one, drained]

/-- The reports of a module's change to a state of no service, and WCH's result behind them, in a part at rest. -/
theorem change_then_result {v : State} {m : Msg} {old new : ModState} (quiet : v.inbox = []) (r : Resting v)
    (state : (v.module p).state = new) (other : new ≠ .inService) (kept : lostToWatch new = false)
    (result : restful m = true) : ∃ t, WatchHolds p v t ∧ t.inbox = [] ∧ Resting t ∧
      settled (v.withInbox (stateReports p old new ++ [m])) = .next (handle m t) := by
  have short : (stateReports p old new).length ≤ 3 := by
    unfold stateReports
    split <;> simp
  obtain ⟨k, fuel⟩ : ∃ k, 1000 = (k + 1) + (stateReports p old new).length :=
    ⟨999 - (stateReports p old new).length, by omega⟩
  obtain ⟨t, drained, step, none⟩ := drain_quiet (Good := fun s => Resting s ∧ (s.module p).state = new)
    (S := WatchHolds p) (C := fun m => m = .hntModule p old new ∨ m = .calModuleLeft p ∨ m = .wchModule p old new)
    (WatchHolds.refl p) WatchHolds.trans
    (fun h g => ⟨h.toWatchStep.resting g.1, by rw [h.toWatchStep.module]; exact g.2⟩)
    (fun {m s} kind good empty => by
      have step : WatchHolds p s (handle m s) := by
        rcases kind with rfl | rfl | rfl
        · change WatchHolds p s (hntTakeModule p old new s)
          rw [hntTakeModule_rests good.1.hunt]
          exact WatchHolds.refl p s
        · change WatchHolds p s (calEvent (takeModuleLeft p) s)
          rw [calModuleLeft_idle good.1.call]
          exact WatchHolds.refl p s
        · exact wchTakeModule_holds old good.1.toWatchAlone (by simp [usable, good.2, other]) other kept
      exact ⟨step, step.toWatchStep.inbox.trans empty⟩)
    (k + 1) (stateReports p old new) [m] (by
      intro x hx
      simp only [stateReports, List.mem_append, List.mem_singleton] at hx
      rcases hx with (rfl | hx) | rfl
      · exact Or.inl rfl
      · split at hx
        · exact Or.inr (Or.inl (List.mem_singleton.mp hx))
        · cases hx
      · exact Or.inr (Or.inr rfl)) ⟨r, state⟩ quiet
  have rest := step.toWatchStep.resting r
  have after : (handle m t).inbox = [] := (handle_restful result rest).inbox.trans none
  have last : drain (k + 1) (t.withInbox [m]) = handle m t := by
    have bare : (t.withInbox [m]).withInbox [] = t := by
      rw [← none]
      rfl
    have one : drainOne m [] (t.withInbox [m]) = handle m t := by
      rw [drainOne_of_quiet (by rw [bare]; exact after), bare, ← after]
      rfl
    rw [drain_cons k (m := m) (rest := []) rfl, one, drain_of_inbox after]
  refine ⟨t, step, none, rest, ?_⟩
  have run : settled (v.withInbox (stateReports p old new ++ [m])) =
      .next (drain 1000 (v.withInbox (stateReports p old new ++ [m]))) := rfl
  rw [run, fuel, drained, last]

/-! ### The results of a SLEEP and a WAKE (R152, R161, R162) -/

/-- A module with the record of a new state, before the reports. -/
def moved (p : Pos) (new : ModState) (s : State) : State :=
  bsuFaultLamp (publishStatus (s.withModule p (enterRecord new (s.module p))))

theorem moved_module (p q : Pos) (new : ModState) (s : State) :
    (moved p new s).module q = if q = p then enterRecord new (s.module p) else s.module q :=
  (module_withModule s p q _)

theorem WatchStep.tx {s t : State} (h : WatchStep s t) : t.mlc.tx = s.mlc.tx := by
  obtain ⟨⟨w, q, n, rfl⟩, _, _⟩ := h
  rfl

theorem sleep_ends {n : Nat} (quiet : u.inbox = []) (r : Resting u) (wait : u.mlc.wait = none)
    (none : (u.module p).pendingRole = none) : ∃ t,
      settled (post (.wchResult p n .sleep .ok) (enterAsleep p u)) = .next t ∧ (t.module p).state = .asleep ∧
        (t.module p).poll = .none ∧ (t.watch p).sleeps = (u.watch p).sleeps.filter (fun k => k != n) ∧
        t.mlc.tx = u.mlc.tx ∧ ∀ q, q ≠ p → t.module q = u.module q := by
  have asleep : (moved p .asleep u).module p = enterRecord .asleep (u.module p) := (moved_module p p _ u).trans (if_pos rfl)
  obtain ⟨t, step, _, _, run⟩ := change_then_result (v := moved p .asleep u) (m := .wchResult p n .sleep .ok)
    (old := (u.module p).state) (new := .asleep) quiet ⟨⟨r.sound, r.order, r.gather⟩, r.hunt, r.call⟩
    (by rw [asleep]; rfl) (by decide) rfl rfl
  have posted : post (.wchResult p n .sleep .ok) (enterAsleep p u) =
      (moved p .asleep u).withInbox (stateReports p (u.module p).state .asleep ++ [.wchResult p n .sleep .ok]) := by
    rw [enterAsleep, changeState_eq wait rfl none]
    change (moved p .asleep u).withInbox (u.inbox ++ stateReports p (u.module p).state .asleep ++ _) = _
    rw [quiet, List.nil_append]
  refine ⟨forgetSleep p n t, by rw [posted]; exact run, ?_, ?_, ?_, step.toWatchStep.tx, fun q other => ?_⟩
  · change (t.module p).state = _
    rw [step.toWatchStep.module, asleep]
    rfl
  · change (t.module p).poll = _
    rw [step.toWatchStep.module, asleep]
    rfl
  · rw [forgetSleep, watch_withWatch, if_pos rfl]
    exact congrArg _ step.sleeps
  · change t.module q = _
    rw [step.toWatchStep.module, moved_module, if_neg other]

/-- A module that boots after its WAKE. -/
def woken (p : Pos) (s : State) : State :=
  (moved p (.booting .boot) s).withModule p { enterRecord (.booting .boot) (s.module p) with boot := some 3000 }

theorem woken_module (p q : Pos) (s : State) : (woken p s).module q =
    if q = p then { enterRecord (.booting .boot) (s.module p) with boot := some 3000 } else s.module q := by
  rw [woken, module_withModule, moved_module]
  split <;> rfl

theorem enterBoot_eq (wait : u.mlc.wait = none) (none : (u.module p).pendingRole = none) :
    enterBoot p 3000 u = (woken p u).withInbox (u.inbox ++ stateReports p (u.module p).state (.booting .boot)) := by
  have here := changeState_module p (.booting .boot) u p
  rw [if_pos rfl] at here
  unfold enterBoot
  dsimp only
  rw [here, changeState_eq wait rfl none]
  rfl

theorem wake_ends {n : Nat} (quiet : u.inbox = []) (r : Resting u) (wait : u.mlc.wait = none)
    (none : (u.module p).pendingRole = none) (request : (u.watch p).wakeRequest = some n) : ∃ t,
      settled (post (.wchResult p n .wake .ok) (enterBoot p 3000 u)) = .next t ∧ (t.module p).state = .booting .boot ∧
        (t.module p).boot = some 3000 ∧ (t.watch p).wakeRequest = .none ∧ t.mlc.tx = u.mlc.tx ∧
        ∀ q, q ≠ p → t.module q = u.module q := by
  have boots : (woken p u).module p = { enterRecord (.booting .boot) (u.module p) with boot := some 3000 } :=
    (woken_module p p u).trans (if_pos rfl)
  have resting : Resting (woken p u) := ⟨⟨r.sound, r.order, r.gather⟩, r.hunt, r.call⟩
  obtain ⟨t, step, _, _, run⟩ := change_then_result (m := .wchResult p n .wake .ok) (old := (u.module p).state)
    (new := .booting .boot) (v := woken p u) quiet resting (by rw [boots]; rfl) (by decide) rfl rfl
  have posted : post (.wchResult p n .wake .ok) (enterBoot p 3000 u) = (woken p u).withInbox
      (stateReports p (u.module p).state (.booting .boot) ++ [.wchResult p n .wake .ok]) := by
    rw [enterBoot_eq wait none, quiet, List.nil_append]
    rfl
  have held : (t.watch p).wakeRequest = some n := by
    rw [step.wake (by rw [boots]; exact ModState.noConfusion)]
    exact request
  have taken : handle (.wchResult p n .wake .ok) t = t.withWatch p { t.watch p with wakeRequest := .none } :=
    (if_pos held).trans (ite_self _)
  refine ⟨t.withWatch p { t.watch p with wakeRequest := .none }, by rw [posted, run, taken], ?_, ?_, ?_,
    step.toWatchStep.tx, fun q other => ?_⟩
  · change (t.module p).state = _
    rw [step.toWatchStep.module, boots]
    rfl
  · change (t.module p).boot = _
    rw [step.toWatchStep.module, boots]
  · rw [watch_withWatch, if_pos rfl]
  · change t.module q = _
    rw [step.toWatchStep.module, woken_module, if_neg other]

end Sys2Proof.Machine
end

section
/-! PROOFS. The replies to a REJECT, and WCH's requests (O51, first and second part). -/

namespace Sys2Proof.Machine

section
variable {s : State} {r : Request} {n d : Nat}

theorem freed_module (s : State) (p q : Pos) :
    (freed s p).module q = if q = p then { s.module p with failures := 0 } else s.module q := PerPos.get_set ..

theorem freed_module_state (s : State) (p : Pos) : ((freed s p).module p).state = (s.module p).state := by
  rw [freed_module, if_pos rfl]

theorem freed_quiet (p : Pos) (calm : calmPart s = true) : (freed s p).inbox = [] ∧ (freed s p).pln.damaged = [] :=
  (calmPart_iff s).mp calm

/-- A reply to a REJECT is told to nobody (R81). -/
theorem reject_replied (calm : calmPart s = true) (tx : s.mlc.tx = some ⟨r, n, .waiting d⟩) (kind : r.kind = .reject)
    (owners : r.owners = [.calReject]) : exec .replyOk s = .next (freed s r.pos) ∧
      ∀ x, x ≠ .badFrame → exec (.replyNak x) s = .next (freed s r.pos) := by
  obtain ⟨quiet, _⟩ := freed_quiet r.pos calm
  refine ⟨?_, fun x other => ?_⟩
  · rw [replyOk_run tx (by rw [kind]; rfl), deliver_one owners, kind]
    exact settled_of_inbox quiet
  · rw [replyNak_run other tx (by rw [kind]; rfl), deliver_one owners]
    exact settled_of_inbox quiet

theorem freed_resting (p : Pos) (calm : calmPart s = true) (hunt : huntRests s = true) (scans : scansRest s = true)
    (call : s.cal.ctx.state = .idle) : Resting (freed s p) := by
  have r := resting_of calm hunt scans call
  exact ⟨⟨r.sound, r.order, r.gather⟩, r.hunt, r.call⟩

theorem freed_role {p : Pos} (none : (s.module p).pendingRole = none) : ((freed s p).module p).pendingRole = .none := by
  rw [freed_module, if_pos rfl]
  exact none

theorem sleep_replied (calm : calmPart s = true) (tx : s.mlc.tx = some ⟨r, n, .waiting d⟩) (owners : r.owners = [.wch])
    (hunt : huntRests s = true) (scans : scansRest s = true) (call : s.cal.ctx.state = .idle)
    (none : (s.module r.pos).pendingRole = none) (wait : s.mlc.wait = .none) (kind : r.kind = .sleep)
    (serves : (s.module r.pos).state = .inService) :
    ∃ t, exec .replyOk s = .next t ∧ (t.module r.pos).state = .asleep ∧ (t.module r.pos).poll = .none ∧
      (t.watch r.pos).sleeps = (s.watch r.pos).sleeps.filter (fun n => n != r.number) ∧ t.mlc.tx = .none ∧
      (∀ q, q ≠ r.pos → t.module q = s.module q) := by
  obtain ⟨t, run, state, poll, sleeps, free, others⟩ := sleep_ends (u := freed s r.pos) (p := r.pos) (n := r.number)
    (freed_quiet r.pos calm).1 (freed_resting r.pos calm hunt scans call) wait (freed_role none)
  refine ⟨t, ?_, state, poll, sleeps, free, fun q other => ?_⟩
  · have effect : replyOkModule r.pos r.kind (freed s r.pos) = enterAsleep r.pos (freed s r.pos) := by
      rw [kind]
      exact if_pos ((freed_module_state s r.pos).trans serves)
    rw [replyOk_run tx (by rw [kind]; rfl), deliver_one owners, effect, ← run, ← kind]
    rfl
  · rw [others q other, freed_module, if_neg other]

theorem wake_replied (calm : calmPart s = true) (tx : s.mlc.tx = some ⟨r, n, .waiting d⟩) (owners : r.owners = [.wch])
    (hunt : huntRests s = true) (scans : scansRest s = true) (call : s.cal.ctx.state = .idle)
    (none : (s.module r.pos).pendingRole = none) (wait : s.mlc.wait = .none) (kind : r.kind = .wake)
    (asleep : (s.module r.pos).state = .asleep) (request : (s.watch r.pos).wakeRequest = some r.number) :
    ∃ t, exec .replyOk s = .next t ∧ (t.module r.pos).state = .booting .boot ∧ (t.module r.pos).boot = some 3000 ∧
      (t.watch r.pos).wakeRequest = .none ∧ t.mlc.tx = .none ∧ (∀ q, q ≠ r.pos → t.module q = s.module q) := by
  obtain ⟨t, run, state, boot, wake, free, others⟩ := wake_ends (u := freed s r.pos) (p := r.pos) (n := r.number)
    (freed_quiet r.pos calm).1 (freed_resting r.pos calm hunt scans call) wait (freed_role none) request
  refine ⟨t, ?_, state, boot, wake, free, fun q other => ?_⟩
  · have effect : replyOkModule r.pos r.kind (freed s r.pos) = enterBoot r.pos 3000 (freed s r.pos) := by
      rw [kind]
      exact if_pos ((freed_module_state s r.pos).trans asleep)
    rw [replyOk_run tx (by rw [kind]; rfl), deliver_one owners, effect, ← run, ← kind]
    rfl
  · rw [others q other, freed_module, if_neg other]

theorem watch_refused (calm : calmPart s = true) (tx : s.mlc.tx = some ⟨r, n, .waiting d⟩) (owners : r.owners = [.wch])
    (hunt : huntRests s = true) (scans : scansRest s = true) (call : s.cal.ctx.state = .idle) {x : NakReason}
    (other : x ≠ .badFrame) (kind : r.kind = .sleep ∨ r.kind = .wake) :
    ∃ t, exec (.replyNak x) s = .next t ∧ (t.module r.pos).state = (s.module r.pos).state ∧ t.mlc.tx = none ∧
      (t.module r.pos).failures = 0 := by
  obtain ⟨quiet, _⟩ := freed_quiet r.pos calm
  have step : WatchStep (freed s r.pos) (handle (.wchResult r.pos r.number r.kind (.nak x)) (freed s r.pos)) :=
    handle_restful rfl (freed_resting r.pos calm hunt scans call)
  refine ⟨_, ?_, ?_, step.tx, ?_⟩
  · rw [replyNak_run other tx (by rcases kind with e | e <;> rw [e] <;> rfl), deliver_one owners]
    exact settled_post_quiet quiet (step.inbox.trans quiet)
  · rw [step.module]
    exact freed_module_state s r.pos
  · rw [step.module, freed_module, if_pos rfl]

end

end Sys2Proof.Machine
end

section
/-! PROOFS. The replies to a SCAN (R165; O51, third part). -/

namespace Sys2Proof.Machine

variable {u : State} {p : Pos}

theorem PerPos.set_set {α : Type} (v : PerPos α) (p : Pos) (x y : α) : (v.set p x).set p y = v.set p y := by
  obtain rfl | rfl | rfl := pos_cases p <;> rfl

theorem withWatch_withWatch (s : State) (p : Pos) (w w' : Watch) : (s.withWatch p w).withWatch p w' = s.withWatch p w' :=
  congrArg (fun v => s.withWch { s.wch with watch := v }) (PerPos.set_set s.wch.watch p w w')

theorem watch_withWatch_same (s : State) (p : Pos) (w : Watch) : (s.withWatch p w).watch p = w :=
  (watch_withWatch s p p w).trans (if_pos rfl)

theorem wchScanResult_ok (p : Pos) (s : State) : wchScanResult p .ok s =
    s.withWatch p { s.watch p with scanRequest := none, phase := .awaitReady } := by
  unfold wchScanResult
  dsimp only
  rw [watch_withWatch_same, withWatch_withWatch]

theorem scanOk_taken {k : Nat} (request : (u.watch p).scanRequest = some k) : handle (.wchResult p k .scan .ok) u =
    u.withWatch p { u.watch p with scanRequest := none, phase := .awaitReady } := by
  rw [← wchScanResult_ok]
  exact if_pos request

/-- With nobody ASLEEP and the stagger timer running, an examination starts nothing. -/
theorem examine_staggered (sound : u.pln.damaged = []) (stagger : u.wch.stagger.isSome = true)
    (awake : ∀ q, (u.module q).state ≠ .asleep) : examine u = u := by
  have idle (q : Pos) : wakeIfWanted q u = u := if_neg (by simp [wakesForScan, awake q])
  rw [examine, touch_sound sound, idle, idle, idle, startScans, if_pos stagger]

/-- WCH's record of a position, which is out of the gather. -/
def outOfGather (p : Pos) (w : Watch) (s : State) : State :=
  s.withWch { s.wch with gather := s.wch.gather.set p false, watch := s.wch.watch.set p w }

theorem outOfGather_withWatch (p : Pos) (w w' : Watch) (s : State) :
    outOfGather p w' (s.withWatch p w) = outOfGather p w' s :=
  congrArg (fun v => s.withWch { s.wch with gather := s.wch.gather.set p false, watch := v })
    (PerPos.set_set s.wch.watch p w w')

theorem endMember_out (a : WatchAlone u) : endMember p u = outOfGather p { u.watch p with requested := false } u :=
  endMember_alone a p

/-- What a scan's end leaves of the position's record. -/
def scanOver (interval : Nat) (w : Watch) : Watch :=
  { w with
    scanRequest := none, phase := .none, limit := none, again := false, due := false, interval := some (1000 * interval) }

/-- A scan of an ACTIVE module ends in AWAKE, with no order and no gather (R165). -/
theorem scanEnd_staggered (a : WatchAlone u) (request : (u.watch p).scanRequest = none) (doze : u.wch.doze = false)
    (stagger : u.wch.stagger.isSome = true) (awake : ∀ q, (u.module q).state ≠ .asleep)
    (active : (u.module p).role = .active) : scanEnd p u =
      outOfGather p { scanOver u.pln.plan.hunt.scanInterval (u.watch p) with requested := false } u := by
  have noted : endMember p (u.withWatch p (scanOver u.pln.plan.hunt.scanInterval (u.watch p))) =
      outOfGather p { scanOver u.pln.plan.hunt.scanInterval (u.watch p) with requested := false } u := by
    rw [endMember_out (u := u.withWatch p (scanOver u.pln.plan.hunt.scanInterval (u.watch p)))
      ⟨a.sound, a.order, a.gather⟩, watch_withWatch_same, outOfGather_withWatch]
  have ended : scanEndNoExamine p u =
      outOfGather p { scanOver u.pln.plan.hunt.scanInterval (u.watch p) with requested := false } u := by
    unfold scanEndNoExamine
    rw [request]
    dsimp only [withdrawIf]
    rw [touch_sound a.sound, if_pos active]
    refine (congrArg (sleepAfterScan p) noted).trans (if_neg fun dozes => ?_)
    exact Bool.false_ne_true (doze.symm.trans dozes.1)
  rw [scanEnd, ended]
  exact examine_staggered a.sound stagger awake

theorem scanNak_taken {k : Nat} {x : NakReason} (a : WatchAlone u) (request : (u.watch p).scanRequest = some k)
    (unrequested : (u.watch p).requested = false) (doze : u.wch.doze = false)
    (stagger : u.wch.stagger.isSome = true) (awake : ∀ q, (u.module q).state ≠ .asleep)
    (active : (u.module p).role = .active) : handle (.wchResult p k .scan (.nak x)) u =
      outOfGather p (scanOver u.pln.plan.hunt.scanInterval (u.watch p)) u := by
  have taken : handle (.wchResult p k .scan (.nak x)) u =
      scanEnd p (u.withWatch p { u.watch p with scanRequest := none }) := if_pos request
  have ended := scanEnd_staggered (u := u.withWatch p { u.watch p with scanRequest := none }) (p := p)
    ⟨a.sound, a.order, a.gather⟩ (by rw [watch_withWatch_same]) doze stagger awake active
  rw [taken, ended, outOfGather_withWatch, watch_withWatch_same, scanOver, scanOver, ← unrequested]
  rfl

end Sys2Proof.Machine
end

section
/-! PROOFS. The ANSWER that connects the call in TALK (R71, R82; O51, third part). -/

namespace Sys2Proof.Machine

/-! ### A state entered -/

/-- A state of the call entered: CAL's record, the voice switch, the outputs, the poll timers, and what WCH noted. -/
def entered (x : CallState) (cal : Cal) (v : Vsw) (outs : PerOut OutputState) (modules : PerPos Module) (s : State) : State :=
  ((((s.withCal cal).withVsw v).withBsu { s.bsu with outs := outs }).withMlc { s.mlc with modules := modules }).withWch
    { s.wch with reported := x }

/-- The outputs that follow the call's state have taken a state (R123). -/
def LampsOf (x : CallState) (s : State) (outs : PerOut OutputState) : Prop :=
  ∀ o, o ≠ .lampFault → outs.get o =
    reselect (selectPattern x (anyUsable s.mlc.modules) s.pln.source o) (s.bsu.outs.get o)

theorem LampsOf.follow {x : CallState} {s u t : State} (h : LampsOf x u t.bsu.outs) (before : u.bsu = s.bsu) :
    LampsFollow s t x :=
  lampsFollow_of fun o call => by
    rw [← before]
    exact h o call

theorem causeSet_keeps {x : BitVec 13} (c : Cause) {i : Nat} (h : x.getLsbD i = true) :
    (causeSet x c).getLsbD i = true := by simp [causeSet, h]

/-- A cause raised on top of others. -/
theorem raise_withSmp (c : Cause) (s : State) (x : Smp) :
    raise c (s.withSmp x) = s.withSmp { x with causes := causeSet x.causes c } := rfl

theorem causeSet_own (x : BitVec 13) (c : Cause) : (causeSet x c).getLsbD (causeBit c) = true := by
  cases c <;> simp [causeSet, causeBit]

variable {u : State} {p : Pos}

theorem enter_entered {x : CallState} {v : Vsw} (audio : stateAudio x (writeState x u) = (writeState x u).withVsw v)
    (awake : u.wch.doze = false) (pending : x = .idle → u.wch.dozePending = false)
    (roles : x = .idle → ∀ q, (u.module q).pendingRole = none) : ∃ outs modules, enter x u =
      entered x { u.cal with ctx := { u.cal.ctx with state := x }, held7 := stateFlags x } v outs modules u ∧
      LampsOf x u outs := enter_eq audio awake pending roles

/-! ### The call in TALK by an incoming call -/

/-- The context of a call that an incoming call connects with no hunt (R71, R82). -/
def talkContext (p : Pos) (silent : Bool) (now : BitVec 32) (x : Context) : Context :=
  { x with
    serving := some (.incoming p), connect := some now, message := .notRequired, state := .talk
    flags := { x.flags with silent := silent } }

/-- CAL's record of such a call. -/
def talkCal (p : Pos) (s : State) (cal : Cal) : Cal :=
  { cal with ctx := talkContext p (silentNow s) s.clock cal.ctx, held7 := stateFlags .talk }

/-- From a state that differs from `s` in CAL's record and the tones alone, the answer connects in TALK. -/
theorem talkOnIncoming_eq {s : State} (p : Pos) (cal : Cal) (v0 : Vsw) (sound : s.pln.damaged = [])
    (awake : s.wch.doze = false) : ∃ v outs modules, talkOnIncoming p ((s.withCal cal).withVsw v0) =
      (entered .talk (talkCal p s cal) v outs modules s).withSmp { s.smp with causes := causeSet s.smp.causes .callConnected } ∧
      VoiceAt p false true v0 v ∧ LampsOf .talk s outs := by
  have start (u : State) : talkOnIncoming p u = raise .callConnected (enter .talk (u.withCtx
      { talkContext p (silentNow u) u.clock u.cal.ctx with state := u.cal.ctx.state })) := rfl
  obtain ⟨v, audio, voice⟩ := stateAudio_talk (p := p) (s := writeState .talk (((s.withCal cal).withVsw v0).withCtx
    { talkContext p (silentNow s) s.clock cal.ctx with state := cal.ctx.state })) sound rfl
  obtain ⟨outs, modules, entry, lamps⟩ := enter_entered audio awake
    (fun h => absurd h (by decide)) (fun h => absurd h (by decide))
  refine ⟨v, outs, modules, ?_, voice, lamps⟩
  exact (start ((s.withCal cal).withVsw v0)).trans (congrArg (raise .callConnected) entry)

/-- What holds of a call that an answer has connected, whatever else it did. -/
structure Joined (p : Pos) (x : CallState) (s t : State) : Prop where
  state : t.cal.ctx.state = x
  serving : t.cal.ctx.serving = some (.incoming p)
  connect : t.cal.ctx.connect = some s.clock
  answer : t.cal.ctx.answer = none
  silent : t.cal.ctx.flags.silent = silentNow s
  ring : t.vsw.requested.callbackRing = false
  conn : t.vsw.conn = .linked p ∨ t.vsw.conn = .gap p
  uplink : t.vsw.uplinkMute = decide (x = .locating)
  downlink : t.vsw.downlinkMute = decide (x = .locating)
  cause : t.smp.causes.getLsbD 3 = true
  lamps : LampsOf x s t.bsu.outs
  link : t.mlc.tx = s.mlc.tx

/-- A call in TALK by an incoming call, shown to the host; `cal` is CAL's record when the answer connects it. -/
structure TalksOn (p : Pos) (cal : Cal) (s t : State) : Prop extends Joined p .talk s t where
  context : t.cal.ctx = talkContext p (silentNow s) s.clock cal.ctx
  counter : t.cal.counter = cal.counter
  timer : t.cal.callbackTimer = cal.callbackTimer
  mask : t.cal.mask = cal.mask
  chime : t.vsw.requested.chime = true
  hnt : t.hnt = s.hnt
  queue : t.mlc.queue = s.mlc.queue
  quiet : t.inbox = s.inbox

/-- What is pending before a publication is pending after it. -/
theorem publishCall_causes (before : Cal) (s : State) {i : Nat} (h : s.smp.causes.getLsbD i = true) :
    (publishCall before s).smp.causes.getLsbD i = true := (publishCall_evolves (Evolves.refl s)).causes i h

/-- The publication of a call that has entered TALK by an incoming call. -/
theorem talks_published {s : State} {cal before : Cal} {v0 v : Vsw} {outs : PerOut OutputState}
    {modules : PerPos Module} {smp : Smp} (answer : cal.ctx.answer = none) (ring : v0.requested.callbackRing = false)
    (voice : VoiceAt p false true v0 v) (lamps : LampsOf .talk s outs) (cause : smp.causes.getLsbD 3 = true) :
    TalksOn p cal s
      (publishCall before ((entered .talk (talkCal p s cal) v outs modules s).withSmp smp)) := by
  have pending := publishCall_causes before ((entered .talk (talkCal p s cal) v outs modules s).withSmp smp) (i := 3) cause
  obtain ⟨g, c, e⟩ := publishCall_eq before ((entered .talk (talkCal p s cal) v outs modules s).withSmp smp)
  rw [e] at pending ⊢
  exact {
    state := rfl, serving := rfl, connect := rfl, answer := answer, silent := rfl, ring := voice.ring.trans ring
    conn := voice.conn, uplink := voice.uplink, downlink := voice.downlink, cause := pending, lamps := lamps
    link := rfl, context := rfl, counter := rfl, timer := rfl, mask := rfl, chime := voice.chime
    hnt := by simp [entered], queue := rfl, quiet := by simp [entered] }

theorem talks_on {s : State} {cal : Cal} {v : Vsw} (before : Cal) (sound : s.pln.damaged = []) (awake : s.wch.doze = false)
    (answer : cal.ctx.answer = none) (ring : v.requested.callbackRing = false) :
    TalksOn p cal s (publishCall before (talkOnIncoming p ((s.withCal cal).withVsw v))) := by
  obtain ⟨w, outs, modules, talks, voice, lamps⟩ := talkOnIncoming_eq p cal v sound awake
  rw [talks]
  exact talks_published answer ring voice lamps (causeSet_own _ .callConnected)

/-- The same for a call that starts with it, in IDLE. -/
theorem starts_talking {s : State} {cal : Cal} {v : Vsw} (before : Cal) (sound : s.pln.damaged = [])
    (awake : s.wch.doze = false) (answer : cal.ctx.answer = none) (ring : v.requested.callbackRing = false) :
    TalksOn p cal s (publishCall before (raise .callStarted (talkOnIncoming p ((s.withCal cal).withVsw v)))) ∧
    (publishCall before (raise .callStarted (talkOnIncoming p ((s.withCal cal).withVsw v)))).smp.causes.getLsbD 2 = true := by
  refine ⟨?_, publishCall_causes _ _ (causeSet_own _ .callStarted)⟩
  obtain ⟨w, outs, modules, talks, voice, lamps⟩ := talkOnIncoming_eq p cal v sound awake
  rw [talks, raise_withSmp]
  exact talks_published answer ring voice lamps (causeSet_keeps .callStarted (causeSet_own _ .callConnected))

/-! ### The REPLY_OK to the ANSWER (R82) -/

/-- The state in which the answer is over, before it connects. -/
theorem answerOk_taken (answer : u.cal.ctx.answer = some p) :
    takeAnswerResult p true u = answerConnects p (endAnswer u) := by
  rw [takeAnswerResult, if_pos answer, if_pos rfl]

theorem transition_sound {f : State → State} {x : Option Serving} (flags : flagsSound u = true) : transition x f u = f u :=
  if_pos flags

/-- An event of CAL that leaves a state other than CLEARING is published as it is. -/
theorem calEvent_other {f : State → State} (other : (f u).cal.ctx.state ≠ .clearing) :
    calEvent f u = publishCall u.cal (f u) := by
  have ongoing : clearingOver (f u) = false := clearingOver_of_state other
  have check : clearingCheck 3 (f u) = f u := by simp [clearingCheck, ongoing]
  rw [calEvent, check]

theorem publishCall_ctx (before : Cal) (s : State) : (publishCall before s).cal.ctx = s.cal.ctx := by
  obtain ⟨g, c, e⟩ := publishCall_eq before s
  rw [e]
  rfl

/-- The answer's end in CALLBACK_WAIT and IDLE: CAL's record before it connects. -/
theorem callbackAnswer_taken (sound : u.pln.damaged = []) (awake : u.wch.doze = false) (flags : flagsSound u = true)
    (answer : u.cal.ctx.answer = some p) (state : u.cal.ctx.state = .callbackWait) :
    TalksOn p { u.cal with callbackTimer := none, ctx := { u.cal.ctx with answer := none, callback := 0 } } u
      (handle (.calAnswerResult p true) u) := by
  obtain ⟨v, ended, requested, _⟩ := endAnswer_eq sound
  have effect : takeAnswerResult p true u = talkOnIncoming p ((u.withCal { u.cal with
      callbackTimer := none, ctx := { u.cal.ctx with answer := none, callback := 0 } }).withVsw v) := by
    rw [answerOk_taken answer, ended]
    have here : ((u.withCtx { u.cal.ctx with answer := none }).withVsw v).cal.ctx.state = .callbackWait := state
    rw [answerConnects]
    dsimp only
    rw [here]
    exact transition_sound flags
  have talks := talks_on (p := p) (s := u) (v := v) (cal := { u.cal with
    callbackTimer := none, ctx := { u.cal.ctx with answer := none, callback := 0 } }) u.cal sound awake rfl
    (congrArg ToneSet.callbackRing requested)
  rw [← effect] at talks
  have other : (takeAnswerResult p true u).cal.ctx.state ≠ .clearing := by
    rw [← publishCall_ctx u.cal, talks.state]
    decide
  change TalksOn _ _ _ (calEvent (takeAnswerResult p true) u)
  rw [calEvent_other other]
  exact talks

theorem idleAnswer_taken (sound : u.pln.damaged = []) (awake : u.wch.doze = false) (flags : flagsSound u = true)
    (answer : u.cal.ctx.answer = some p) (state : u.cal.ctx.state = .idle) :
    TalksOn p (openCall .emergency (u.withCtx { u.cal.ctx with answer := none })).cal u
      (handle (.calAnswerResult p true) u) ∧ (handle (.calAnswerResult p true) u).smp.causes.getLsbD 2 = true := by
  obtain ⟨v, ended, requested, _⟩ := endAnswer_eq sound
  have effect : takeAnswerResult p true u = raise .callStarted (talkOnIncoming p
      ((u.withCal (openCall .emergency (u.withCtx { u.cal.ctx with answer := none })).cal).withVsw v)) := by
    rw [answerOk_taken answer, ended]
    have here : ((u.withCtx { u.cal.ctx with answer := none }).withVsw v).cal.ctx.state = .idle := state
    rw [answerConnects]
    dsimp only
    rw [here]
    exact transition_sound flags
  obtain ⟨talks, started⟩ := starts_talking (p := p) (s := u) (v := v)
    (cal := (openCall .emergency (u.withCtx { u.cal.ctx with answer := none })).cal) u.cal sound awake rfl
    (congrArg ToneSet.callbackRing requested)
  rw [← effect] at talks started
  have other : (takeAnswerResult p true u).cal.ctx.state ≠ .clearing := by
    rw [← publishCall_ctx u.cal, talks.state]
    decide
  change TalksOn _ _ _ (calEvent (takeAnswerResult p true) u) ∧ (calEvent (takeAnswerResult p true) u).smp.causes.getLsbD 2 = true
  rw [calEvent_other other]
  exact ⟨talks, started⟩

end Sys2Proof.Machine
end

section
/-! PROOFS. The ANSWER that wins a hunt: the call in LOCATING (R60, R71, R82, R96; O51, third part). -/

namespace Sys2Proof.Machine

variable {u : State} {p : Pos}

/-! ### The hunt that an incoming call wins (R60) -/

/-- With no attempt there is none to release. -/
theorem releaseThose_none (h : ∀ p, u.record p = none) (ps : List Pos) : releaseThose ps u = u := by
  have withdrawn (ps : List Pos) : ps.foldl (fun s p => withdrawQueued p s) u = u := by
    induction ps with
    | nil => rfl
    | cons p ps ih =>
      have one : withdrawQueued p u = u := by simp [withdrawQueued, h p]
      rw [List.foldl_cons, one, ih]
  have released (ps : List Pos) : ps.foldl (fun s p => releaseSent p s) u = u := by
    induction ps with
    | nil => rfl
    | cons p ps ih =>
      have one : releaseSent p u = u := by simp [releaseSent, h p]
      rw [List.foldl_cons, one, ih]
  rw [releaseThose, withdrawn, released]

/-- The hunt's end by a win: its timers stop, and CAL is told of a backoff that ends. -/
theorem becomeWon_eq (s : State) : ∃ h ms, becomeWon s = (s.withHnt h).withInbox (s.inbox ++ ms) ∧
    (ms = [] ∨ ms = [.calBackoff 0]) ∧ h.state = .won ∧ h.set = [] ∧ h.records = s.hnt.records := by
  unfold becomeWon stopHuntTimers leaveBackoff
  dsimp only
  split
  · exact ⟨_, [.calBackoff 0], rfl, Or.inr rfl, rfl, rfl, rfl⟩
  · refine ⟨{ s.hnt with wakeWait := none, gather := none, state := .won, set := [] }, [], ?_, Or.inl rfl, rfl, rfl, rfl⟩
    rw [List.append_nil]
    rfl

theorem hntIncomingWon_eq (round : u.hnt.state = .round) (none : noRecord u = true) : ∃ h ms,
    hntIncomingWon p u = (u.withHnt h).withInbox (u.inbox ++ ms) ∧ (ms = [] ∨ ms = [.calBackoff 0]) ∧
      h.state = .won ∧ h.set = [] := by
  obtain ⟨h, ms, won, told, state, set, records⟩ := becomeWon_eq u
  have empty (q : Pos) : (becomeWon u).record q = .none := by
    rw [won]
    change h.records.get q = .none
    rw [records]
    exact record_none_of_noRecord none q
  refine ⟨h, ms, ?_, told, state, set⟩
  rw [hntIncomingWon, round]
  dsimp only
  rw [releaseThose_none empty, endForIncoming, empty, won]

/-! ### The message that goes out in LOCATING (R96) -/

theorem lmuStart_eq (sound : u.pln.damaged = []) (idle : u.lmu.state = .idle)
    (free : messagePlace u.mlc.queue p = none) (room : roomFor 1 u = true) : ∃ v q n l,
      lmuStart p u = ((u.withVsw v).withMlc { u.mlc with queue := q, nextNumber := n }).withLmu l ∧
        v.requested = u.vsw.requested.put .wait true ∧ SamePath u.vsw v ∧ l.state = .sending ∧ l.pos = some p := by
  have stopped : lmuStop u = u := if_pos idle
  have prepared (l : Lmu) : ∃ v, vswTone .wait true (u.withLmu l) = (u.withLmu l).withVsw v ∧
      v.requested = u.vsw.requested.put .wait true ∧ SamePath u.vsw v := vswTone_eq .wait true (s := u.withLmu l) sound
  unfold lmuStart
  dsimp only
  rw [stopped, touchAll_sound sound]
  generalize messageRecord u.pln.plan.location u.cal.ctx u.clock u.ctu.table = record
  obtain ⟨v, toned, requested, path⟩ := prepared { u.lmu with
    pos := some p, record := some record, segments := segmentCount record, tries := 0, replySeen := false }
  rw [toned]
  have sent := lmuSend_free (p := p) (record := record) (u := (u.withLmu { u.lmu with
    pos := some p, record := some record, segments := segmentCount record, tries := 1, replySeen := false }).withVsw v)
    1 rfl rfl free room
  have start : lmuStartTry ((u.withLmu { u.lmu with
      pos := some p, record := some record, segments := segmentCount record, tries := 0, replySeen := false }).withVsw v) =
      lmuSend 1 ((u.withLmu { u.lmu with
        pos := some p, record := some record, segments := segmentCount record, tries := 1, replySeen := false }).withVsw v) :=
    rfl
  rw [start, sent]
  exact ⟨v, _, _, _, rfl, requested, path, rfl, rfl⟩

/-- A held order completed, or lost: the slots, the memory and the causes move at most. -/
theorem completeIfHeld_eq (h : Option Held) (o : OrderOutcome) (d : Word) (s : State) : ∃ x y,
    completeIfHeld h o d s = (s.withOrd x).withSmp y := by
  cases h with
  | none => exact ⟨s.ord, s.smp, rfl⟩
  | some h =>
    unfold completeIfHeld complete
    dsimp only
    split
    · exact ⟨_, _, rfl⟩
    · exact ⟨s.ord, s.smp, rfl⟩

theorem completePlace_eq (o : OrderOutcome) (s : State) : ∃ x y,
    completePlace o s = ((s.withOrd x).withSmp y).withCal { s.cal with place := none } := by
  obtain ⟨x, y, e⟩ := completeIfHeld_eq s.cal.place o (BitVec.ofNat 16 s.cal.ctx.attempts) s
  exact ⟨x, y, by rw [completePlace, e]⟩

/-! ### The call in LOCATING -/

/-- The context of a call that an incoming call connects out of a hunt (R70, R71, R82). -/
def locatingContext (p : Pos) (silent : Bool) (now : BitVec 32) (x : Context) : Context :=
  { x with
    serving := some (.incoming p), connect := some now, message := .pending, state := .locating
    flags := { x.flags with silent := silent } }

/-- A call that has entered LOCATING, its message under way. -/
def located (p : Pos) (place : Option Held) (v : Vsw) (outs : PerOut OutputState) (modules : PerPos Module)
    (q : List Request) (n : Nat) (l : Lmu) (s : State) : State :=
  entered .locating { s.cal with
    ctx := locatingContext p (silentNow s) s.clock s.cal.ctx, held7 := stateFlags .locating, place := place }
    v outs modules ((s.withMlc { s.mlc with queue := q, nextNumber := n }).withLmu l)

theorem enterLocating_eq (sound : u.pln.damaged = []) (awake : u.wch.doze = false) (idle : u.lmu.state = .idle)
    (free : messagePlace u.mlc.queue p = none) (room : roomFor 1 u = true) : ∃ v outs modules q n l x y,
      enterLocating p (connectTo (.incoming p) u) = ((located p none v outs modules q n l u).withOrd x).withSmp y ∧
        VoiceAt p true false u.vsw v ∧ LampsOf .locating u outs ∧ l.state = .sending ∧ l.pos = some p ∧
        y.causes.getLsbD 3 = true := by
  have start : enterLocating p (connectTo (.incoming p) u) = raise .callConnected (completePlace .connected (lmuStart p
      (enter .locating (u.withCtx
        { locatingContext p (silentNow u) u.clock u.cal.ctx with state := u.cal.ctx.state })))) := rfl
  obtain ⟨v, audio, voice⟩ := stateAudio_locating (p := p) (s := writeState .locating (u.withCtx
    { locatingContext p (silentNow u) u.clock u.cal.ctx with state := u.cal.ctx.state })) sound rfl
  obtain ⟨outs, modules, entry, lamps⟩ := enter_entered audio awake
    (fun h => absurd h (by decide)) (fun h => absurd h (by decide))
  obtain ⟨w, q, n, l, sent, requested, path, sending, pos⟩ := lmuStart_eq (p := p) (u := entered .locating
    { u.cal with ctx := locatingContext p (silentNow u) u.clock u.cal.ctx, held7 := stateFlags .locating } v outs modules u)
    sound idle free room
  obtain ⟨x, y, placed⟩ := completePlace_eq .connected (located p u.cal.place w outs modules q n l u)
  have whole : enterLocating p (connectTo (.incoming p) u) = raise .callConnected
      (completePlace .connected (located p u.cal.place w outs modules q n l u)) := by
    rw [start, entry]
    exact congrArg (fun s => raise .callConnected (completePlace .connected s)) sent
  refine ⟨w, outs, modules, q, n, l, x, { y with causes := causeSet y.causes .callConnected }, ?_, ?_, lamps, sending, pos,
    causeSet_own _ .callConnected⟩
  · rw [whole, placed]
    rfl
  · have conn : w.conn = v.conn := path.conn
    have ring : w.requested = v.requested.put .wait true := requested
    refine ⟨?_, path.uplink.trans voice.uplink, path.downlink.trans voice.downlink, ?_, ?_⟩
    · rw [conn]
      exact voice.conn
    · rw [ring]
      exact voice.ring
    · rw [ring]
      exact voice.chime

/-- A call that an answer has connected out of a hunt: its hunt is WON and its message under way. -/
structure Located (p : Pos) (s t : State) : Prop extends Joined p .locating s t where
  message : t.cal.ctx.message = .pending
  won : t.hnt.state = .won
  set : t.hnt.set = []
  sending : t.lmu.state = .sending
  pos : t.lmu.pos = some p
  sequence : t.cal.ctx.sequence = s.cal.ctx.sequence
  huntLink : t.cal.ctx.huntLink = s.cal.ctx.huntLink

/-- What is pending stays pending through a cascade. -/
theorem drain_causes (n : Nat) (s : State) {i : Nat} (h : s.smp.causes.getLsbD i = true) :
    (drain n s).smp.causes.getLsbD i = true := (drain_evolves (Evolves.refl s)).causes i h

/-- The state in which an incoming call has won the hunt, before it is connected. -/
def hunted (h : Hnt) (ms : List Msg) (v : Vsw) (s : State) : State :=
  (((s.withCtx { s.cal.ctx with answer := none }).withVsw v).withHnt h).withInbox ms

/-- CAL's event that has connected the call, and HNT's word of its backoff taken after it. -/
theorem located_drained {t : State} {v0 v : Vsw} {h : Hnt} {ms : List Msg} {outs : PerOut OutputState}
    {modules : PerPos Module} {q : List Request} {n : Nat} {l : Lmu} {x : Ord} {y : Smp} (before : Cal)
    (whole : t = ((located p none v outs modules q n l (hunted h ms v0 u)).withOrd x).withSmp y)
    (told : ms = [] ∨ ms = [.calBackoff 0]) (won : h.state = .won) (set : h.set = [])
    (ring : v0.requested.callbackRing = false) (voice : VoiceAt p true false v0 v) (lamps : LampsOf .locating u outs)
    (sending : l.state = .sending) (pos : l.pos = some p) (cause : y.causes.getLsbD 3 = true) :
    Located p u (drain 999 (publishCall before t)) := by
  have published := publishCall_causes before t (i := 3) (by rw [whole]; exact cause)
  have pending := drain_causes 999 _ published
  obtain ⟨g, c, e⟩ := publishCall_eq before t
  have other : (publishCall before t).cal.ctx.state ≠ .clearing := by
    rw [publishCall_ctx, whole]
    exact CallState.noConfusion
  obtain ⟨g', c', e'⟩ := drain_shows_all (n := 999) (ms := ms) (s := publishCall before t) (by rw [e, whole]; rfl)
    (by rcases told with rfl | rfl <;> simp [shows]) (by rcases told with rfl | rfl <;> simp) (Or.inl other)
  have shownCtx : ∃ b, ms.foldl shown (publishCall before t).cal.ctx = { t.cal.ctx with backoff := b } := by
    rw [publishCall_ctx]
    rcases told with rfl | rfl
    · exact ⟨t.cal.ctx.backoff, rfl⟩
    · exact ⟨0, rfl⟩
  obtain ⟨b, shownCtx⟩ := shownCtx
  rw [e'] at pending ⊢
  rw [shownCtx, e, whole]
  exact {
    state := rfl, serving := rfl, connect := rfl, answer := rfl, silent := rfl, ring := voice.ring.trans ring
    conn := voice.conn, uplink := voice.uplink, downlink := voice.downlink, cause := pending, lamps := lamps
    link := by simp [located, entered, hunted, State.withCtx]
    message := rfl, won := won, set := set, sending := sending, pos := pos, sequence := rfl, huntLink := rfl }

theorem answerConnects_hunt (flags : flagsSound u = true)
    (state : u.cal.ctx.state = .hunting ∨ u.cal.ctx.state = .reestablishing) :
    answerConnects p u = enterLocating p (connectTo (.incoming p) (hntIncomingWon p u)) := by
  have run := transition_sound (u := u) (x := some (.incoming p))
    (f := fun s => enterLocating p (connectTo (.incoming p) (hntIncomingWon p s))) flags
  rw [answerConnects]
  rcases state with e | e <;> rw [e] <;> exact run

/-- The answer's REPLY_OK in a hunt (R60, R82): the call is in LOCATING, the hunt is WON, and the message goes out. -/
theorem huntAnswer_taken (quiet : u.inbox = []) (sound : u.pln.damaged = []) (awake : u.wch.doze = false)
    (flags : flagsSound u = true) (answer : u.cal.ctx.answer = some p)
    (state : u.cal.ctx.state = .hunting ∨ u.cal.ctx.state = .reestablishing) (round : u.hnt.state = .round)
    (none : noRecord u = true) (idle : u.lmu.state = .idle) (free : messagePlace u.mlc.queue p = .none)
    (room : roomFor 1 u = true) : Located p u (drain 999 (handle (.calAnswerResult p true) u)) := by
  obtain ⟨v0, ended, requested, _⟩ := endAnswer_eq sound
  obtain ⟨h, ms, incoming, told, won, set⟩ := hntIncomingWon_eq (p := p) (u := endAnswer u)
    (by rw [ended]; exact round) (by rw [ended]; exact none)
  have incoming : hntIncomingWon p (endAnswer u) = hunted h ms v0 u := by
    rw [incoming, ended]
    change hunted h (u.inbox ++ ms) v0 u = _
    rw [quiet, List.nil_append]
  have effect : takeAnswerResult p true u = enterLocating p (connectTo (.incoming p) (hunted h ms v0 u)) := by
    rw [answerOk_taken answer, answerConnects_hunt (by rw [ended]; exact flags) (by rw [ended]; exact state), incoming]
  obtain ⟨v, outs, modules, q, n, l, x, y, whole, voice, lamps, sending, pos, cause⟩ :=
    enterLocating_eq (p := p) (u := hunted h ms v0 u) sound awake idle free room
  rw [← effect] at whole
  have other : (takeAnswerResult p true u).cal.ctx.state ≠ .clearing := by
    rw [whole]
    exact CallState.noConfusion
  change Located p u (drain 999 (calEvent (takeAnswerResult p true) u))
  rw [calEvent_other other]
  exact located_drained u.cal whole told won set (congrArg ToneSet.callbackRing requested) voice lamps sending pos cause

end Sys2Proof.Machine
end

section
/-! PROOFS. The end of a clearing, with the last of its releases (R83, R85, R86; O51, third part). -/

namespace Sys2Proof.Machine

variable {u : State} {p : Pos}

/-! ### The orders that a clearing completes (R86) -/

theorem completePlace_none {o : OrderOutcome} (none : u.cal.place = none) : completePlace o u = u := by
  have same : u.withCal { u.cal with place := .none } = u := by
    rw [← none]
    rfl
  rw [completePlace, none]
  exact same

/-- With no PLACE held, a clearing's end completes the CLEAR alone. -/
theorem clearingOrders_none {cause : LastEnd} (none : u.cal.place = none) : clearingOrders cause u = completeClear u := by
  rw [clearingOrders, completePlace_none none, completePlace_none none, ite_self, ite_self]

theorem takeHeldPress_none (none : u.cal.ctx.flags.pressHeld = false) : takeHeldPress u = u :=
  if_neg (by simp [none])

theorem completeClear_eq (s : State) : ∃ x y,
    completeClear s = ((s.withOrd x).withSmp y).withCal { s.cal with clear := none } := by
  obtain ⟨x, y, e⟩ := completeIfHeld_eq s.cal.clear .cleared s.cal.ctx.sequence s
  exact ⟨x, y, by rw [completeClear, e]⟩

/-- A held CLEAR completed at a clearing's end. -/
theorem completeClear_completed {s t : State} {h : Held} {kind : Nat} (clear : t.cal.clear = some h) (ord : t.ord = s.ord)
    (mem : t.smp.mem = s.smp.mem) (clock : t.clock = s.clock) (taken : s.ord.slots.get h.slot = .taken kind h.take)
    (wf : Memory.wf s.smp.mem = true) : Completed s (completeClear t) h .cleared t.cal.ctx.sequence := by
  have completed := completed_of_taken (s := t) .cleared t.cal.ctx.sequence (by rw [mem]; exact wf)
    (isTakenBy_of (kind := kind) (by rw [ord]; exact taken))
  have whole : completeClear t = (complete h .cleared t.cal.ctx.sequence t).withCal { t.cal with clear := none } := by
    rw [completeClear, clear]
    rfl
  rw [whole]
  exact (completed.of_same (t := (complete h .cleared t.cal.ctx.sequence t).withCal { t.cal with clear := none })
    rfl rfl).before ord mem clock

theorem Completed.published {s t : State} {h : Held} {o : OrderOutcome} {d : Word} (c : Completed s t h o d)
    (before : Cal) : Completed s (publishCall before t) h o d := by
  have pending := publishCall_causes before t c.cause
  obtain ⟨g, x, e⟩ := publishCall_eq before t
  rw [e] at pending ⊢
  exact ⟨c.slot, c.result, c.memory, pending⟩

/-! ### The state after a clearing (R83) -/

/-- A clearing has ended in a state; `cal` is CAL's record on its entry. -/
structure ClearingEnds (x : CallState) (cal : Cal) (s t : State) : Prop where
  context : t.cal.ctx = cal.ctx
  timer : t.cal.callbackTimer = cal.callbackTimer
  clear : t.cal.clear = none
  cause : t.smp.causes.getLsbD 4 = true
  hnt : t.hnt = s.hnt
  ctu : t.ctu = s.ctu
  queue : t.mlc.queue = s.mlc.queue
  link : t.mlc.tx = s.mlc.tx
  lamps : LampsOf x s t.bsu.outs
  quiet : t.inbox = s.inbox
  order : ∀ h kind, cal.clear = some h → s.ord.slots.get h.slot = .taken kind h.take → Memory.wf s.smp.mem = true →
    Completed s t h .cleared cal.ctx.sequence

/-- A state entered at the end of a clearing, with its cause. -/
theorem clearing_finished {x : CallState} {cal before : Cal} {cause : LastEnd} {v : Vsw} {outs : PerOut OutputState}
    {modules : PerPos Module} {t : State} (whole : t = raise .callFinished (entered x cal v outs modules u))
    (place : cal.place = none) (press : cal.ctx.flags.pressHeld = false) (lamps : LampsOf x u outs) :
    ClearingEnds x cal u (publishCall before (takeHeldPress (clearingOrders cause t))) := by
  have noPlace : t.cal.place = none := by rw [whole]; exact place
  obtain ⟨ord, smp, cleared⟩ := completeClear_eq t
  have noPress : (completeClear t).cal.ctx.flags.pressHeld = false := by rw [cleared, whole]; exact press
  have finished : (completeClear t).smp.causes.getLsbD 4 = true :=
    (completeClear_evolves (Evolves.refl t)).causes 4 (by rw [whole]; exact causeSet_own _ .callFinished)
  rw [clearingOrders_none noPlace, takeHeldPress_none noPress]
  have pending := publishCall_causes before (completeClear t) finished
  have order (h : Held) (kind : Nat) (held : cal.clear = some h) (taken : u.ord.slots.get h.slot = .taken kind h.take)
      (wf : Memory.wf u.smp.mem = true) :
      Completed u (publishCall before (completeClear t)) h .cleared cal.ctx.sequence := by
    have completed := completeClear_completed (s := u) (t := t) (kind := kind) (by rw [whole]; exact held)
      (by simp [whole, entered, raise]) (by simp [whole, entered, raise]) (by simp [whole, entered, raise]) taken wf
    have sequence : t.cal.ctx.sequence = cal.ctx.sequence := by rw [whole]; rfl
    rw [sequence] at completed
    exact completed.published before
  obtain ⟨g, c, e⟩ := publishCall_eq before (completeClear t)
  rw [e] at pending order ⊢
  rw [cleared] at pending order ⊢
  rw [whole] at pending order ⊢
  exact {
    context := rfl, timer := rfl, clear := rfl, cause := pending
    hnt := by simp [entered, raise], ctu := by simp [entered, raise], queue := rfl
    link := by simp [entered, raise], lamps := lamps, quiet := by simp [entered, raise], order := order }

/-! ### The last release of a clearing (R83) -/

/-- What the end of a clearing needs to leave the call at rest: nothing more is let go, nobody has pressed, and WCH is awake
with no DOZE asked for. -/
structure LastRelease (p : Pos) (s : State) : Prop where
  sound : s.pln.damaged = []
  clearing : s.cal.ctx.state = .clearing
  releases : s.cal.ctx.releases.set p false = ⟨false, false, false⟩
  link : s.cal.ctx.huntLink = .none
  answer : s.cal.ctx.answer = none
  flags : flagsSound s = true
  press : s.cal.ctx.flags.pressHeld = false
  deferred : s.cal.ctx.flags.clearDeferred = false
  awake : s.wch.doze = false
  pending : s.wch.dozePending = false
  roles : ∀ q, (s.module q).pendingRole = none
  place : s.cal.place = none

/-- CAL's record of a clearing whose last release has its result. -/
def releasedCal (p : Pos) (s : State) : Cal :=
  { s.cal with ctx := { s.cal.ctx with releases := s.cal.ctx.releases.set p false } }

/-- CAL's record on the entry to IDLE (R83, R85). -/
def idleCal (c : Cal) : Cal :=
  { c with
    ctx := { c.ctx with start := none, connect := none, serving := none, state := .idle }, held7 := stateFlags .idle }

/-- CAL's record on the entry to CALLBACK_WAIT with a window (R85). -/
def callbackCal (window : Nat) (c : Cal) : Cal :=
  { c with
    callbackTimer := some (longTimer (1000 * window)), held7 := stateFlags .callbackWait
    ctx := { c.ctx with callback := window, state := .callbackWait } }

theorem finishClearing_idle (destination : u.cal.destination = false) : finishClearing u =
    takeHeldPress (clearingOrders u.cal.ctx.lastEnd (raise .callFinished (enterIdle u))) := by
  rw [finishClearing, destination]
  rfl

theorem finishClearing_callback (destination : u.cal.destination = true) : finishClearing u =
    takeHeldPress (clearingOrders u.cal.ctx.lastEnd (enterCallbackWait u)) := by
  rw [finishClearing, if_pos destination]

theorem enterIdle_entered (sound : u.pln.damaged = []) (awake : u.wch.doze = false) (pending : u.wch.dozePending = false)
    (roles : ∀ q, (u.module q).pendingRole = none) : ∃ v outs modules,
      enterIdle u = entered .idle (idleCal u.cal) v outs modules u ∧ LampsOf .idle u outs := by
  obtain ⟨v, audio⟩ := stateAudio_unlinks (x := .idle) (s := writeState .idle
    (u.withCtx { u.cal.ctx with start := none, connect := none, serving := none })) sound (Or.inl rfl)
  obtain ⟨outs, modules, entry, lamps⟩ := enter_entered audio awake (fun _ => pending) (fun _ => roles)
  exact ⟨v, outs, modules, entry, lamps⟩

theorem afterCallbackWait_stays (deferred : u.cal.ctx.flags.clearDeferred = false)
    (timer : u.cal.callbackTimer.isSome = true) : afterCallbackWait u = u := by
  rw [afterCallbackWait, if_neg (by simp [deferred]), endEmptyWindow, if_neg]
  rintro ⟨_, none, _⟩
  rw [none] at timer
  cases timer

theorem enterCallbackWait_entered (sound : u.pln.damaged = []) (awake : u.wch.doze = false)
    (window : 0 < u.pln.plan.call.callbackWindow) (deferred : u.cal.ctx.flags.clearDeferred = false) :
    ∃ v outs modules, enterCallbackWait u = raise .callFinished
      (entered .callbackWait (callbackCal u.pln.plan.call.callbackWindow u.cal) v outs modules u) ∧
      LampsOf .callbackWait u outs := by
  have timed : (if u.pln.plan.call.callbackWindow = 0 then none
      else some (longTimer (1000 * u.pln.plan.call.callbackWindow))) =
        some (longTimer (1000 * u.pln.plan.call.callbackWindow)) := if_neg (by omega)
  obtain ⟨v, audio⟩ := stateAudio_unlinks (x := .callbackWait) (s := writeState .callbackWait (raise .callFinished
    (u.withCal { u.cal with
      callbackTimer := some (longTimer (1000 * u.pln.plan.call.callbackWindow))
      ctx := { u.cal.ctx with callback := u.pln.plan.call.callbackWindow } }))) sound (Or.inr rfl)
  obtain ⟨outs, modules, entry, lamps⟩ := enter_entered audio awake
    (fun h => absurd h (by decide)) (fun h => absurd h (by decide))
  refine ⟨v, outs, modules, ?_, lamps⟩
  unfold enterCallbackWait
  dsimp only
  rw [touch_sound sound, timed]
  exact (congrArg afterCallbackWait entry).trans (afterCallbackWait_stays (u := raise .callFinished
    (entered .callbackWait (callbackCal u.pln.plan.call.callbackWindow u.cal) v outs modules u)) deferred rfl)

/-- An event that ends a clearing, and with it the call's state CLEARING. -/
theorem calEvent_clears {f : State → State} (ends : clearingOver (f u) = true) (flags : flagsSound (f u) = true)
    (other : (finishClearing (f u)).cal.ctx.state ≠ .clearing) :
    calEvent f u = publishCall u.cal (finishClearing (f u)) := by
  have last : clearingOver (finishClearing (f u)) = false := clearingOver_of_state other
  have check : clearingCheck 3 (f u) = finishClearing (f u) := by
    simp only [clearingCheck, ends, if_true, transition_sound flags, last, Bool.false_eq_true, if_false]
  rw [calEvent, check]

theorem LastRelease.over (h : LastRelease p u) : clearingOver (takeReleaseResult p u) = true := by
  have state : (takeReleaseResult p u).cal.ctx.state = .clearing := h.clearing
  have releases : (takeReleaseResult p u).cal.ctx.releases = PerPos.all false := h.releases
  have link : (takeReleaseResult p u).cal.ctx.huntLink = .none := h.link
  have answer : (takeReleaseResult p u).cal.ctx.answer = none := h.answer
  simp [clearingOver, state, releases, link, answer]

theorem lastRelease_idle (h : LastRelease p u) (destination : u.cal.destination = false) :
    ClearingEnds .idle (idleCal (releasedCal p u)) u (handle (.calReleaseResult p) u) := by
  obtain ⟨v, outs, modules, entry, lamps⟩ := enterIdle_entered (u := takeReleaseResult p u) h.sound h.awake h.pending h.roles
  have finish : finishClearing (takeReleaseResult p u) = takeHeldPress (clearingOrders u.cal.ctx.lastEnd
      (raise .callFinished (entered .idle (idleCal (releasedCal p u)) v outs modules u))) := by
    rw [finishClearing_idle (u := takeReleaseResult p u) destination, entry]
    rfl
  have ends := clearing_finished (u := u) (before := u.cal) (cause := u.cal.ctx.lastEnd) (v := v) (modules := modules) rfl
    (show (idleCal (releasedCal p u)).place = none from h.place) h.press lamps
  rw [← finish] at ends
  have other : (finishClearing (takeReleaseResult p u)).cal.ctx.state ≠ .clearing := by
    rw [← publishCall_ctx u.cal, ends.context]
    exact CallState.noConfusion
  change ClearingEnds _ _ u (calEvent (takeReleaseResult p) u)
  rw [calEvent_clears h.over h.flags other]
  exact ends

theorem lastRelease_callback (h : LastRelease p u) (destination : u.cal.destination = true)
    (window : 0 < u.pln.plan.call.callbackWindow) : ClearingEnds .callbackWait
      (callbackCal u.pln.plan.call.callbackWindow (releasedCal p u)) u (handle (.calReleaseResult p) u) := by
  obtain ⟨v, outs, modules, entry, lamps⟩ :=
    enterCallbackWait_entered (u := takeReleaseResult p u) h.sound h.awake window h.deferred
  have finish : finishClearing (takeReleaseResult p u) = takeHeldPress (clearingOrders u.cal.ctx.lastEnd (raise .callFinished
      (entered .callbackWait (callbackCal u.pln.plan.call.callbackWindow (releasedCal p u)) v outs modules u))) := by
    rw [finishClearing_callback (u := takeReleaseResult p u) destination, entry]
    rfl
  have ends := clearing_finished (u := u) (before := u.cal) (cause := u.cal.ctx.lastEnd) (v := v) (modules := modules) rfl
    (show (callbackCal u.pln.plan.call.callbackWindow (releasedCal p u)).place = none from h.place) h.press lamps
  rw [← finish] at ends
  have other : (finishClearing (takeReleaseResult p u)).cal.ctx.state ≠ .clearing := by
    rw [← publishCall_ctx u.cal, ends.context]
    exact CallState.noConfusion
  change ClearingEnds _ _ u (calEvent (takeReleaseResult p) u)
  rw [calEvent_clears h.over h.flags other]
  exact ends

end Sys2Proof.Machine
end

section
/-! PROOFS. The replies to a RELEASE, an ANSWER, a DATA and a SCAN: O51. -/

namespace Sys2Proof.Machine

/-! ### A reply handed to one requester (R132, R140) -/

section
variable {s : State} {r : Request} {n d : Nat} {m : Msg}

/-- REPLY_OK to a request whose kind changes no module's state, told to one requester. -/
theorem ok_told (calm : calmPart s = true) (tx : s.mlc.tx = some ⟨r, n, .waiting d⟩)
    (allowed : (allowedReplies r.kind).contains 16 = true) (awake : r.kind ≠ .sleep ∧ r.kind ≠ .wake)
    (told : deliver r .ok (freed s r.pos) = post m (freed s r.pos)) :
    exec .replyOk s = .next (drain 999 (handle m (freed s r.pos))) := by
  obtain ⟨quiet, _⟩ := freed_quiet r.pos calm
  have same : replyOkModule r.pos r.kind (freed s r.pos) = freed s r.pos := by
    obtain ⟨sleep, wake⟩ := awake
    generalize r.kind = kind at sleep wake ⊢
    cases kind
    case sleep => exact absurd rfl sleep
    case wake => exact absurd rfl wake
    all_goals rfl
  rw [replyOk_run tx allowed, same, told, settled_post quiet]

theorem nak_told {x : NakReason} (other : x ≠ .badFrame) (calm : calmPart s = true)
    (tx : s.mlc.tx = some ⟨r, n, .waiting d⟩) (allowed : (allowedReplies r.kind).contains 17 = true)
    (told : deliver r (.nak x) (freed s r.pos) = post m (freed s r.pos)) :
    exec (.replyNak x) s = .next (drain 999 (handle m (freed s r.pos))) := by
  obtain ⟨quiet, _⟩ := freed_quiet r.pos calm
  rw [replyNak_run other tx allowed, told, settled_post quiet]

/-- Either reply to a RELEASE: its one requester is told a result. -/
theorem release_told {c : Instr} {o : Requester} (reply : c = .replyOk ∨ ∃ x, x ≠ .badFrame ∧ c = .replyNak x)
    (calm : calmPart s = true) (tx : s.mlc.tx = some ⟨r, n, .waiting d⟩) (kind : r.kind = .release)
    (owners : r.owners = [o]) (f : LinkResult → Msg)
    (told : ∀ x, deliverTo r x o (freed s r.pos) = post (f x) (freed s r.pos)) :
    ∃ x, exec c s = .next (drain 999 (handle (f x) (freed s r.pos))) := by
  rcases reply with rfl | ⟨x, other, rfl⟩
  · exact ⟨.ok, ok_told calm tx (by rw [kind]; rfl) (by rw [kind]; decide) ((deliver_one owners _ _).trans (told _))⟩
  · exact ⟨.nak x, nak_told other calm tx (by rw [kind]; rfl) ((deliver_one owners _ _).trans (told _))⟩

/-! ### A RELEASE (R51, R54, R59, R79) -/

theorem stray_replied {c : Instr} (reply : c = .replyOk ∨ ∃ x, x ≠ .badFrame ∧ c = .replyNak x)
    (calm : calmPart s = true) (tx : s.mlc.tx = some ⟨r, n, .waiting d⟩) (kind : r.kind = .release)
    (owners : r.owners = [.stray]) (mark : s.hnt.stray.get r.pos = some r.number)
    (rests : s.hnt.state = .idle ∨ s.hnt.state = .won) :
    exec c s = .next ((freed s r.pos).withHnt { s.hnt with stray := s.hnt.stray.set r.pos none }) := by
  obtain ⟨quiet, _⟩ := freed_quiet r.pos calm
  obtain ⟨x, run⟩ := release_told reply calm tx kind owners (fun _ => .hntStrayResult r.pos r.number) fun _ => rfl
  rw [run, stray_taken (u := freed s r.pos) mark rests]
  exact congrArg Host.Outcome.next (drain_of_inbox quiet)

/-- The link, CAL's record and SMP's put back after a reply that moved them alone. -/
theorem freed_apart {p : Pos} (y : Cal) (z : Smp) :
    ((((((freed s p).withCal y).withSmp z)).withMlc s.mlc).withCal s.cal).withSmp s.smp = s := by
  have apart (m : Mlc) : ((((((s.withMlc m).withCal y).withSmp z)).withMlc s.mlc).withCal s.cal).withSmp s.smp = s := rfl
  exact apart (freed s p).mlc

/-- CAL's release has its result while the clearing goes on, or the call is in another state. -/
theorem calRelease_replied {c : Instr} (reply : c = .replyOk ∨ ∃ x, x ≠ .badFrame ∧ c = .replyNak x)
    (calm : calmPart s = true) (tx : s.mlc.tx = some ⟨r, n, .waiting d⟩) (kind : r.kind = .release)
    (owners : r.owners = [.calRelease])
    (ongoing : s.cal.ctx.state ≠ .clearing ∨ s.cal.ctx.releases.set r.pos false ≠ ⟨false, false, false⟩ ∨
      s.cal.ctx.huntLink ≠ .none ∨ s.cal.ctx.answer.isSome = true) :
    ∃ t, exec c s = .next t ∧ t.cal.ctx = { s.cal.ctx with releases := s.cal.ctx.releases.set r.pos false } ∧
      t.mlc = (freed s r.pos).mlc ∧ ((t.withMlc s.mlc).withCal s.cal).withSmp s.smp = s := by
  obtain ⟨quiet, _⟩ := freed_quiet r.pos calm
  obtain ⟨x, run⟩ := release_told reply calm tx kind owners (fun _ => .calReleaseResult r.pos) fun _ => rfl
  have goesOn : clearingOver (takeReleaseResult r.pos (freed s r.pos)) = false := by
    have same : clearingOver (takeReleaseResult r.pos (freed s r.pos)) = (s.cal.ctx.state == .clearing &&
        s.cal.ctx.releases.set r.pos false == ⟨false, false, false⟩ && s.cal.ctx.huntLink == .none &&
          s.cal.ctx.answer.isNone) := rfl
    rw [same]
    rcases ongoing with h | h | h | h
    · simp [h]
    · simp [h]
    · simp [h]
    · obtain ⟨q, h⟩ := Option.isSome_iff_exists.mp h
      simp [h]
  obtain ⟨g, c', taken⟩ := calRelease_taken goesOn
  have still (y : Cal) (z : Smp) : drain 999 (((freed s r.pos).withCal y).withSmp z) =
      (((freed s r.pos).withCal y).withSmp z) := drain_of_inbox quiet
  rw [taken, still] at run
  exact ⟨_, run, rfl, rfl, freed_apart _ _⟩

end

/-- HNT takes the result of a RELEASE of an attempt's, in a hunt that is WON. -/
theorem attemptRelease_taken {u : State} {p : Pos} {a : Attempt} {k : Nat} {x : LinkResult} (quiet : u.inbox = [])
    (sound : u.pln.damaged = []) (won : u.hnt.state = .won) (record : u.record p = some a) (request : a.request = some k)
    (stray : a.strayOnEnd = false) (ongoing : clearingOver u = false) :
    ∃ t, drain 999 (handle (.hntResult p k .release x) u) = t ∧ t.record p = none ∧
      (∀ q, q ≠ p → t.record q = u.record q) ∧ t.mlc = u.mlc ∧
      t.cal.ctx = { u.cal.ctx with summaries := u.cal.ctx.summaries.set p none } ∧
      (∀ e, findEntry u.ctu.table a.key = some e → lostState (u.module a.key.pos).state = false →
        (a.outcome = .surplus → findEntry t.ctu.table a.key = some { e with inAttempt := false }) ∧
        (a.outcome = .timeout → findEntry t.ctu.table a.key = some (failed u.pln.plan .timeout e))) ∧
      t.vsw = u.vsw ∧ t.lmu = u.lmu ∧ t.wch = u.wch := by
  obtain ⟨y, c, g, c', drained, outcome⟩ := released_drained quiet sound won stray ongoing
  have taken : handle (.hntResult p k .release x) u = recordChecks u (endRecord p a a.outcome u) := by
    change hntTakeResult p k .release x u = _
    rw [hntTakeResult, record]
    exact if_pos request
  refine ⟨_, (congrArg (drain 999) taken).trans drained, ?_, fun q other => ?_, rfl, rfl, fun e found there => ?_, rfl, rfl, rfl⟩
  · change ((u.withCtu y).withRecord p none).record p = none
    rw [record_withRecord, if_pos rfl]
  · change ((u.withCtu y).withRecord p none).record q = _
    rw [record_withRecord, if_neg other]
    rfl
  · exact released_entry sound outcome found there

end Sys2Proof.Machine
end

section
/-! PROOFS. The replies to a RELEASE that ends an attempt or a clearing, and to an ANSWER (O51). -/

namespace Sys2Proof.Machine

variable {s : State} {r : Request} {n d : Nat}

/-! ### A RELEASE of an attempt's, and the last one of a clearing (R54, R83) -/

theorem attemptRelease_replied {c : Instr} {a : Attempt}
    (reply : c = .replyOk ∨ ∃ x, x ≠ .badFrame ∧ c = .replyNak x) (calm : calmPart s = true)
    (tx : s.mlc.tx = some ⟨r, n, .waiting d⟩) (kind : r.kind = .release) (owners : r.owners = [.attempt])
    (record : s.record r.pos = some a) (request : a.request = some r.number) (pos : a.key.pos = r.pos)
    (stray : a.strayOnEnd = false) (won : s.hnt.state = .won) (ongoing : clearingOver s = false) :
    ∃ t, exec c s = .next t ∧ t.record r.pos = none ∧ (∀ q, q ≠ r.pos → t.record q = s.record q) ∧
      t.mlc = (freed s r.pos).mlc ∧
      t.cal.ctx = { s.cal.ctx with summaries := s.cal.ctx.summaries.set r.pos none } ∧
      (∀ e, findEntry s.ctu.table a.key = some e → lostState (s.module r.pos).state = false →
        (a.outcome = .surplus → findEntry t.ctu.table a.key = some { e with inAttempt := false }) ∧
        (a.outcome = .timeout → ∃ x : Entry, findEntry t.ctu.table a.key = some x ∧ x = { e with
          failures := min (e.failures + 1) 7, last := .timeout, inAttempt := false, score := scoreOf s.pln.plan x
          bench := if 6 ≤ e.failures then some s.pln.plan.hunt.benchTime else e.bench })) ∧
      t.vsw = s.vsw ∧ t.lmu = s.lmu ∧ t.wch = s.wch := by
  obtain ⟨quiet, sound⟩ := freed_quiet r.pos calm
  obtain ⟨x, run⟩ := release_told reply calm tx kind owners (fun x => .hntResult r.pos r.number .release x) fun x => by
    rw [← kind]
    rfl
  obtain ⟨t, drained, gone, others, mlc, context, entry, vsw, lmu, wch⟩ :=
    attemptRelease_taken (u := freed s r.pos) (p := r.pos) (x := x) quiet sound won record request stray ongoing
  rw [drained] at run
  refine ⟨t, run, gone, others, mlc, context, fun e found there => ?_, vsw, lmu, wch⟩
  obtain ⟨surplus, timeout⟩ := entry e found (by rw [pos, freed_module_state]; exact there)
  exact ⟨surplus, fun late => ⟨_, timeout late, failed_score s.pln.plan .timeout e⟩⟩

/-- The last release of a clearing has its result: what the event leaves, seen from before the reply. -/
theorem lastRelease_replied {c : Instr} {x : CallState} {cal : Cal}
    (reply : c = .replyOk ∨ ∃ x, x ≠ .badFrame ∧ c = .replyNak x) (calm : calmPart s = true)
    (tx : s.mlc.tx = some ⟨r, n, .waiting d⟩) (kind : r.kind = .release) (owners : r.owners = [.calRelease])
    (ends : ClearingEnds x cal (freed s r.pos) (handle (.calReleaseResult r.pos) (freed s r.pos))) :
    ∃ t, exec c s = .next t ∧ ClearingEnds x cal (freed s r.pos) t := by
  obtain ⟨quiet, _⟩ := freed_quiet r.pos calm
  obtain ⟨_, run⟩ := release_told reply calm tx kind owners (fun _ => .calReleaseResult r.pos) fun _ => rfl
  rw [drain_of_inbox (ends.quiet.trans quiet)] at run
  exact ⟨_, run, ends⟩

theorem lastRelease_freed (p : Pos) (h : LastRelease p s) : LastRelease p (freed s p) where
  sound := h.sound
  clearing := h.clearing
  releases := h.releases
  link := h.link
  answer := h.answer
  flags := h.flags
  press := h.press
  deferred := h.deferred
  awake := h.awake
  pending := h.pending
  roles q := by
    rw [freed_module]
    split
    · exact h.roles p
    · exact h.roles q
  place := h.place

/-! ### An ANSWER (R60, R79, R82) -/

theorem answerOk_told (calm : calmPart s = true) (tx : s.mlc.tx = some ⟨r, n, .waiting d⟩) (kind : r.kind = .answer)
    (owners : r.owners = [.calAnswer]) :
    exec .replyOk s = .next (drain 999 (handle (.calAnswerResult r.pos true) (freed s r.pos))) :=
  ok_told calm tx (by rw [kind]; rfl) (by rw [kind]; decide) (deliver_one owners _ _)

theorem answerNak_told {x : NakReason} (other : x ≠ .badFrame) (calm : calmPart s = true)
    (tx : s.mlc.tx = some ⟨r, n, .waiting d⟩) (kind : r.kind = .answer) (owners : r.owners = [.calAnswer]) :
    exec (.replyNak x) s = .next (drain 999 (handle (.calAnswerResult r.pos false) (freed s r.pos))) :=
  nak_told other calm tx (by rw [kind]; rfl) (deliver_one owners _ _)

theorem answerNak_replied {x : NakReason} (bad : x ≠ .badFrame) (calm : calmPart s = true)
    (tx : s.mlc.tx = some ⟨r, n, .waiting d⟩) (kind : r.kind = .answer) (owners : r.owners = [.calAnswer])
    (answer : s.cal.ctx.answer = some r.pos) (other : s.cal.ctx.state ≠ .clearing)
    (window : s.cal.ctx.state = .callbackWait → s.cal.callbackTimer.isSome = true) :
    ∃ t, exec (.replyNak x) s = .next t ∧ t.cal.ctx = { s.cal.ctx with answer := none } ∧ t.mlc = (freed s r.pos).mlc ∧
      t.vsw.requested = { s.vsw.requested with callbackRing := false } ∧ t.hnt = s.hnt ∧ t.ctu = s.ctu ∧
      t.lmu = s.lmu ∧ t.wch = s.wch ∧ t.pln = s.pln ∧ t.bsu = s.bsu := by
  obtain ⟨quiet, sound⟩ := freed_quiet r.pos calm
  obtain ⟨v, g, c, taken, requested⟩ := answerNak_taken (u := freed s r.pos) sound answer other window
  have still (y : Cal) (z : Smp) : drain 999 ((((freed s r.pos).withVsw v).withCal y).withSmp z) =
      (((freed s r.pos).withVsw v).withCal y).withSmp z := drain_of_inbox quiet
  have run := answerNak_told bad calm tx kind owners
  rw [taken, still] at run
  have frame (y : Cal) (z : Smp) : ((((freed s r.pos).withVsw v).withCal y).withSmp z).hnt = s.hnt ∧
      ((((freed s r.pos).withVsw v).withCal y).withSmp z).ctu = s.ctu ∧
      ((((freed s r.pos).withVsw v).withCal y).withSmp z).lmu = s.lmu ∧
      ((((freed s r.pos).withVsw v).withCal y).withSmp z).wch = s.wch ∧
      ((((freed s r.pos).withVsw v).withCal y).withSmp z).pln = s.pln ∧
      ((((freed s r.pos).withVsw v).withCal y).withSmp z).bsu = s.bsu := by
    simp [freed, State.withModule]
  exact ⟨_, run, rfl, rfl, requested, frame _ _⟩

theorem lateAnswer_replied (calm : calmPart s = true)
    (tx : s.mlc.tx = some ⟨r, n, .waiting d⟩) (kind : r.kind = .answer) (owners : r.owners = [.calAnswer])
    (answer : s.cal.ctx.answer = some r.pos)
    (state : s.cal.ctx.state = .locating ∨ s.cal.ctx.state = .talk ∨ s.cal.ctx.state = .clearing)
    (free : callPlaceFree r.pos s = true) :
    ∃ t, exec .replyOk s = .next t ∧
      t.cal.ctx = { s.cal.ctx with answer := none, releases := s.cal.ctx.releases.set r.pos true } ∧
      t.mlc.queue = s.mlc.queue ++ [nextRequest s .calRelease r.pos .release []] ∧ t.hnt = s.hnt ∧ t.ctu = s.ctu ∧
      t.lmu = s.lmu := by
  obtain ⟨quiet, sound⟩ := freed_quiet r.pos calm
  obtain ⟨v, g, c, taken⟩ := lateAnswer_taken (u := freed s r.pos) sound answer state free
  have run := answerOk_told calm tx kind owners
  have frame (m : Mlc) (y : Cal) (z : Smp) : (((((freed s r.pos).withVsw v).withMlc m).withCal y).withSmp z).hnt = s.hnt ∧
      (((((freed s r.pos).withVsw v).withMlc m).withCal y).withSmp z).ctu = s.ctu ∧
      (((((freed s r.pos).withVsw v).withMlc m).withCal y).withSmp z).lmu = s.lmu := by
    simp [freed, State.withModule]
  have still (m : Mlc) (y : Cal) (z : Smp) :
      drain 999 (((((freed s r.pos).withVsw v).withMlc m).withCal y).withSmp z) =
        ((((freed s r.pos).withVsw v).withMlc m).withCal y).withSmp z := drain_of_inbox quiet
  rw [taken, still] at run
  exact ⟨_, run, rfl, rfl, frame _ _ _⟩

end Sys2Proof.Machine
end

section
/-! PROOFS. The ANSWER that connects, and the replies to a DATA and a SCAN (O51). -/

namespace Sys2Proof.Machine

variable {s : State} {r : Request} {n d : Nat}

/-! ### The ANSWER that connects the call (R60, R71, R82) -/

/-- What holds of a call that the answer's REPLY_OK has connected, seen from before the reply. -/
theorem Joined.connected {p : Pos} {x : CallState} {t : State} (h : Joined p x (freed s p) t) :
    t.cal.ctx.state = x ∧ t.cal.ctx.serving = some (.incoming p) ∧ t.cal.ctx.connect = some s.clock ∧
      t.cal.ctx.answer = none ∧ t.vsw.requested.callbackRing = false ∧
      t.cal.ctx.flags.silent = (s.straps.hook && s.bsu.hook.level) ∧ t.smp.causes.getLsbD 3 = true ∧
      (t.vsw.conn = .linked p ∨ t.vsw.conn = .gap p) ∧ t.vsw.uplinkMute = decide (x = .locating) ∧
      t.vsw.downlinkMute = decide (x = .locating) ∧ LampsFollow s t x ∧ t.mlc.tx = none :=
  ⟨h.state, h.serving, h.connect, h.answer, h.ring, h.silent, h.cause, h.conn, h.uplink, h.downlink, h.lamps.follow rfl,
    h.link⟩

theorem callbackAnswer_replied (calm : calmPart s = true) (tx : s.mlc.tx = some ⟨r, n, .waiting d⟩)
    (kind : r.kind = .answer) (owners : r.owners = [.calAnswer]) (answer : s.cal.ctx.answer = some r.pos)
    (flags : flagsSound s = true) (awake : s.wch.doze = false) (state : s.cal.ctx.state = .callbackWait) :
    ∃ t, exec .replyOk s = .next t ∧ TalksOn r.pos { s.cal with
      callbackTimer := none, ctx := { s.cal.ctx with answer := none, callback := 0 } } (freed s r.pos) t := by
  obtain ⟨quiet, sound⟩ := freed_quiet r.pos calm
  have talks := callbackAnswer_taken (u := freed s r.pos) sound awake flags answer state
  have run := answerOk_told calm tx kind owners
  rw [drain_of_inbox (talks.quiet.trans quiet)] at run
  exact ⟨_, run, talks⟩

theorem idleAnswer_replied (calm : calmPart s = true) (tx : s.mlc.tx = some ⟨r, n, .waiting d⟩)
    (kind : r.kind = .answer) (owners : r.owners = [.calAnswer]) (answer : s.cal.ctx.answer = some r.pos)
    (flags : flagsSound s = true) (awake : s.wch.doze = false) (state : s.cal.ctx.state = .idle) :
    ∃ t, exec .replyOk s = .next t ∧
      TalksOn r.pos (openCall .emergency ((freed s r.pos).withCtx { s.cal.ctx with answer := none })).cal (freed s r.pos) t ∧
      t.smp.causes.getLsbD 2 = true := by
  obtain ⟨quiet, sound⟩ := freed_quiet r.pos calm
  obtain ⟨talks, started⟩ := idleAnswer_taken (u := freed s r.pos) sound awake flags answer state
  have run := answerOk_told calm tx kind owners
  rw [drain_of_inbox (talks.quiet.trans quiet)] at run
  exact ⟨_, run, talks, started⟩

theorem huntAnswer_replied (calm : calmPart s = true) (tx : s.mlc.tx = some ⟨r, n, .waiting d⟩)
    (kind : r.kind = .answer) (owners : r.owners = [.calAnswer]) (answer : s.cal.ctx.answer = some r.pos)
    (flags : flagsSound s = true) (awake : s.wch.doze = false)
    (state : s.cal.ctx.state = .hunting ∨ s.cal.ctx.state = .reestablishing) (round : s.hnt.state = .round)
    (none : noRecord s = true) (idle : s.lmu.state = .idle) (free : messagePlace s.mlc.queue r.pos = .none)
    (room : roomFor 1 s = true) : ∃ t, exec .replyOk s = .next t ∧ Located r.pos (freed s r.pos) t := by
  obtain ⟨quiet, sound⟩ := freed_quiet r.pos calm
  exact ⟨_, answerOk_told calm tx kind owners,
    huntAnswer_taken (u := freed s r.pos) quiet sound awake flags answer state round none idle free room⟩

/-! ### A DATA (R98, R99, R101) -/

section
variable {record : List Byte}

theorem dataOk_told (calm : calmPart s = true) (tx : s.mlc.tx = some ⟨r, n, .waiting d⟩) (kind : r.kind = .data)
    (owners : r.owners = [.lmu]) :
    exec .replyOk s = .next (drain 999 (handle (.lmuResult r.number .ok) (freed s r.pos))) :=
  ok_told calm tx (by rw [kind]; rfl) (by rw [kind]; decide) (deliver_one owners _ _)

/-- The link and LMU's record put back after a reply that moved them alone. -/
theorem freed_sends {p : Pos} (l : Lmu) (m : Mlc) :
    ((((freed s p).withMlc m).withLmu l).withLmu s.lmu).withMlc s.mlc = s := by
  have apart (x : Mlc) : ((((s.withMlc x).withMlc m).withLmu l).withLmu s.lmu).withMlc s.mlc = s := by
    cases s
    rfl
  exact apart (freed s p).mlc

theorem nextSegment_replied (calm : calmPart s = true) (tx : s.mlc.tx = some ⟨r, n, .waiting d⟩) (kind : r.kind = .data)
    (owners : r.owners = [.lmu]) (sending : s.lmu.state = .sending) (current : s.lmu.current = some r.number)
    (pos : s.lmu.pos = some r.pos) (stands : s.lmu.record = some record) (free : messagePlace s.mlc.queue r.pos = none)
    (room : roomFor 1 s = true) (left : s.lmu.segment < s.lmu.segments) :
    ∃ t, exec .replyOk s = .next t ∧
      (t.mlc.queue = s.mlc.queue ++ [nextRequest s .lmu r.pos .data
          ([byteOf (s.lmu.segment + 1), byteOf s.lmu.segments] ++ segmentBytes record (s.lmu.segment + 1))] ∧
        t.mlc.tx = none ∧ t.mlc.modules = (freed s r.pos).mlc.modules ∧ (t.withLmu s.lmu).withMlc s.mlc = s) ∧
      t.lmu = { s.lmu with segment := s.lmu.segment + 1, replySeen := true, current := some (s.mlc.nextNumber + 1) } := by
  obtain ⟨quiet, _⟩ := freed_quiet r.pos calm
  have taken := nextSegment (u := freed s r.pos) current sending pos stands free room left
  have run := dataOk_told calm tx kind owners
  have still (q : List Request) (k : Nat) (l : Lmu) :
      drain 999 (((freed s r.pos).withMlc { (freed s r.pos).mlc with queue := q, nextNumber := k }).withLmu l) =
        ((freed s r.pos).withMlc { (freed s r.pos).mlc with queue := q, nextNumber := k }).withLmu l :=
    drain_of_inbox quiet
  rw [taken, still] at run
  exact ⟨_, run, ⟨rfl, rfl, rfl, freed_sends _ _⟩, rfl⟩

theorem lastSegment_replied (calm : calmPart s = true) (tx : s.mlc.tx = some ⟨r, n, .waiting d⟩) (kind : r.kind = .data)
    (owners : r.owners = [.lmu]) (current : s.lmu.current = some r.number) (last : s.lmu.segments ≤ s.lmu.segment) :
    exec .replyOk s = .next ((freed s r.pos).withLmu { s.lmu with
      state := .awaiting, replySeen := true, current := none
      ackTimer := some (1000 * s.pln.plan.call.ackTimeout) }) := by
  obtain ⟨quiet, sound⟩ := freed_quiet r.pos calm
  have taken := lastSegment (u := freed s r.pos) sound current last
  have still (l : Lmu) : drain 999 ((freed s r.pos).withLmu l) = (freed s r.pos).withLmu l := drain_of_inbox quiet
  rw [dataOk_told calm tx kind owners, taken, still]
  rfl

theorem nextTry_replied {x : NakReason} (bad : x ≠ .badFrame) (calm : calmPart s = true)
    (tx : s.mlc.tx = some ⟨r, n, .waiting d⟩) (kind : r.kind = .data)
    (owners : r.owners = [.lmu]) (sending : s.lmu.state = .sending) (current : s.lmu.current = some r.number)
    (pos : s.lmu.pos = some r.pos) (stands : s.lmu.record = some record) (free : messagePlace s.mlc.queue r.pos = none)
    (room : roomFor 1 s = true) (tries : s.lmu.tries < s.pln.plan.hunt.messageRetries + 1) :
    ∃ t, exec (.replyNak x) s = .next t ∧
      (t.mlc.queue = s.mlc.queue ++ [nextRequest s .lmu r.pos .data
          ([byteOf 1, byteOf s.lmu.segments] ++ segmentBytes record 1)] ∧
        t.mlc.tx = none ∧ t.mlc.modules = (freed s r.pos).mlc.modules ∧ (t.withLmu s.lmu).withMlc s.mlc = s) ∧
      t.lmu = { s.lmu with
        segment := 1, tries := s.lmu.tries + 1, ackTimer := none, current := some (s.mlc.nextNumber + 1) } := by
  obtain ⟨quiet, sound⟩ := freed_quiet r.pos calm
  have taken := nextTry (u := freed s r.pos) (x := .nak x) (by simp) sound current sending pos stands free room tries
  have run : exec (.replyNak x) s = .next (drain 999 (handle (.lmuResult r.number (.nak x)) (freed s r.pos))) :=
    nak_told bad calm tx (by rw [kind]; rfl) (deliver_one owners _ _)
  have still (q : List Request) (k : Nat) (l : Lmu) :
      drain 999 (((freed s r.pos).withMlc { (freed s r.pos).mlc with queue := q, nextNumber := k }).withLmu l) =
        ((freed s r.pos).withMlc { (freed s r.pos).mlc with queue := q, nextNumber := k }).withLmu l :=
    drain_of_inbox quiet
  rw [taken, still] at run
  exact ⟨_, run, ⟨rfl, rfl, rfl, freed_sends _ _⟩, rfl⟩

end

/-! ### A SCAN (R165) -/

theorem scanOk_replied (calm : calmPart s = true) (tx : s.mlc.tx = some ⟨r, n, .waiting d⟩) (kind : r.kind = .scan)
    (owners : r.owners = [.wch]) (request : (s.watch r.pos).scanRequest = some r.number) :
    exec .replyOk s = .next ((freed s r.pos).withWatch r.pos
      { s.watch r.pos with scanRequest := none, phase := .awaitReady }) := by
  obtain ⟨quiet, _⟩ := freed_quiet r.pos calm
  have taken := scanOk_taken (u := freed s r.pos) request
  have run : exec .replyOk s = .next (drain 999 (handle (.wchResult r.pos r.number .scan .ok) (freed s r.pos))) :=
    ok_told calm tx (by rw [kind]; rfl) (by rw [kind]; decide) (by rw [deliver_one owners, ← kind]; rfl)
  have still (w : Watch) : drain 999 ((freed s r.pos).withWatch r.pos w) = (freed s r.pos).withWatch r.pos w :=
    drain_of_inbox quiet
  rw [run, taken, still]
  rfl

theorem scanNak_replied {x : NakReason} (bad : x ≠ .badFrame) (calm : calmPart s = true)
    (tx : s.mlc.tx = some ⟨r, n, .waiting d⟩) (kind : r.kind = .scan) (owners : r.owners = [.wch])
    (request : (s.watch r.pos).scanRequest = some r.number) (unrequested : (s.watch r.pos).requested = false)
    (order : s.wch.order = none) (gather : s.wch.gatherReport = false) (doze : s.wch.doze = false)
    (stagger : s.wch.stagger.isSome = true) (awake : ∀ q, (s.module q).state ≠ .asleep)
    (active : (s.module r.pos).role = .active) : exec (.replyNak x) s = .next (outOfGather r.pos
      (scanOver s.pln.plan.hunt.scanInterval (s.watch r.pos)) (freed s r.pos)) := by
  obtain ⟨quiet, sound⟩ := freed_quiet r.pos calm
  have awake (q : Pos) : ((freed s r.pos).module q).state ≠ .asleep := by
    rw [freed_module]
    split
    · exact awake r.pos
    · exact awake q
  have active : ((freed s r.pos).module r.pos).role = .active := by
    rw [freed_module, if_pos rfl]
    exact active
  have taken := scanNak_taken (u := freed s r.pos) (x := x) ⟨sound, order, gather⟩ request unrequested doze stagger awake active
  have run : exec (.replyNak x) s =
      .next (drain 999 (handle (.wchResult r.pos r.number .scan (.nak x)) (freed s r.pos))) :=
    nak_told bad calm tx (by rw [kind]; rfl) (by rw [deliver_one owners, ← kind]; rfl)
  have still (w : Watch) : drain 999 (outOfGather r.pos w (freed s r.pos)) = outOfGather r.pos w (freed s r.pos) :=
    drain_of_inbox quiet
  rw [run, taken, still]
  rfl

end Sys2Proof.Machine
end

section
/-! PROOFS. The replies are taken (O51). -/

namespace Sys2Proof.Machine

/-- What the end of a clearing leaves, seen from before the reply to its last RELEASE. -/
theorem ClearingEnds.ended {s t : State} {p : Pos} {x : CallState} {cal : Cal} (h : ClearingEnds x cal (freed s p) t)
    (lastEnd : cal.ctx.lastEnd = s.cal.ctx.lastEnd) (releases : cal.ctx.releases = s.cal.ctx.releases.set p false)
    (clear : cal.clear = s.cal.clear) (sequence : cal.ctx.sequence = s.cal.ctx.sequence) :
    t.cal.ctx.lastEnd = s.cal.ctx.lastEnd ∧ t.smp.causes.getLsbD 4 = true ∧
      t.cal.ctx.releases = s.cal.ctx.releases.set p false ∧ t.cal.clear = none ∧ t.hnt = s.hnt ∧ t.ctu = s.ctu ∧
      t.mlc.queue = s.mlc.queue ∧ t.mlc.tx = none ∧
      ∀ h kind, s.cal.clear = some h → s.ord.slots.get h.slot = .taken kind h.take →
        Memory.wf s.smp.mem = true → Completed s t h .cleared s.cal.ctx.sequence := by
  refine ⟨by rw [h.context, lastEnd], h.cause, by rw [h.context, releases], h.clear, h.hnt, h.ctu, h.queue, h.link,
    fun held kind holds taken wf => ?_⟩
  have completed := h.order held kind (clear.trans holds) taken wf
  rw [sequence] at completed
  exact completed.before rfl rfl rfl

/-- Settles O51, by what each requester makes of the result of its own request, from a state in which nothing else waits. -/
theorem repliesAreTaken : Obligations.RepliesAreTaken := by
  refine ⟨fun s r n d calm tx => ⟨reject_replied calm tx, ?_⟩, fun s r n d calm tx owners hunt scans call none wait => ?_,
    fun s r n d calm tx => ⟨fun c reply kind => ⟨stray_replied reply calm tx kind, ?_, ?_⟩, ?_, ?_, ?_⟩⟩
  · intro a e kind owners record request pos release stray set emergency other found serves
    exact ⟨fun _ => originate_ok calm tx kind owners record request release set other,
      fun x bad => originate_nak bad calm tx kind owners record request pos release stray set emergency other found serves⟩
  · exact ⟨sleep_replied calm tx owners hunt scans call none wait, wake_replied calm tx owners hunt scans call none wait,
      fun x other kind => watch_refused calm tx owners hunt scans call other kind⟩
  · intro a owners record _ request pos stray won ongoing
    exact attemptRelease_replied reply calm tx kind owners record request pos stray won ongoing
  · intro owners left
    refine ⟨calRelease_replied reply calm tx kind owners, ?_⟩
    intro clearing none link answer flags press deferred awake pending roles place ended
    have last : LastRelease r.pos (freed s r.pos) := lastRelease_freed r.pos
      ⟨((calmPart_iff s).mp calm).2, clearing, none, link, answer, flags, press, deferred, awake, pending, roles, place⟩
    refine ⟨fun destination => ?_, fun destination window => ?_⟩
    · obtain ⟨t, run, ends⟩ := lastRelease_replied reply calm tx kind owners (lastRelease_idle last destination)
      exact ⟨t, run, ends.ended rfl rfl rfl rfl, by rw [ends.context]; rfl, by rw [ends.context]; rfl,
        by rw [ends.context]; rfl, by rw [ends.context]; rfl, ends.lamps.follow rfl⟩
    · obtain ⟨t, run, ends⟩ := lastRelease_replied reply calm tx kind owners (lastRelease_callback last destination window)
      exact ⟨t, run, ends.ended rfl rfl rfl rfl, by rw [ends.context]; rfl, by rw [ends.context]; rfl, ends.timer,
        by rw [ends.context]; rfl, ends.lamps.follow rfl⟩
  · intro kind owners answer flags awake connected
    refine ⟨fun x bad => answerNak_replied bad calm tx kind owners answer, fun state => ?_, fun state => ?_,
      fun state round none idle free room => ?_, lateAnswer_replied calm tx kind owners answer⟩
    · obtain ⟨t, run, talks⟩ := callbackAnswer_replied calm tx kind owners answer flags awake state
      have context := talks.context
      exact ⟨t, run, talks.toJoined.connected, by rw [context]; rfl, talks.timer, by rw [context]; rfl, talks.mask,
        by rw [context]; rfl, by rw [context]; rfl, by rw [context]; rfl, talks.chime, talks.hnt, talks.queue⟩
    · obtain ⟨t, run, talks, started⟩ := idleAnswer_replied calm tx kind owners answer flags awake state
      have context := talks.context
      exact ⟨t, run, talks.toJoined.connected, by rw [context]; rfl, by rw [context]; rfl, by rw [context]; rfl,
        talks.counter, by rw [context]; rfl, by rw [context]; rfl, started, talks.chime, talks.hnt, talks.queue⟩
    · obtain ⟨t, run, located⟩ := huntAnswer_replied calm tx kind owners answer flags awake state round none idle free room
      exact ⟨t, run, located.toJoined.connected, located.message, located.won, located.set, located.sending, located.pos,
        located.sequence, located.huntLink⟩
  · intro record kind owners sending current pos stands free room sends
    exact ⟨nextSegment_replied calm tx kind owners sending current pos stands free room,
      lastSegment_replied calm tx kind owners current,
      fun x bad => nextTry_replied bad calm tx kind owners sending current pos stands free room⟩
  · intro kind owners request
    exact ⟨scanOk_replied calm tx kind owners request,
      fun x bad => scanNak_replied bad calm tx kind owners request⟩

end Sys2Proof.Machine
end

section
/-! PROOFS. The scores, the rank order and the backoff pause (O60). -/

namespace Sys2Proof.Machine

/-! ### The score (R22 to R25) -/

/-- The bias of a place is the entry of the table of R24, and 0 beyond its end. -/
theorem biasAt_eq (i : Nat) : (biasAt i : Int) = ([12, 10, 8, 6, 4, 3, 2, 1] : List Int).getD i 0 := by
  obtain near | ⟨j, rfl⟩ := (Nat.lt_or_ge i 8).imp id Nat.exists_eq_add_of_le'
  · interval_cases i <;> rfl
  · rfl

/-- The bias of a tag is that of the first place of the list that holds it (R24). -/
theorem biasFrom_eq (tag : BitVec 24) (i : Nat) (l : List (BitVec 24)) :
    biasFrom tag i l = ((l.findIdx? (· == tag)).map (fun j => biasAt (i + j))).getD 0 := by
  induction l generalizing i with
  | nil => rfl
  | cons x rest ih =>
    by_cases here : x = tag
    · simp [biasFrom, here, List.findIdx?_cons]
    · have shift : (fun j => biasAt (i + 1 + j)) = (fun j => biasAt (i + j)) ∘ (· + 1) :=
        funext fun j => congrArg biasAt (by simp; omega)
      simp [biasFrom, here, List.findIdx?_cons, ih, shift]

/-! ### The backoff pause (R30) -/

/-- A clamped plan's backoff: base from 1, cap from the base to 300 (R30, R175). -/
theorem clampHunt_backoff (h : PlanHunt) : 1 ≤ (clampHunt h).backoffBase ∧
    (clampHunt h).backoffBase ≤ (clampHunt h).backoffCap ∧ (clampHunt h).backoffCap ≤ 300 := by
  simp only [clampHunt, clampTo]
  omega

/-- The first pause is the base, where the cap is not below it. -/
theorem backoffPause_one {plan : Plan} (ordered : plan.hunt.backoffBase ≤ plan.hunt.backoffCap) :
    backoffPause plan 1 = plan.hunt.backoffBase := by
  simpa [backoffPause] using ordered

/-- No pause is shorter than the base, where the cap is not below it. -/
theorem base_le_backoffPause {plan : Plan} (r : Nat) (ordered : plan.hunt.backoffBase ≤ plan.hunt.backoffCap) :
    plan.hunt.backoffBase ≤ backoffPause plan r :=
  le_min (Nat.le_mul_of_pos_right _ (by positivity)) ordered

theorem backoffPause_le_cap (plan : Plan) (r : Nat) : backoffPause plan r ≤ plan.hunt.backoffCap := min_le_right ..

/-- The pause stops growing at the ninth round. -/
theorem backoffPause_of_nine_le (plan : Plan) {r : Nat} (h : 9 ≤ r) : backoffPause plan r = backoffPause plan 9 := by
  simp [backoffPause, min_eq_right h]

/-- Settles O60: the bias by `biasFrom_eq`, the rank order by `ranksAbove_iff`, the pause by the bounds of a clamped plan's
backoff. -/
theorem scoresRanksAndPauses : Obligations.ScoresRanksAndPauses := by
  refine ⟨⟨fun plan e _ _ => ?_, fun a b => ?_⟩, fun plan r _ => ?_⟩
  · have bias : (biasFrom e.key.tag 0 plan.lists.preferred : Int) =
        match plan.lists.preferred.findIdx? (· == e.key.tag) with
        | some i => ([12, 10, 8, 6, 4, 3, 2, 1] : List Int).getD i 0
        | none => 0 := by
      rw [biasFrom_eq]
      cases plan.lists.preferred.findIdx? (· == e.key.tag) with
      | none => rfl
      | some i => simpa using biasAt_eq i
    rw [scoreOf, Int.ofNat_toNat, rawScore, levelTerm, preferenceTerm, bias]
    rfl
  · rw [ranksAbove_iff, ← Fin.ext_iff, ← BitVec.toNat_inj]
    rfl
  · obtain ⟨one, ordered, top⟩ := clampHunt_backoff plan.hunt
    exact ⟨rfl, backoffPause_one ordered,
      one.trans (base_le_backoffPause (plan := clampPlan plan) r ordered),
      (backoffPause_le_cap _ r).trans top, backoffPause_of_nine_le _⟩

end Sys2Proof.Machine
end

section
/-! PROOFS. Rounds with nothing to hunt or gather with, and the backoff after them (O39). -/

namespace Sys2Proof.Machine

/-! ### The end of a round (R44, R61) -/

/-- The rounds completed once the present one has ended (R44). -/
def roundsAfter (h : Hnt) : Nat := min (h.rounds + 1) 255

/-- The pause after the present round (R30). -/
def pauseAfter (plan : Plan) (h : Hnt) : Nat := backoffPause plan (roundsAfter h)

/-- An EMERGENCY hunt that has ended a round: counted, in BACKOFF, its timer just set (R61). -/
def paused (plan : Plan) (h : Hnt) : Hnt :=
  { h with rounds := roundsAfter h, state := .backoff, backoff := some (longTimer (1000 * pauseAfter plan h)) }

/-- A round of an EMERGENCY hunt has ended in `u`, and the inbox of `s` has been followed by the reports `told`, the rounds
completed and the pause; of the hunt's records nothing has changed. -/
def RoundEnded (s u : State) (told : List Msg) : Prop :=
  ∃ h : Hnt, u = (s.withHnt (paused s.pln.plan h)).withInbox
      (s.inbox ++ told ++ [.calRounds (roundsAfter h), .calBackoff (pauseAfter s.pln.plan h)]) ∧
    h.rounds = s.hnt.rounds ∧ h.set = [] ∧ h.wakeWait = none ∧ h.records = s.hnt.records

/-- What `endRound_emergency` says, with the hunt and the reports written out. -/
theorem endRound_paused {s : State} (sound : s.pln.damaged = []) (kind : s.hnt.kind = .emergency) :
    endRound s = (s.withHnt (paused s.pln.plan s.hnt)).withInbox
      (s.inbox ++ [.calRounds (roundsAfter s.hnt), .calBackoff (pauseAfter s.pln.plan s.hnt)]) := by
  have reads (m : Msg) (h : Hnt) : touchAll [20, 22] (post m (s.withHnt h)) = post m (s.withHnt h) :=
    touchAll_sound (s := post m (s.withHnt h)) sound _
  unfold endRound
  dsimp only
  split
  next test => exact absurd (test.symm.trans kind) (by decide)
  next =>
    rw [reads]
    simp only [post, State.withInbox, State.withHnt, List.append_assoc]
    rfl

theorem launchCheck_emptySet {s : State} (set : s.hnt.set = []) : launchCheck s = s := by
  have closed : launchOpen s = false := by simp [launchOpen, firstFree, set]
  simp [launchCheck, launchLoop, closed]

theorem inFlightCount_of_noRecord {s : State} (noRecords : noRecord s = true) : inFlightCount s = 0 :=
  inFlightCount_none (record_none_of_noRecord noRecords)

/-- A round with an empty set and no attempt in flight ends at its check (R44). -/
theorem roundEndCheck_ends {s : State} (round : s.hnt.state = .round) (wait : s.hnt.wakeWait = none) (set : s.hnt.set = [])
    (noRecords : noRecord s = true) : roundEndCheck s = endRound s :=
  if_pos ⟨round, wait, set, inFlightCount_of_noRecord noRecords⟩

/-! ### The fill of a round from an empty table (R41, R43) -/

theorem fillSet_emptyTable {s : State} (sound : s.pln.damaged = []) (table : s.ctu.table = []) :
    fillSet s = s.withHnt { s.hnt with set := [], lastKeys := [] } := by
  simp [fillSet, touchAll_sound sound, keysWhere, table]

theorem unusable_of_usableCount {s : State} (idle : usableCount s = 0) (p : Pos) : usable (s.module p) = false := by
  have none := List.filter_eq_nil_iff.mp (List.length_eq_zero_iff.mp idle) p
    (by obtain rfl | rfl | rfl := pos_cases p <;> simp [positions])
  simpa using none

/-- Without a usable module there is nothing to gather with (R43). -/
theorem gatherOrEnd_unusable {s : State} (idle : usableCount s = 0) : gatherOrEnd s = roundEndCheck s := by
  simp [gatherOrEnd, gatherModule, unusable_of_usableCount idle, PerPos.all]

/-- A round that starts with an empty table and no usable module ends at once (R41, R43, R44). -/
theorem startRound_ends {s : State} (sound : s.pln.damaged = []) (kind : s.hnt.kind = .emergency) (table : s.ctu.table = [])
    (idle : usableCount s = 0) (noRecords : noRecord s = true) (wait : s.hnt.wakeWait = none) :
    RoundEnded s (startRound s) [.calRounds s.hnt.rounds] := by
  let h : Hnt := { s.hnt with
    state := .round, form := s.hnt.rounds % max s.pln.plan.lists.dialForms.length 1, set := [], lastKeys := [] }
  let filled := post (.calRounds s.hnt.rounds) (s.withHnt h)
  have started : startRound s = gatherOrEnd filled := by
    simp only [startRound, touch_sound sound]
    rw [fillSet_emptyTable (by exact sound) (by exact table)]
    rfl
  have ended : gatherOrEnd filled = endRound filled :=
    (gatherOrEnd_unusable (s := filled) idle).trans (roundEndCheck_ends rfl wait rfl noRecords)
  refine ⟨h, ?_, rfl, rfl, wait, rfl⟩
  rw [started, ended, endRound_paused (by exact sound) (by exact kind)]
  rfl

/-- A gather that ends with the table empty ends the round (R43, R44). -/
theorem gatherEnded_ends {s : State} (sound : s.pln.damaged = []) (kind : s.hnt.kind = .emergency)
    (table : s.ctu.table = []) (noRecords : noRecord s = true) (wait : s.hnt.wakeWait = none) :
    RoundEnded s (gatherEnded s) [] := by
  let h : Hnt := { s.hnt with state := .round, gather := none, set := [], lastKeys := [] }
  have filled : gatherEnded s = huntChecks (s.withHnt h) := by
    rw [gatherEnded, fillSet_emptyTable (by exact sound) (by exact table)]
    rfl
  have ended : huntChecks (s.withHnt h) = endRound (s.withHnt h) := by
    rw [huntChecks, launchCheck_emptySet rfl]
    exact roundEndCheck_ends rfl wait rfl noRecords
  refine ⟨h, ?_, rfl, rfl, wait, rfl⟩
  rw [filled, ended, endRound_paused (by exact sound) (by exact kind), List.append_nil]
  rfl

/-! ### What CAL shows of it (R61, R88) -/

theorem shownAll_rounds_backoff (ms : List Msg) (a b : Nat) (x : Context) :
    ((ms ++ [Msg.calRounds a, .calBackoff b]).foldl shown x).rounds = a ∧
      ((ms ++ [Msg.calRounds a, .calBackoff b]).foldl shown x).backoff = b := by
  rw [List.foldl_append]
  exact ⟨rfl, rfl⟩

/-- The hunt pauses in BACKOFF after an empty round: what O39 says of the state after it. -/
structure BacksOff (s t : State) : Prop where
  state : t.hnt.state = .backoff
  rounds : t.hnt.rounds = roundsAfter s.hnt
  timer : t.hnt.backoff = some { left := 1000 * pauseAfter s.pln.plan s.hnt, fresh := true }
  set : t.hnt.set = []
  wakeWait : t.hnt.wakeWait = none
  records : noRecord t = true
  shownRounds : t.cal.ctx.rounds = roundsAfter s.hnt
  shownPause : t.cal.ctx.backoff = pauseAfter s.pln.plan s.hnt
  call : t.cal.ctx.state = s.cal.ctx.state
  rest : t.mlc = s.mlc ∧ t.ctu = s.ctu ∧ t.wch = s.wch ∧ t.pln = s.pln ∧ t.vsw = s.vsw

/-- A round that has ended with nothing but reports for CAL to show: the pause, and CAL showing it. -/
theorem RoundEnded.settles {s u : State} {told : List Msg} (ended : RoundEnded s u told) (noRecords : noRecord s = true)
    (other : s.cal.ctx.state ≠ .clearing) (shows' : ∀ m ∈ s.inbox ++ told, shows m = true)
    (short : (s.inbox ++ told).length ≤ 2) : ∃ t, settled u = .next t ∧ BacksOff s t := by
  obtain ⟨h, rfl, rounds, set, wait, records⟩ := ended
  have after : roundsAfter h = roundsAfter s.hnt := congrArg (fun n => min (n + 1) 255) rounds
  have pause : pauseAfter s.pln.plan h = pauseAfter s.pln.plan s.hnt := congrArg (backoffPause s.pln.plan) after
  obtain ⟨g, c, run⟩ := settled_shows (s := (s.withHnt (paused s.pln.plan h)).withInbox _) rfl
    (ms := s.inbox ++ told ++ [.calRounds (roundsAfter h), .calBackoff (pauseAfter s.pln.plan h)])
    (fun m at' => (List.mem_append.mp at').elim (shows' m) fun last => by
      obtain rfl | rfl : m = .calRounds _ ∨ m = .calBackoff _ := by simpa using last
      · rfl
      · rfl)
    (by simp at short ⊢; omega) (Or.inl other)
  obtain ⟨shownRounds, shownPause⟩ := shownAll_rounds_backoff (s.inbox ++ told) (roundsAfter h)
    (pauseAfter s.pln.plan h) s.cal.ctx
  refine ⟨_, run, rfl, after, ?_, set, wait, ?_, shownRounds.trans after, shownPause.trans pause, shownAll_state _ _,
    rfl, rfl, rfl, rfl, rfl⟩
  · rw [← pause]
    rfl
  · have same : noRecord s = positions.all (fun p => (h.records.get p).isNone) := by
      rw [records]
      rfl
    exact same.symm.trans noRecords

/-- Settles O39: each of the three timers ends an empty round (`startRound_ends`, `gatherEnded_ends`), which pauses the hunt
(`RoundEnded.settles`). -/
theorem emptyRoundsBackOff : Obligations.EmptyRoundsBackOff := by
  intro c s calm kind table idle noRecords other command
  obtain ⟨quiet, sound⟩ := (calmPart_iff s).mp calm
  suffices run : ∃ t, exec c s = .next t ∧ BacksOff s t by
    obtain ⟨t, run, h⟩ := run
    exact ⟨t, run, h.state, h.rounds, h.timer, h.set, h.wakeWait, h.records, h.shownRounds, h.shownPause, h.call, h.rest⟩
  rcases command with ⟨rfl, waits⟩ | ⟨rfl, runs, gathers, wait⟩ | ⟨rfl, runs, pauses, wait⟩
  · have expiry : endWakeWait s = startRound (s.withHnt { s.hnt with wakeWait := none }) := if_pos waits
    obtain ⟨t, run, after⟩ := (startRound_ends (s := s.withHnt { s.hnt with wakeWait := none }) sound kind table idle
      noRecords rfl).settles noRecords other (by simp [quiet, shows]) (by simp [quiet])
    exact ⟨t, (congrArg settled expiry).trans run, { after with }⟩
  · have expiry : hntGatherExpiry s = gatherEnded s := if_pos ⟨runs, gathers⟩
    obtain ⟨t, run, after⟩ := (gatherEnded_ends sound kind table noRecords wait).settles noRecords other
      (by simp [quiet]) (by simp [quiet])
    exact ⟨t, (congrArg settled expiry).trans run, after⟩
  · let left := (s.withHnt { s.hnt with backoff := none }).withInbox [.calBackoff 0]
    have leaves : leaveBackoff s = left := by
      rw [leaveBackoff, if_pos runs, post, State.withHnt_inbox, quiet]
      rfl
    have expiry : hntBackoffExpiry s = startRound left := (if_pos ⟨runs, pauses⟩).trans (congrArg startRound leaves)
    obtain ⟨t, run, after⟩ := (startRound_ends (s := left) sound kind table idle noRecords wait).settles noRecords other
      (by simp [left, shows]) (by simp [left])
    exact ⟨t, (congrArg settled expiry).trans run, { after with }⟩

end Sys2Proof.Machine
end

section
/-! PROOFS. The launch of a key at the end of the launch stagger (O40). -/

namespace Sys2Proof.Machine

/-! ### One launch (R46, R47) -/

/-- The form index and the dial characters of the next launch (R47). -/
def nextDial (s : State) : Nat × List Byte := launchDial s.pln.plan s.hnt.kind s.hnt.form

/-- The record of the launch of a key, before its ORIGINATE is queued (R46, R48). -/
def launchRecord (s : State) (k : Key) : Attempt :=
  { number := min (s.hnt.counter + 1) 65535, key := k, form := (nextDial s).1, state := .queued, timer := none
    outcome := .none, releaseOnReply := false, strayOnEnd := false, request := none }

/-- The record as the launch leaves it, waiting for the ORIGINATE's result. -/
def launchedRecord (s : State) (k : Key) : Attempt := { launchRecord s k with request := some (s.mlc.nextNumber + 1) }

/-- The hunt after the launch: the attempt counted, its record in place, the stagger set (R46). -/
def huntLaunched (s : State) (k : Key) : Hnt :=
  { s.hnt with
    counter := (launchRecord s k).number, stagger := timerOf s.pln.plan.hunt.stagger
    records := s.hnt.records.set k.pos (some (launchedRecord s k)) }

/-- The link after the launch: the ORIGINATE at the queue's end (R47, R136). -/
def linkLaunched (s : State) (k : Key) : Mlc :=
  { s.mlc with
    queue := s.mlc.queue ++ [nextRequest s .attempt k.pos .originate
      (originatePayload (s.hnt.kind == .emergency) k (nextDial s).2)]
    nextNumber := s.mlc.nextNumber + 1 }

/-- The state after the launch of a marked key, with the record reported to CAL. -/
def launched (s : State) (k : Key) : State :=
  ((s.withHnt (huntLaunched s k)).withMlc (linkLaunched s k)).withInbox
    (s.inbox ++ [.calRecord k.pos (summaryOf (launchRecord s k))])

/-- The launch of a marked key whose call place is free (R46). -/
theorem createAttempt_free {s : State} {k : Key} (sound : s.pln.damaged = []) (free : callPlaceFree k.pos s = true) :
    createAttempt k s = launched s k := by
  rw [createAttempt]
  dsimp only
  rw [enqueue_free (kind := .originate) rfl .attempt (by exact free)]
  dsimp only
  rw [setLaunchStagger, touch_sound (by exact sound), launched, huntLaunched,
    ← PerPos.set_set s.hnt.records k.pos (some (launchRecord s k))]
  rfl

/-- The entry of a key in attempt (R10), as a publication with generation word `g` and causes `c` leaves it. -/
def markedAs (k : Key) (g : Word) (c : BitVec 13) (s : State) : State :=
  (s.withCtu { s.ctu with
    table := updateInPlace k (fun e => { e with inAttempt := true }) s.ctu.table, mirrorGen := g }).withSmp
      { s.smp with causes := c }

/-- CTU marks the entry of a key that it holds, and publishes (R10, R19). -/
theorem ctuMark_found {s : State} {k : Key} {e : Entry} (found : findEntry s.ctu.table k = some e) :
    ∃ g c, ctuMark k s = (true, markedAs k g c s) := by
  obtain ⟨g, c, published⟩ := publishTable_eq s.ctu.table true (s.withCtu { s.ctu with
    table := updateInPlace k (fun e => { e with inAttempt := true }) s.ctu.table })
  refine ⟨g, c, ?_⟩
  rw [ctuMark, found]
  exact congrArg (Prod.mk true) published

theorem eligibleKey_found {modules : PerPos Module} {plan : Plan} {table : List Entry} {k : Key}
    (h : eligibleKey modules plan table k = true) : ∃ e, findEntry table k = some e := by
  unfold eligibleKey at h
  split at h
  next e found => exact ⟨e, found⟩
  next => cases h

/-- An eligible key of an EMERGENCY hunt is launched: marked, then its attempt created (R46). -/
theorem launchKey_eligible {s : State} {k : Key} (sound : s.pln.damaged = []) (kind : s.hnt.kind = .emergency)
    (eligible : eligibleKey s.mlc.modules s.pln.plan s.ctu.table k = true) (free : callPlaceFree k.pos s = true) :
    ∃ g c, launchKey k s = (true, launched (markedAs k g c s) k) := by
  obtain ⟨e, found⟩ := eligibleKey_found eligible
  obtain ⟨g, c, marked⟩ := ctuMark_found found
  have dialled : noTestDial s = false := by simp [noTestDial, kind]
  refine ⟨g, c, ?_⟩
  rw [launchKey, touchAll_sound sound]
  simp only [dialled, marked]
  exact congrArg (Prod.mk true) (createAttempt_free sound free)

/-- The only key of the set, eligible and with its position free, is the one launched (R46). -/
theorem launchOne_only {s : State} {k : Key} (sound : s.pln.damaged = []) (kind : s.hnt.kind = .emergency)
    (set : s.hnt.set = [k]) (position : freeForLaunch s k.pos = true)
    (eligible : eligibleKey s.mlc.modules s.pln.plan s.ctu.table k = true) (free : callPlaceFree k.pos s = true) :
    ∃ g c, launchOne s = launched (markedAs k g c (emptySet s)) k := by
  obtain ⟨g, c, launch⟩ := launchKey_eligible (s := emptySet s) sound kind eligible free
  have first : firstFree s = some k := by simp [firstFree, set, position]
  have taken : s.withHnt { s.hnt with set := s.hnt.set.erase k } = emptySet s := by
    rw [set, List.erase_cons_head]
    rfl
  have next : launchNext 2 s = launched (markedAs k g c (emptySet s)) k := by
    simp only [launchNext, first, taken, touchAll_sound (s := emptySet s) sound]
    rw [if_pos (by exact eligible), launch]
  refine ⟨g, c, ?_⟩
  rw [← next]
  simp [launchOne, kind, noTestDial, set]

/-! ### The checks around it (R44, R45) -/

/-- With its conditions met the launch check makes that launch, and then finds no key left (R45). -/
theorem launchCheck_only {s : State} {k : Key} (sound : s.pln.damaged = []) (kind : s.hnt.kind = .emergency)
    (round : s.hnt.state = .round) (wait : s.hnt.wakeWait = none) (stagger : s.hnt.stagger = none)
    (set : s.hnt.set = [k]) (position : freeForLaunch s k.pos = true)
    (eligible : eligibleKey s.mlc.modules s.pln.plan s.ctu.table k = true)
    (below : inFlightCount s < effectiveConcurrency s) (free : callPlaceFree k.pos s = true) :
    ∃ g c, launchCheck s = launched (markedAs k g c (emptySet s)) k := by
  obtain ⟨g, c, launch⟩ := launchOne_only sound kind set position eligible free
  have ready : launchOpen s = true := by simp [launchOpen, round, wait, stagger, firstFree, set, position]
  have closed : launchOpen (launched (markedAs k g c (emptySet s)) k) = false := by
    have none : firstFree (launched (markedAs k g c (emptySet s)) k) = none := rfl
    simp [launchOpen, none]
  refine ⟨g, c, ?_⟩
  simp [launchCheck, launchLoop, set, ready, touch_sound sound, below, launch, closed]

/-- With an attempt in flight a round does not end (R44). -/
theorem roundEndCheck_inFlight {s : State} {p : Pos} {a : Attempt} (round : s.hnt.state = .round) (set : s.hnt.set = [])
    (record : s.record p = some a) (flies : inFlight a = true) : roundEndCheck s = s := by
  have still := recordChecks_inFlight (before := s) set record flies
  rwa [recordChecks, if_neg (by simp [round]), huntChecks, launchCheck_emptySet set] at still

theorem huntLaunched_record (s : State) (k : Key) (p : Pos) :
    (huntLaunched s k).records.get p = if p = k.pos then some (launchedRecord s k) else s.record p := PerPos.get_set ..

/-- The launch of the last key of a set is all that the checks do (R44, R45). -/
theorem roundEndCheck_launched {s : State} {k : Key} (round : s.hnt.state = .round) (set : s.hnt.set = []) :
    roundEndCheck (launched s k) = launched s k :=
  roundEndCheck_inFlight (p := k.pos) round set ((huntLaunched_record s k k.pos).trans (if_pos rfl)) rfl

/-- A launch after which CAL has shown the record (R48, R88): the hunt, the link, and the two fields of the context. -/
theorem launched_settles {s : State} {k : Key} (quiet : s.inbox = []) (other : s.cal.ctx.state ≠ .clearing) :
    ∃ t, settled (launched s k) = .next t ∧ t.hnt = huntLaunched s k ∧ t.mlc = linkLaunched s k ∧
      t.cal.ctx.summaries.get k.pos = some (summaryOf (launchRecord s k)) ∧
      t.cal.ctx.attempts = max s.cal.ctx.attempts (launchRecord s k).number ∧ t.cal.ctx.state = s.cal.ctx.state ∧
      t.ctu = s.ctu ∧ t.pln = s.pln ∧ t.wch = s.wch ∧ t.vsw = s.vsw ∧ t.lmu = s.lmu := by
  have told : (launched s k).inbox = [.calRecord k.pos (summaryOf (launchRecord s k))] := congrArg (· ++ _) quiet
  obtain ⟨g, c, run⟩ := settled_shows told (by simp [shows]) (by simp) (Or.inl other)
  exact ⟨_, run, rfl, rfl, (PerPos.get_set ..).trans (if_pos rfl), rfl, rfl, rfl, rfl, rfl, rfl, rfl⟩

/-- Settles O40: at the stagger's end the launch check makes its one launch (`launchCheck_only`), and CAL shows the record
(`launched_settles`). -/
theorem staggerEndLaunches : Obligations.StaggerEndLaunches := by
  intro s k calm kind round wait stagger set position eligible below free other
  obtain ⟨quiet, sound⟩ := (calmPart_iff s).mp calm
  obtain ⟨g, c, launch⟩ := launchCheck_only (s := s.withHnt { s.hnt with stagger := none }) sound kind round wait rfl set
    position eligible below free
  let u := markedAs k g c (emptySet (s.withHnt { s.hnt with stagger := none }))
  have expiry : hntStaggerExpiry s = launched u k := by
    rw [hntStaggerExpiry, if_pos stagger, huntChecks, launch]
    exact roundEndCheck_launched round rfl
  have dial : nextDial u = launchDial s.pln.plan .emergency s.hnt.form :=
    congrArg (fun kind => launchDial s.pln.plan kind s.hnt.form) kind
  obtain ⟨t, run, hunt, link, summary, attempts, state, ctu, pln, rest⟩ := launched_settles (s := u) (k := k) quiet other
  have emergency : (u.hnt.kind == .emergency) = true := beq_iff_eq.mpr kind
  refine ⟨t, (congrArg settled expiry).trans run, ?_, fun p apart => ?_, congrArg Hnt.set hunt, congrArg Hnt.counter hunt,
    congrArg Hnt.stagger hunt, (congrArg Hnt.state hunt).trans round, ?_, congrArg Ctu.table ctu, ?_, attempts, state, pln,
    rest⟩
  · rw [State.record, hunt, huntLaunched_record, if_pos rfl, launchedRecord, launchRecord, dial]
    rfl
  · rw [State.record, hunt, huntLaunched_record, if_neg apart]
    rfl
  · rw [link, linkLaunched, dial, emergency]
    rfl
  · rw [summary, launchRecord, dial]
    rfl

end Sys2Proof.Machine
end

section
/-! PROOFS. An answer after the winner (O43). -/

namespace Sys2Proof.Machine

/-- An answer in WON, with the call place of its position free: the record goes through ANSWERED and waits in RELEASING
as surplus (R58). -/
theorem answerSurplus_free {p : Pos} {a : Attempt} {s : State} (free : callPlaceFree p s = true) :
    answerSurplus p a s = putRecord p
      { a with
        state := .releasing, timer := none, outcome := .surplus, request := some (s.mlc.nextNumber + 1)
        strayOnEnd := false, releaseOnReply := false }
      ((passAnswered p a a.outcome s).withMlc { s.mlc with
        queue := s.mlc.queue ++ [nextRequest s .attempt p .release []], nextNumber := s.mlc.nextNumber + 1 }) :=
  beginRelease_free (s := passAnswered p a a.outcome s) free

/-- Settles O43: the answer is taken by `answerSurplus_free`, a hunt that is WON has no checks to make
(`recordChecks_won`), and CAL shows the record's two changes. -/
theorem answerAfterTheWinnerIsSurplus : Obligations.AnswerAfterTheWinnerIsSurplus := by
  intro s p a calm record sent won free ongoing
  obtain ⟨quiet, _⟩ := (calmPart_iff s).mp calm
  have taken : handle (.hntEvent p .answered) s = answerSurplus p a s := by
    have checked : recordChecks s (answerSurplus p a s) = answerSurplus p a s :=
      recordChecks_won (by rw [answerSurplus_free free]; exact won)
    have answered : takeAnswer p a s = recordChecks s (answerSurplus p a s) := by
      rcases sent with e | e | e <;> simp [takeAnswer, e, won]
    have applied : handle (.hntEvent p .answered) s = takeAnswer p a s := by
      change hntTakeEvent p .answered s = _
      rw [hntTakeEvent, record]
      rfl
    rw [applied, answered, checked]
  rw [answerSurplus_free free] at taken
  have told := congrArg State.inbox taken
  simp only [passAnswered, putRecord, post, State.withRecord, State.withInbox_inbox, State.withHnt_inbox,
    State.withMlc_inbox, quiet, List.nil_append, List.cons_append] at told
  obtain ⟨g, c, run⟩ := drain_shows_all (n := 999) told (by simp [shows]) (by simp)
    (Or.inr ⟨by rw [taken]; exact ongoing, by simp⟩)
  refine ⟨_, (settled_dispatch quiet rfl).trans (congrArg Host.Outcome.next run), ?_, ?_, ?_, ?_, fun q apart => ?_, ?_⟩
  all_goals rw [taken]
  · exact (PerPos.get_set ..).trans (if_pos rfl)
  · rfl
  · rfl
  · exact won
  · exact (PerPos.get_set ..).trans ((if_neg apart).trans ((PerPos.get_set ..).trans (if_neg apart)))
  · exact ⟨shownAll_serving _ _, shownAll_state _ _, rfl, rfl, rfl⟩

end Sys2Proof.Machine
end

section
/-! PROOFS. What the end of a connection and of a hunt leave when a call clears: the tones, the serving connection and the
hunt let go, and the state CLEARING entered (R39, R83). -/

namespace Sys2Proof.Machine

variable {u : State} {p : Pos}

/-! ### VSW lets go without a read of the plan (R109, R112) -/

/-- Of the tones only REASSURE has its cadence from the plan (R113). -/
theorem cadenceFields_of_top {x : ToneSet} {t : Tone} (quiet : x.reassure = false) (top : topTone x = some t) :
    cadenceFields t = [] := by
  cases t with
  | reassure =>
    unfold topTone at top
    split_ifs at top with chime wait ring present
    · cases top
    · cases top
    · cases top
    · exact absurd (present.symm.trans quiet) (by decide)
  | chime => rfl
  | wait => rfl
  | callbackRing => rfl

/-- A tone requested or withdrawn, REASSURE not being requested then: no plan word is read. -/
theorem vswTone_unread {t : Tone} {present : Bool} {s : State} (quiet : (s.vsw.requested.put t present).reassure = false) :
    ∃ v, vswTone t present s = s.withVsw v ∧ v.requested = s.vsw.requested.put t present := by
  unfold vswTone retune
  dsimp only
  split
  next => exact ⟨_, rfl, rfl⟩
  next =>
    split
    next => exact ⟨_, rfl, rfl⟩
    next tone top =>
      rw [cadenceStart, cadenceFields_of_top quiet top]
      exact ⟨_, rfl, rfl⟩

theorem withdrawTones_unread (s : State) : ∃ v, withdrawTones s = s.withVsw v := by
  obtain ⟨v, one, requested⟩ := vswTone_unread (t := .reassure) (present := false) (s := s) rfl
  obtain ⟨w, two, _⟩ := vswTone_unread (t := .chime) (present := false) (s := s.withVsw v)
    (congrArg ToneSet.reassure requested)
  refine ⟨w, ?_⟩
  rw [withdrawTones, one, two]
  rfl

/-- In IDLE, CLEARING and CALLBACK_WAIT the handset is connected to no module (R87). -/
theorem stateAudio_unlinked {x : CallState} (s : State) (away : x = .idle ∨ x = .clearing ∨ x = .callbackWait) :
    ∃ v, stateAudio x s = s.withVsw v ∧ v.conn = .none := by
  obtain ⟨v, tones⟩ := withdrawTones_unread s
  refine ⟨{ v with conn := .none, gapTimer := none, uplinkMute := false, downlinkMute := false }, ?_, rfl⟩
  rcases away with rfl | rfl | rfl <;>
    · simp only [stateAudio, tones]
      rfl

/-! ### The connection is let go (R79, R83) -/

/-- A connection release leaves no serving entry of its key (R11). -/
theorem ctuConnectionRelease_eq (k : Key) (s : State) : ∃ x c,
    ctuConnectionRelease k s = (s.withCtu x).withSmp { s.smp with causes := c } ∧
      ∀ e ∈ x.table, e.key = k → e.serving = false := by
  obtain ⟨g, c, published⟩ := publishTable_eq s.ctu.table true (s.withCtu { s.ctu with
    table := removeIfLost s.mlc.modules k (updateInPlace k (fun e => { e with serving := false }) s.ctu.table) })
  refine ⟨_, c, published, fun e there key => ?_⟩
  have updated : e ∈ updateInPlace k (fun e => { e with serving := false }) s.ctu.table := by
    have there : e ∈ removeIfLost s.mlc.modules k (updateInPlace k (fun e => { e with serving := false }) s.ctu.table) :=
      there
    unfold removeIfLost at there
    split at there
    · exact List.mem_of_mem_filter there
    · exact there
  obtain ⟨y, _, rfl⟩ := List.mem_map.mp updated
  by_cases own : y.key = k
  · simp [own]
  · simp [own] at key

/-- The serving connection let go, with room for its RELEASE: the RELEASE is queued and pending, and no carrier serves. -/
theorem letServingGo_free (serving : servingPos u.cal.ctx.serving = some p) (free : callPlaceFree p u = true) : ∃ x c,
    letServingGo u = (((u.withMlc { u.mlc with
      queue := u.mlc.queue ++ [nextRequest u .calRelease p .release []], nextNumber := u.mlc.nextNumber + 1 }).withCtu
        x).withSmp { u.smp with causes := c }).withCtx
          { u.cal.ctx with releases := u.cal.ctx.releases.set p true, serving := none } ∧
      ∀ k, u.cal.ctx.serving = some (.hunted k) → ∀ e ∈ x.table, e.key = k → e.serving = false := by
  unfold letServingGo
  cases stands : u.cal.ctx.serving with
  | none => simp [stands, servingPos] at serving
  | some y =>
    cases y with
    | hunted k =>
      obtain rfl : k.pos = p := by simpa [stands, servingPos] using serving
      obtain ⟨x, c, released, none⟩ := ctuConnectionRelease_eq k (calRelease k.pos u)
      refine ⟨x, c, ?_, fun k' same => ?_⟩
      · simp only [letGo, released]
        rw [calRelease_free free]
        rfl
      · obtain rfl : k = k' := by simpa using same
        exact none
    | incoming q =>
      obtain rfl : q = p := by simpa [stands, servingPos] using serving
      refine ⟨u.ctu, u.smp.causes, ?_, fun k same => by simp at same⟩
      simp only [letGo]
      rw [calRelease_free free]
      rfl

theorem letServingGo_none (none : u.cal.ctx.serving = none) : letServingGo u = u := by
  rw [letServingGo, none]

/-! ### The hunt is stopped (R39, R40) -/

/-- A hunt has been stopped: IDLE, its set and its backoff gone. -/
structure Stopped (h : Hnt) : Prop where
  state : h.state = .idle
  set : h.set = []
  backoff : h.backoff = none

/-- The hunt's timers stop, and CAL is told of a backoff that ends. -/
theorem stopHuntTimers_eq (s : State) : ∃ h ms, stopHuntTimers s = (s.withHnt h).withInbox (s.inbox ++ ms) ∧
    (ms = [] ∨ ms = [.calBackoff 0]) ∧ h.records = s.hnt.records ∧ h.backoff = none := by
  unfold stopHuntTimers leaveBackoff
  dsimp only
  split
  next => exact ⟨_, [.calBackoff 0], rfl, Or.inr rfl, rfl, rfl⟩
  next rests =>
    refine ⟨{ s.hnt with wakeWait := none, gather := none }, [], ?_, Or.inl rfl, rfl, by simpa using rests⟩
    rw [List.append_nil]
    rfl

/-- A stop, once the records have been released: the timers, the set, and the attempts clear when there is no record. -/
theorem hntStop_released {t : State} (runs : u.hnt.state ≠ .idle) (released : releaseAll u = t) : ∃ h ms,
    hntStop u = (t.withHnt h).withInbox (t.inbox ++ ms ++ if noRecord t then [.calAttemptsClear] else []) ∧
      (ms = [] ∨ ms = [.calBackoff 0]) ∧ h.records = t.hnt.records ∧ Stopped h := by
  obtain ⟨h, ms, stopped, told, records, backoff⟩ := stopHuntTimers_eq t
  have none : noRecord ((stopHuntTimers t).withHnt { (stopHuntTimers t).hnt with set := [], state := .idle }) =
      noRecord t := by
    rw [stopped]
    unfold noRecord
    simp only [State.record, State.withHnt_hnt, State.withInbox_hnt, records]
  refine ⟨{ h with set := [], state := .idle }, ms, ?_, told, records, rfl, rfl, backoff⟩
  rw [hntStop, if_neg runs, released]
  dsimp only
  rw [none, stopped]
  split
  next => rfl
  next =>
    rw [List.append_nil]
    rfl

/-- A stop with no attempt: they are clear at once. -/
theorem hntStop_noRecord (runs : u.hnt.state ≠ .idle) (none : noRecord u = true) : ∃ h ms,
    hntStop u = (u.withHnt h).withInbox (u.inbox ++ ms ++ [.calAttemptsClear]) ∧
      (ms = [] ∨ ms = [.calBackoff 0]) ∧ Stopped h := by
  obtain ⟨h, ms, stopped, told, _, after⟩ :=
    hntStop_released runs (releaseThose_none (record_none_of_noRecord none) positions)
  rw [if_pos none] at stopped
  exact ⟨h, ms, stopped, told, after⟩

/-! ### CLEARING is entered by a CLEAR (R83, R86) -/

/-- The poll interval concerns no role that waits (R143, R154). -/
theorem mlcInterval_pendingRole (s : State) (q : Pos) : ((mlcInterval s).module q).pendingRole = (s.module q).pendingRole := by
  have cap (i : Nat) (m : Module) : (capPoll i m).pendingRole = m.pendingRole := by
    unfold capPoll
    split
    · split <;> rfl
    · rfl
  obtain rfl | rfl | rfl := pos_cases q <;> exact cap _ _

/-- In a state other than IDLE the roles that wait go on waiting (R154). -/
theorem enter_pendingRole {x : CallState} {v : Vsw} (audio : stateAudio x (writeState x u) = (writeState x u).withVsw v)
    (awake : u.wch.doze = false) (other : x ≠ .idle) (q : Pos) :
    ((enter x u).module q).pendingRole = (u.module q).pendingRole := by
  obtain ⟨outs, lamps, _⟩ := bsuCallState_eq ((writeState x u).withVsw v)
  let z := ((writeState x u).withVsw v).withBsu { u.bsu with outs := outs }
  have polls : mlcCallState z = mlcInterval z := if_neg other
  have watch := wchCallState_awake (s := mlcInterval z) awake fun idle => absurd idle other
  have whole : enter x u = wchCallState (mlcCallState z) := by
    rw [enter, audio, tellState, lamps]
    rfl
  rw [whole, polls, watch]
  exact mlcInterval_pendingRole z q

/-- CAL's record with the hook mask and the callback window at an end (R73, R86). -/
def timersStopped (c : Cal) : Cal :=
  { c with callbackTimer := none, mask := none, ctx := { c.ctx with flags := { c.ctx.flags with masked := false } } }

/-- CAL's record on the entry to CLEARING by a CLEAR (R83, R86). -/
def clearingCal (c : Cal) : Cal :=
  { c with
    destination := false, held7 := stateFlags .clearing
    ctx := { c.ctx with lastEnd := .hostCleared, flags := { c.ctx.flags with clearDeferred := false }, state := .clearing } }

/-- A CLEAR that acts outside LOCATING: the connection let go, the hunt stopped, and CLEARING entered. -/
theorem clearActs_entered (elsewhere : u.cal.ctx.state ≠ .locating) {w : State}
    (stopped : stopHunt (letServingGo (u.withCal (timersStopped u.cal))) = w) (awake : w.wch.doze = false) :
    ∃ v outs modules, clearActs u = entered .clearing (clearingCal w.cal) v outs modules w ∧ v.conn = .none ∧
      (∀ q, (modules.get q).pendingRole = (w.module q).pendingRole) ∧ LampsOf .clearing w outs := by
  let z := w.withCal { w.cal with
    destination := false
    ctx := { w.cal.ctx with lastEnd := .hostCleared, flags := { w.cal.ctx.flags with clearDeferred := false } } }
  obtain ⟨v, audio, unlinked⟩ := stateAudio_unlinked (x := .clearing) (writeState .clearing z) (Or.inr (Or.inl rfl))
  obtain ⟨outs, modules, entry, lamps⟩ := enter_entered (u := z) audio awake
    (fun h => absurd h (by decide)) (fun h => absurd h (by decide))
  have acts : clearActs u = enter .clearing z := by
    rw [clearActs, enterClearing]
    dsimp only
    rw [if_neg (by exact elsewhere)]
    have same : stopHunt (letServingGo (stopMask (stopCallbackTimer u))) = w := stopped
    rw [same]
    rfl
  refine ⟨v, outs, modules, acts.trans entry, unlinked, fun q => ?_, lamps⟩
  have roles := enter_pendingRole audio awake (by decide) q
  rw [entry] at roles
  exact roles

end Sys2Proof.Machine
end

section
/-! PROOFS. A CLEAR order in every state of the call (R39, R83, R86; O30). -/

namespace Sys2Proof.Machine

variable {s u : State} {k : Fin 8}

/-! ### The order reaches CAL (R86) -/

theorem exec_clearOrder (ready : orderReady s k 2 = true) :
    exec .clearOrder s = settled (calEvent (takeClear (nextHeld s k)) (takeSlot k s).2) := by
  change settled (takeOrder 2 ownerClear s) = _
  rw [takeOrder_ready ownerClear ready]
  rfl

/-- An event that changes neither the context nor the flags is not published (R89, R90). -/
theorem publishCall_of_same {before : Cal} (ctx : u.cal.ctx = before.ctx) (held7 : u.cal.held7 = before.held7) :
    publishCall before u = u := if_pos ⟨ctx, held7⟩

theorem complete_cal (h : Held) (o : OrderOutcome) (d : Word) (s : State) : (complete h o d s).cal = s.cal := by
  obtain ⟨x, y, e⟩ := completeIfHeld_eq (some h) o d s
  have whole : complete h o d s = (s.withOrd x).withSmp y := e
  rw [whole]
  rfl

/-- In IDLE there is nothing to clear. -/
theorem clearOrder_idle (quiet : s.inbox = []) (wf : Memory.wf s.smp.mem = true) (ready : orderReady s k 2 = true)
    (state : s.cal.ctx.state = .idle) :
    ∃ t, exec .clearOrder s = .next t ∧ TurnedAway s t k .nothingToClear s.cal.ctx.sequence := by
  have effect : takeClear (nextHeld s k) (takeSlot k s).2 =
      complete (nextHeld s k) .nothingToClear s.cal.ctx.sequence (takeSlot k s).2 := by
    have here : (takeSlot k s).2.cal.ctx.state = .idle := state
    rw [takeClear, here]
    rfl
  have cal : (takeClear (nextHeld s k) (takeSlot k s).2).cal = s.cal := by
    rw [effect, complete_cal]
    rfl
  have unpublished : publishCall (takeSlot k s).2.cal (takeClear (nextHeld s k) (takeSlot k s).2) =
      takeClear (nextHeld s k) (takeSlot k s).2 :=
    publishCall_of_same (congrArg Cal.ctx cal) (congrArg Cal.held7 cal)
  rw [exec_clearOrder ready, calEvent_other (by rw [cal, state]; decide), unpublished]
  exact turnedAway_settled wf quiet effect

/-- In LOCATING the CLEAR is deferred. -/
theorem clearOrder_locating (quiet : s.inbox = []) (ready : orderReady s k 2 = true)
    (state : s.cal.ctx.state = .locating) : ∃ g c, exec .clearOrder s =
      .next (((takeSlot k s).2.withCal { s.cal with
        clear := some (nextHeld s k), fileGen := g
        ctx := { s.cal.ctx with flags := { s.cal.ctx.flags with clearDeferred := true } } }).withSmp
          { (takeSlot k s).2.smp with causes := c }) := by
  have here : (takeSlot k s).2.cal.ctx.state = .locating := state
  have effect : takeClear (nextHeld s k) (takeSlot k s).2 = (takeSlot k s).2.withCal { s.cal with
      clear := some (nextHeld s k)
      ctx := { s.cal.ctx with flags := { s.cal.ctx.flags with clearDeferred := true } } } := by
    rw [takeClear, here]
    rfl
  obtain ⟨g, c, taken⟩ := calEvent_eq (f := takeClear (nextHeld s k)) (s := (takeSlot k s).2)
    (clearingOver_of_state (by rw [effect]; exact fun e => CallState.noConfusion (state.symm.trans e)))
  refine ⟨g, c, ?_⟩
  rw [exec_clearOrder ready, taken, effect]
  exact settled_of_inbox ((takeSlot_inbox k s).trans quiet)

/-- In CLEARING the order joins the clearing. -/
theorem clearOrder_clearing (quiet : s.inbox = []) (ready : orderReady s k 2 = true)
    (state : s.cal.ctx.state = .clearing) (ongoing : clearingOver s = false) : exec .clearOrder s =
      .next ((takeSlot k s).2.withCal { s.cal with clear := some (nextHeld s k), destination := false }) := by
  have here : (takeSlot k s).2.cal.ctx.state = .clearing := state
  have effect : takeClear (nextHeld s k) (takeSlot k s).2 =
      (takeSlot k s).2.withCal { s.cal with clear := some (nextHeld s k), destination := false } := by
    rw [takeClear, here]
    rfl
  have goesOn : clearingOver (takeClear (nextHeld s k) (takeSlot k s).2) = false := by
    rw [effect]
    exact ongoing
  have event : calEvent (takeClear (nextHeld s k)) (takeSlot k s).2 = takeClear (nextHeld s k) (takeSlot k s).2 := by
    rw [calEvent, clearingCheck, if_neg (by rw [goesOn]; decide)]
    exact publishCall_of_same (by rw [effect]; rfl) (by rw [effect]; rfl)
  rw [exec_clearOrder ready, event, effect]
  exact settled_of_inbox ((takeSlot_inbox k s).trans quiet)

/-! ### The states in which the CLEAR acts (R83, R86) -/

/-- The state in which an accepted CLEAR acts, its hook mask and callback timer stopped. -/
def clearStarts (k : Fin 8) (s : State) : State :=
  (takeSlot k s).2.withCal (timersStopped { s.cal with clear := some (nextHeld s k) })

/-- In the other states the CLEAR acts: the call enters CLEARING. -/
theorem takeClear_entered {w : State} (elsewhere : s.cal.ctx.state = .hunting ∨ s.cal.ctx.state = .reestablishing ∨
      s.cal.ctx.state = .talk ∨ s.cal.ctx.state = .callbackWait) (flags : flagsSound s = true)
    (stopped : stopHunt (letServingGo (clearStarts k s)) = w) (awake : w.wch.doze = false) :
    ∃ v outs modules, takeClear (nextHeld s k) (takeSlot k s).2 = entered .clearing (clearingCal w.cal) v outs modules w ∧
      v.conn = .none ∧ (∀ q, (modules.get q).pendingRole = (w.module q).pendingRole) ∧ LampsOf .clearing w outs := by
  let u := (takeSlot k s).2.withCal { s.cal with clear := some (nextHeld s k) }
  have acts : takeClear (nextHeld s k) (takeSlot k s).2 = clearActs u := by
    have run : transition none clearActs u = clearActs u := transition_sound flags
    have same : (takeSlot k s).2.cal.ctx.state = s.cal.ctx.state := rfl
    rw [takeClear, same]
    rcases elsewhere with e | e | e | e <;> rw [e] <;> exact run
  have notLocating : u.cal.ctx.state ≠ .locating := by
    have same : u.cal.ctx.state = s.cal.ctx.state := rfl
    rw [same]
    rcases elsewhere with e | e | e | e <;> rw [e] <;> decide
  rw [acts]
  exact clearActs_entered notLocating stopped awake

/-- The call in CLEARING, published. -/
def clearingShown (g : Word) (c : BitVec 13) (v : Vsw) (outs : PerOut OutputState) (modules : PerPos Module) (w : State) :
    State :=
  (entered .clearing { clearingCal w.cal with fileGen := g } v outs modules w).withSmp { w.smp with causes := c }

theorem clearingShown_inbox (g : Word) (c : BitVec 13) (v : Vsw) (outs : PerOut OutputState) (modules : PerPos Module)
    (w : State) : (clearingShown g c v outs modules w).inbox = w.inbox := by
  simp [clearingShown, entered]

/-- A call in CLEARING whose hunt is still stopping, or that waits for a RELEASE, is published so. -/
theorem clearEvent_ongoing {w : State} {v : Vsw} {outs : PerOut OutputState} {modules : PerPos Module}
    (effect : takeClear (nextHeld s k) (takeSlot k s).2 = entered .clearing (clearingCal w.cal) v outs modules w)
    (ongoing : w.cal.ctx.releases ≠ PerPos.all false ∨ w.cal.ctx.huntLink ≠ .none) :
    ∃ g c, calEvent (takeClear (nextHeld s k)) (takeSlot k s).2 = clearingShown g c v outs modules w := by
  have goesOn : clearingOver (entered .clearing (clearingCal w.cal) v outs modules w) = false := by
    rcases ongoing with pending | link
    · exact clearingOver_of_pending pending
    · simp [clearingOver, entered, clearingCal, link]
  obtain ⟨g, c, taken⟩ := calEvent_eq (f := takeClear (nextHeld s k)) (s := (takeSlot k s).2) (by rw [effect]; exact goesOn)
  refine ⟨g, c, ?_⟩
  rw [taken, effect]
  rfl

/-! ### The attempts clear, in CLEARING (R39, R83, R88) -/

/-- CAL has shown a backoff's end, or nothing, before it takes the attempts clear. -/
def backoffShown (b : Nat) (g : Word) (c : BitVec 13) (s : State) : State :=
  ((s.withCal { s.cal with ctx := { s.cal.ctx with backoff := b }, fileGen := g }).withSmp
    { s.smp with causes := c }).withInbox []

/-- A stop's last word is that the attempts are clear: CAL takes it, and the command is settled. -/
theorem settled_attemptsClear {ms : List Msg} (inbox : u.inbox = ms ++ [.calAttemptsClear])
    (told : ms = [] ∨ ms = [.calBackoff 0]) (ongoing : clearingOver u = false) : ∃ b g c,
      (handle .calAttemptsClear (backoffShown b g c u)).inbox = [] →
        settled u = .next (handle .calAttemptsClear (backoffShown b g c u)) := by
  obtain ⟨n, enough⟩ : ∃ n, 1000 = ms.length + (n + 1) := by
    rcases told with rfl | rfl
    · exact ⟨999, rfl⟩
    · exact ⟨998, rfl⟩
  obtain ⟨g, c, shown'⟩ := drain_shows (n + 1) ms [.calAttemptsClear] inbox
    (by rcases told with rfl | rfl <;> simp [shows]) (Or.inr ⟨ongoing, by rcases told with rfl | rfl <;> simp⟩)
  obtain ⟨b, context⟩ : ∃ b, ms.foldl shown u.cal.ctx = { u.cal.ctx with backoff := b } := by
    rcases told with rfl | rfl
    · exact ⟨u.cal.ctx.backoff, rfl⟩
    · exact ⟨0, rfl⟩
  refine ⟨b, g, c, fun after => congrArg Host.Outcome.next ?_⟩
  rw [context] at shown'
  change drain 1000 u = _
  have taken : drainOne .calAttemptsClear [] ((backoffShown b g c u).withInbox [.calAttemptsClear]) =
      (handle .calAttemptsClear (backoffShown b g c u)).withInbox [] :=
    drainOne_of_quiet (s := (backoffShown b g c u).withInbox [.calAttemptsClear]) after
  rw [enough, shown', drain_cons n rfl]
  change drain n (drainOne .calAttemptsClear [] ((backoffShown b g c u).withInbox [.calAttemptsClear])) = _
  have same : (handle .calAttemptsClear (backoffShown b g c u)).withInbox [] =
      handle .calAttemptsClear (backoffShown b g c u) := by
    rw [← after]
    rfl
  rw [taken, drain_of_inbox rfl, same]

/-! ### In TALK (R83) -/

/-- The call in CLEARING with no hunt, `z` being the state in which the connection has been let go. -/
def clearingAlone (b : Nat) (g : Word) (c : BitVec 13) (h : Hnt) (v : Vsw) (outs : PerOut OutputState)
    (modules : PerPos Module) (z : State) : State :=
  (entered .clearing { clearingCal z.cal with
    fileGen := g, ctx := { (clearingCal z.cal).ctx with backoff := b, huntLink := .none } } v outs modules
      (z.withHnt h)).withSmp { z.smp with causes := c }

theorem clearingAlone_of_rests {g : Word} {c : BitVec 13} {v : Vsw} {outs : PerOut OutputState} {modules : PerPos Module}
    {z : State} (rests : z.cal.ctx.huntLink = .none) :
    clearingAlone z.cal.ctx.backoff g c z.hnt v outs modules z = clearingShown g c v outs modules z := by
  rw [clearingAlone, clearingShown, ← rests]
  rfl

theorem stopHunt_rests (rests : u.cal.ctx.huntLink ≠ .active) : stopHunt u = u := if_neg rests

/-- A hunt without a record, stopped by CAL. -/
def huntStopped (h : Hnt) (ms : List Msg) (u : State) : State :=
  ((u.withCtx { u.cal.ctx with huntLink := .stopping }).withHnt h).withInbox (u.inbox ++ ms ++ [.calAttemptsClear])

/-- The stop of a hunt that has no record: its attempts are clear. -/
theorem stopHunt_noRecord (active : u.cal.ctx.huntLink = .active) (runs : u.hnt.state ≠ .idle) (none : noRecord u = true) :
    ∃ h ms, stopHunt u = huntStopped h ms u ∧
      (ms = [] ∨ ms = [.calBackoff 0]) ∧ Stopped h := by
  have stop : stopHunt u = hntStop (u.withCtx { u.cal.ctx with huntLink := .stopping }) := if_pos active
  rw [stop]
  exact hntStop_noRecord (u := u.withCtx { u.cal.ctx with huntLink := .stopping }) runs none

/-- The attempts are clear while a RELEASE is pending: the clearing goes on without the hunt. -/
theorem attemptsClear_pending (pending : u.cal.ctx.releases ≠ PerPos.all false) (link : u.cal.ctx.huntLink = .stopping) :
    ∃ g c, handle .calAttemptsClear u =
      (u.withCal { u.cal with ctx := { u.cal.ctx with huntLink := .none }, fileGen := g }).withSmp
        { u.smp with causes := c } := by
  have effect : takeAttemptsClear u = u.withCtx { u.cal.ctx with huntLink := .none } := if_pos link
  obtain ⟨g, c, taken⟩ := calEvent_eq (f := takeAttemptsClear) (s := u)
    (clearingOver_of_pending (by rw [effect]; exact pending))
  refine ⟨g, c, ?_⟩
  change calEvent takeAttemptsClear u = _
  rw [taken, effect]
  rfl

/-- A stop's last word taken while a RELEASE is pending. -/
theorem settled_attemptsClear_pending {ms : List Msg} (inbox : u.inbox = ms ++ [.calAttemptsClear])
    (told : ms = [] ∨ ms = [.calBackoff 0]) (pending : u.cal.ctx.releases ≠ PerPos.all false)
    (link : u.cal.ctx.huntLink = .stopping) : ∃ b g c, settled u =
      .next (((u.withCal { u.cal with ctx := { u.cal.ctx with backoff := b, huntLink := .none }, fileGen := g }).withSmp
        { u.smp with causes := c }).withInbox []) := by
  obtain ⟨b, g, c, settles⟩ := settled_attemptsClear inbox told (clearingOver_of_pending pending)
  obtain ⟨g', c', clear⟩ := attemptsClear_pending (u := backoffShown b g c u) pending link
  rw [clear] at settles
  exact ⟨b, g', c', settles rfl⟩

/-- A CLEAR while a RELEASE of CAL's is pending and the hunt has nothing to release. -/
theorem clearOrder_pending {z : State} (ready : orderReady s k 2 = true) (state : s.cal.ctx.state = .talk)
    (flags : flagsSound s = true) (gone : letServingGo (clearStarts k s) = z) (quiet : z.inbox = [])
    (awake : z.wch.doze = false) (pending : z.cal.ctx.releases ≠ PerPos.all false) (hunt : huntSettled z = true) :
    ∃ b g c h v outs modules, exec .clearOrder s = .next (clearingAlone b g c h v outs modules z) ∧ v.conn = .none ∧
      LampsOf .clearing z outs ∧ (z.cal.ctx.huntLink = .active → h.state = .idle) ∧
      (z.cal.ctx.huntLink = .none → h = z.hnt) := by
  have elsewhere : s.cal.ctx.state = .hunting ∨ s.cal.ctx.state = .reestablishing ∨ s.cal.ctx.state = .talk ∨
      s.cal.ctx.state = .callbackWait := Or.inr (Or.inr (Or.inl state))
  simp only [huntSettled, Bool.or_eq_true, Bool.and_eq_true, beq_iff_eq] at hunt
  rcases hunt with rests | ⟨⟨active, won⟩, none⟩
  · have stopped : stopHunt (letServingGo (clearStarts k s)) = z := by
      rw [gone, stopHunt_rests (by rw [rests]; decide)]
    obtain ⟨v, outs, modules, effect, unlinked, _, lamps⟩ := takeClear_entered elsewhere flags stopped awake
    obtain ⟨g, c, event⟩ := clearEvent_ongoing effect (Or.inl pending)
    refine ⟨z.cal.ctx.backoff, g, c, z.hnt, v, outs, modules, ?_, unlinked, lamps,
      fun active => absurd (rests.symm.trans active) (by decide), fun _ => rfl⟩
    rw [exec_clearOrder ready, event, clearingAlone_of_rests rests]
    exact settled_of_inbox ((clearingShown_inbox g c v outs modules z).trans quiet)
  · obtain ⟨h, ms, stop, told, idle⟩ := stopHunt_noRecord active (by rw [won]; decide) none
    have stopped := (congrArg stopHunt gone).trans stop
    obtain ⟨v, outs, modules, effect, unlinked, _, lamps⟩ := takeClear_entered elsewhere flags stopped awake
    obtain ⟨g, c, event⟩ := clearEvent_ongoing effect (Or.inl pending)
    have inbox : (clearingShown g c v outs modules (huntStopped h ms z)).inbox = ms ++ [.calAttemptsClear] :=
      (clearingShown_inbox _ _ _ _ _ _).trans (congrArg (· ++ ms ++ [Msg.calAttemptsClear]) quiet)
    obtain ⟨b, g', c', settles⟩ := settled_attemptsClear_pending inbox told pending rfl
    refine ⟨b, g', c', h, v, outs, modules, ?_, unlinked, lamps, fun _ => idle.state,
      fun rests => absurd (rests.symm.trans active) (by decide)⟩
    rw [exec_clearOrder ready, event, settles, ← quiet]
    rfl

end Sys2Proof.Machine
end

section
/-! PROOFS. The connection let go on a CLEAR in TALK (R83; O30). -/

namespace Sys2Proof.Machine

variable {s u : State} {k : Fin 8} {p : Pos}

theorem releases_set_pending (x : PerPos Bool) (p : Pos) : x.set p true ≠ PerPos.all false := by
  intro none
  have held : (x.set p true).get p = true := (PerPos.get_set _ _ _ _).trans (if_pos rfl)
  rw [none] at held
  obtain rfl | rfl | rfl := pos_cases p <;> cases held

/-- What a call that clears without a hunt keeps of the state in which the connection has been let go. -/
theorem clearingAlone_keeps (b : Nat) (g : Word) (c : BitVec 13) (h : Hnt) (v : Vsw) (outs : PerOut OutputState)
    (modules : PerPos Module) (z : State) :
    (clearingAlone b g c h v outs modules z).ord = z.ord ∧ (clearingAlone b g c h v outs modules z).smp.mem = z.smp.mem ∧
    (clearingAlone b g c h v outs modules z).ctu = z.ctu ∧ (clearingAlone b g c h v outs modules z).mlc.queue = z.mlc.queue ∧
    (clearingAlone b g c h v outs modules z).hnt = h ∧ (clearingAlone b g c h v outs modules z).bsu.outs = outs := by
  simp [clearingAlone, entered]

theorem clearStarts_cal : (clearStarts k s).cal = timersStopped { s.cal with clear := some (nextHeld s k) } := rfl

/-- What a CLEAR leaves unchanged when it begins to act. -/
theorem clearStarts_keeps : (clearStarts k s).ord = (takeSlot k s).2.ord ∧
    (clearStarts k s).smp.mem = (takeSlot k s).2.smp.mem ∧ (clearStarts k s).inbox = s.inbox ∧
    (clearStarts k s).wch = s.wch ∧ (clearStarts k s).hnt = s.hnt ∧ (clearStarts k s).bsu = s.bsu ∧
    (clearStarts k s).mlc = s.mlc ∧ (clearStarts k s).clock = s.clock ∧ (clearStarts k s).ctu = s.ctu ∧
    (clearStarts k s).pln = s.pln := ⟨rfl, rfl, rfl, rfl, rfl, rfl, rfl, rfl, rfl, rfl⟩

/-- The connection has been let go on a CLEAR. -/
structure LetGo (k : Fin 8) (p : Pos) (s z : State) : Prop where
  gone : letServingGo (clearStarts k s) = z
  host : SameHost (takeSlot k s).2 z
  quiet : z.inbox = s.inbox
  awake : z.wch = s.wch
  hnt : z.hnt = s.hnt
  bsu : z.bsu = s.bsu
  queue : z.mlc.queue = s.mlc.queue ++ [nextRequest s .calRelease p .release []]
  cal : z.cal = { timersStopped { s.cal with clear := some (nextHeld s k) } with
    ctx := { (timersStopped s.cal).ctx with releases := s.cal.ctx.releases.set p true, serving := none } }
  carrier : ∀ k, s.cal.ctx.serving = some (.hunted k) → ∀ e ∈ z.ctu.table, e.key = k → e.serving = false

theorem letGo_of_serving (serving : servingPos s.cal.ctx.serving = some p) (free : callPlaceFree p s = true) :
    ∃ z, LetGo k p s z := by
  obtain ⟨x, c, gone, carriers⟩ := letServingGo_free (u := clearStarts k s) serving free
  obtain ⟨ord, mem, inbox, wch, hnt, bsu, mlc, _⟩ := clearStarts_keeps (k := k) (s := s)
  refine ⟨_, gone, ⟨?_, ?_⟩, ?_, ?_, ?_, ?_, ?_, ?_, carriers⟩
  case refine_8 =>
    simp only [State.withCtx, State.withCal_cal, State.withSmp_cal, State.withCtu_cal, State.withMlc_cal, clearStarts_cal,
      timersStopped]
  all_goals simp [State.withCtx, nextRequest, ord, mem, inbox, wch, hnt, bsu, mlc]

theorem clearOrder_talk (quiet : s.inbox = []) (wf : Memory.wf s.smp.mem = true) (ready : orderReady s k 2 = true)
    (state : s.cal.ctx.state = .talk) (serving : servingPos s.cal.ctx.serving = some p) (hunt : huntSettled s = true)
    (awake : s.wch.doze = false) (flags : flagsSound s = true) (free : callPlaceFree p s = true) :
    ∃ t, exec .clearOrder s = .next t ∧ SlotTaken s t k 2 ∧ t.cal.clear = some (nextHeld s k) ∧
      Clearing s t p .hostCleared false := by
  obtain ⟨z, z_gone⟩ := letGo_of_serving (k := k) serving free
  have link : z.cal.ctx.huntLink = s.cal.ctx.huntLink := by rw [z_gone.cal]; rfl
  have releases : z.cal.ctx.releases = s.cal.ctx.releases.set p true := by rw [z_gone.cal]
  have settled : huntSettled z = huntSettled s := by
    simp only [huntSettled, link, z_gone.hnt, noRecord, State.record]
  obtain ⟨b, g, c', h, v, outs, modules, run, unlinked, lamps, stopped, kept⟩ := clearOrder_pending ready state flags
    z_gone.gone (z_gone.quiet.trans quiet) (by rw [z_gone.awake, awake]) (by rw [releases]; exact releases_set_pending _ p)
    (settled.trans hunt)
  obtain ⟨ord, mem, ctu, queue, hnt, same⟩ := clearingAlone_keeps b g c' h v outs modules z
  have clear : (clearingAlone b g c' h v outs modules z).cal.clear = z.cal.clear := rfl
  have mask : (clearingAlone b g c' h v outs modules z).cal.mask = z.cal.mask := rfl
  refine ⟨_, run, SameHost.slotTaken (z_gone.host.trans ⟨ord, mem⟩) wf ready, clear.trans (by rw [z_gone.cal]; rfl), ?_⟩
  have lampsAre : LampsOf .clearing z (clearingAlone b g c' h v outs modules z).bsu.outs := by
    rw [same]
    exact lamps
  have onward : (clearingAlone b g c' h v outs modules z).cal.ctx.releases = z.cal.ctx.releases := rfl
  have served : (clearingAlone b g c' h v outs modules z).cal.ctx.serving = z.cal.ctx.serving := rfl
  exact {
    state := rfl, lastEnd := rfl, destination := rfl, link := rfl, voice := unlinked
    serving := served.trans (by rw [z_gone.cal])
    releases := onward.trans releases
    queue := queue.trans z_gone.queue
    lamps := lampsAre.follow z_gone.bsu
    mask := mask.trans (by rw [z_gone.cal]; rfl)
    hunt := fun active => by rw [hnt]; exact stopped (link.trans active)
    noHunt := fun none => by rw [hnt, kept (link.trans none), z_gone.hnt]
    carrier := fun k' hunted => by rw [ctu]; exact z_gone.carrier k' hunted }

end Sys2Proof.Machine
end

section
/-! PROOFS. A CLEAR in a hunt with one attempt (R39, R83; O30). -/

namespace Sys2Proof.Machine

variable {s u w : State} {k : Fin 8} {p : Pos} {a : Attempt}

/-! ### The stop of a hunt with one attempt (R39) -/

/-- A fold over the three positions in which one alone does something. -/
theorem foldl_positions_only {f : State → Pos → State} (before : ∀ q, q ≠ p → f u q = u) (step : f u p = w)
    (after : ∀ q, q ≠ p → f w q = w) : positions.foldl f u = w := by
  obtain rfl | rfl | rfl := pos_cases p
  · change f (f (f u 0) 1) 2 = w
    rw [step, after 1 (by decide), after 2 (by decide)]
  · change f (f (f u 0) 1) 2 = w
    rw [before 0 (by decide), step, after 2 (by decide)]
  · change f (f (f u 0) 1) 2 = w
    rw [before 0 (by decide), before 1 (by decide), step]

/-- The release of all the records, when there is one and it is past QUEUED. -/
theorem releaseAll_single (record : u.record p = some a) (others : ∀ q, q ≠ p → u.record q = none)
    (sent : a.state ≠ .queued) (released : releaseSent p u = w) (kept : ∀ q, q ≠ p → w.record q = none) :
    releaseAll u = w := by
  have withdrawn : positions.foldl (fun s p => withdrawQueued p s) u = u :=
    foldl_positions_only (p := p) (fun q other => by simp only [withdrawQueued, others q other])
      (by simp only [withdrawQueued, record, sent, if_false])
      fun q other => by simp only [withdrawQueued, others q other]
  rw [releaseAll, releaseThose, withdrawn]
  exact foldl_positions_only (p := p) (fun q other => by simp only [releaseSent, others q other]) released
    fun q other => by simp only [releaseSent, kept q other]

/-- A report of the hunt that CAL shows and that does not end the hunt link. -/
def plainReport (m : Msg) : Prop := shows m = true ∧ m ≠ .calAttemptsClear

/-- The one record of a hunt waits for its RELEASE, sent before or queued now. -/
structure OneReleased (p : Pos) (a : Attempt) (u w : State) : Prop where
  shape : ∃ m h rs, w = ((u.withMlc m).withHnt h).withInbox (u.inbox ++ rs) ∧ rs.length ≤ 1 ∧ ∀ m ∈ rs, plainReport m
  record : ∃ b, w.record p = some b ∧ b.state = .releasing ∧ (a.state ≠ .releasing → b.outcome = .surplus ∧
    w.mlc.queue = u.mlc.queue ++ [nextRequest u .attempt p .release []])

theorem releaseAll_one (record : u.record p = some a) (others : ∀ q, q ≠ p → u.record q = none)
    (state : a.state = .releasing ∨
      ((a.state = .sent ∨ a.state = .proceeding ∨ a.state = .alerting) ∧ callPlaceFree p u = true)) :
    OneReleased p a u (releaseAll u) := by
  rcases state with releasing | ⟨sent, free⟩
  · have released : releaseSent p u = u := by
      simp only [releaseSent, record, connecting, releasing]
      rfl
    rw [releaseAll_single record others (by rw [releasing]; decide) released others]
    exact ⟨⟨u.mlc, u.hnt, [], by rw [List.append_nil]; rfl, Nat.zero_le 1, by simp⟩, a, record, releasing,
      fun other => absurd releasing other⟩
  · have released : releaseSent p u = beginRelease p a .surplus u := by
      simp only [releaseSent, record, connecting_of sent, if_true]
    rw [beginRelease_free free] at released
    rw [releaseAll_single record others (by rcases sent with e | e | e <;> rw [e] <;> decide) released fun q other => ?_]
    · refine ⟨⟨_, _, _, rfl, le_refl 1, by simp [plainReport, shows]⟩,
        { releasing a .surplus with
          request := some (u.mlc.nextNumber + 1), strayOnEnd := false, releaseOnReply := false },
        ?_, rfl, fun _ => ⟨rfl, rfl⟩⟩
      change ((u.withMlc _).withRecord p _).record p = _
      rw [record_withRecord, if_pos rfl]
    · change ((u.withMlc _).withRecord p _).record q = _
      rw [record_withRecord, if_neg other]
      exact others q other

/-- Such reports move the fields of the hunt alone. -/
theorem foldl_shown_plain {ms : List Msg} (plain : ∀ m ∈ ms, plainReport m) (x : Context) : ∃ n r b y,
    ms.foldl shown x = { x with attempts := n, rounds := r, backoff := b, summaries := y } := by
  induction ms generalizing x with
  | nil => exact ⟨x.attempts, x.rounds, x.backoff, x.summaries, rfl⟩
  | cons m ms ih =>
    obtain ⟨⟨shows', notClear⟩, others⟩ := List.forall_mem_cons.mp plain
    obtain ⟨n, r, b, y, rec⟩ := ih others (shown x m)
    refine ⟨n, r, b, y, rec.trans ?_⟩
    cases m with
    | calAttemptsClear => exact absurd rfl notClear
    | calHuntStarted => rfl
    | calRounds _ => rfl
    | calRecord _ _ => rfl
    | calRecordEnd _ => rfl
    | calBackoff _ => rfl
    | _ => cases shows'

/-- What a call in CLEARING keeps of the state in which its hunt has been stopped. -/
theorem clearingShown_keeps (g : Word) (c : BitVec 13) (v : Vsw) (outs : PerOut OutputState) (modules : PerPos Module)
    (w : State) :
    (clearingShown g c v outs modules w).ord = w.ord ∧ (clearingShown g c v outs modules w).smp.mem = w.smp.mem ∧
    (clearingShown g c v outs modules w).hnt = w.hnt ∧ (clearingShown g c v outs modules w).mlc.queue = w.mlc.queue ∧
    (clearingShown g c v outs modules w).vsw = v := by
  simp [clearingShown, entered]

theorem clearingShown_ongoing {g : Word} {c : BitVec 13} {v : Vsw} {outs : PerOut OutputState} {modules : PerPos Module}
    (link : w.cal.ctx.huntLink ≠ .none) : clearingOver (clearingShown g c v outs modules w) = false := by
  simp [clearingOver, clearingShown, entered, clearingCal, link]

/-- A CLEAR whose stopped hunt only reports: the call is in CLEARING with the hunt link STOPPING. -/
structure HuntStopping (w t : State) : Prop where
  host : SameHost w t
  state : t.cal.ctx.state = .clearing
  lastEnd : t.cal.ctx.lastEnd = .hostCleared
  link : t.cal.ctx.huntLink = .stopping
  destination : t.cal.destination = false
  clear : t.cal.clear = w.cal.clear
  hnt : t.hnt = w.hnt
  queue : t.mlc.queue = w.mlc.queue
  voice : t.vsw.conn = .none

theorem clearOrder_stopping {ms : List Msg} (ready : orderReady s k 2 = true)
    (state : s.cal.ctx.state = .hunting ∨ s.cal.ctx.state = .reestablishing) (flags : flagsSound s = true)
    (stopped : stopHunt (letServingGo (clearStarts k s)) = w) (awake : w.wch.doze = false)
    (link : w.cal.ctx.huntLink = .stopping) (inbox : w.inbox = ms) (plain : ∀ m ∈ ms, plainReport m)
    (short : ms.length ≤ 1000) : ∃ t, exec .clearOrder s = .next t ∧ HuntStopping w t := by
  have running : w.cal.ctx.huntLink ≠ .none := by rw [link]; decide
  obtain ⟨v, outs, modules, effect, unlinked, _, _⟩ :=
    takeClear_entered (state.elim Or.inl fun e => Or.inr (Or.inl e)) flags stopped awake
  obtain ⟨g, c, event⟩ := clearEvent_ongoing effect (Or.inr running)
  obtain ⟨g', c', settles⟩ := settled_shows ((clearingShown_inbox g c v outs modules w).trans inbox)
    (fun m there => (plain m there).1) short
    (Or.inr ⟨clearingShown_ongoing running, fun there => (plain _ there).2 rfl⟩)
  obtain ⟨n, r, b, y, context⟩ := foldl_shown_plain plain (clearingShown g c v outs modules w).cal.ctx
  rw [context] at settles
  obtain ⟨ord, mem, hnt, queue, vsw⟩ := clearingShown_keeps g c v outs modules w
  refine ⟨_, (exec_clearOrder ready).trans ((congrArg settled event).trans settles), ?_⟩
  have cal : (clearingShown g c v outs modules w).cal = { clearingCal w.cal with fileGen := g } := rfl
  generalize clearingShown g c v outs modules w = x at *
  exact {
    host := ⟨ord, mem⟩, hnt := hnt, queue := queue
    state := by simp [cal, clearingCal]
    lastEnd := by simp [cal, clearingCal]
    link := by simpa [cal, clearingCal] using link
    destination := by simp [cal, clearingCal]
    clear := by simp [cal, clearingCal]
    voice := by simpa [vsw] using unlinked }

theorem noRecord_eq_false (record : u.record p = some a) : noRecord u = false := by
  rw [Bool.eq_false_iff]
  intro none
  exact absurd ((record_none_of_noRecord none p).symm.trans record) (by simp)

/-- The state in which a CLEAR stops the hunt of a call that no module serves. -/
structure HuntToStop (k : Fin 8) (s u : State) : Prop where
  stops : stopHunt (letServingGo (clearStarts k s)) = hntStop u
  host : SameHost (takeSlot k s).2 u
  clear : u.cal.clear = some (nextHeld s k)
  link : u.cal.ctx.huntLink = .stopping
  inbox : u.inbox = s.inbox
  hnt : u.hnt = s.hnt
  mlc : u.mlc = s.mlc
  wch : u.wch = s.wch
  clock : u.clock = s.clock
  ctu : u.ctu = s.ctu
  pln : u.pln = s.pln
  cal : u.cal = { timersStopped { s.cal with clear := some (nextHeld s k) } with
    ctx := { (timersStopped s.cal).ctx with huntLink := .stopping } }

theorem huntToStop_of_active (active : s.cal.ctx.huntLink = .active) (unserved : s.cal.ctx.serving = none) :
    ∃ u, HuntToStop k s u := by
  obtain ⟨ord, mem, inbox, wch, hnt, _, mlc, clock, ctu, pln⟩ := clearStarts_keeps (k := k) (s := s)
  refine ⟨(clearStarts k s).withCtx { (clearStarts k s).cal.ctx with huntLink := .stopping }, ?_, ⟨?_, ?_⟩, ?_, ?_, ?_, ?_,
    ?_, ?_, ?_, ?_, ?_, ?_⟩
  case refine_1 =>
    rw [letServingGo_none (u := clearStarts k s) unserved]
    exact if_pos active
  case refine_4 => simp [State.withCtx, clearStarts_cal, timersStopped]
  case refine_13 => simp only [State.withCtx, State.withCal_cal, clearStarts_cal, timersStopped]
  all_goals simp [State.withCtx, ord, mem, inbox, wch, hnt, mlc, clock, ctu, pln]

/-- A CLEAR in a hunt with one attempt past QUEUED (R39): the hunt is stopping, and the attempt waits for its RELEASE. -/
theorem clearOrder_oneRecord (quiet : s.inbox = []) (wf : Memory.wf s.smp.mem = true) (ready : orderReady s k 2 = true)
    (state : s.cal.ctx.state = .hunting ∨ s.cal.ctx.state = .reestablishing) (active : s.cal.ctx.huntLink = .active)
    (runs : s.hnt.state ≠ .idle) (unserved : s.cal.ctx.serving = none) (awake : s.wch.doze = false)
    (flags : flagsSound s = true) (record : s.record p = some a) (others : ∀ q, q ≠ p → s.record q = none)
    (past : a.state = .releasing ∨
      ((a.state = .sent ∨ a.state = .proceeding ∨ a.state = .alerting) ∧ callPlaceFree p s = true)) :
    ∃ t, exec .clearOrder s = .next t ∧ SlotTaken s t k 2 ∧ t.cal.clear = some (nextHeld s k) ∧
      t.cal.ctx.state = .clearing ∧ t.cal.ctx.lastEnd = .hostCleared ∧ t.cal.destination = false ∧
      t.cal.ctx.huntLink = .stopping ∧ Stopped t.hnt ∧
      (∃ b, t.record p = some b ∧ b.state = .releasing ∧
        (a.state ≠ .releasing → b.outcome = .surplus ∧
          t.mlc.queue = s.mlc.queue ++ [nextRequest s .attempt p .release []])) ∧
      t.vsw.conn = .none := by
  obtain ⟨u, toStop⟩ := huntToStop_of_active (k := k) active unserved
  have sameRecord (q : Pos) : u.record q = s.record q := by rw [State.record, State.record, toStop.hnt]
  have sameFree : callPlaceFree p u = callPlaceFree p s := by rw [callPlaceFree, callPlaceFree, roomFor, roomFor, toStop.mlc]
  have sameRequest : nextRequest u .attempt p .release [] = nextRequest s .attempt p .release [] := by
    rw [nextRequest, nextRequest, toStop.mlc]
  obtain ⟨shape, record'⟩ := releaseAll_one (u := u) ((sameRecord p).trans record)
    (fun q other => (sameRecord q).trans (others q other)) (by rw [sameFree]; exact past)
  generalize released : releaseAll u = x at shape record'
  obtain ⟨b, here, waits, surplus⟩ := record'
  obtain ⟨h', ms, stop, told, records, ended⟩ := hntStop_released (by rw [toStop.hnt]; exact runs) released
  rw [noRecord_eq_false here, if_neg Bool.false_ne_true, List.append_nil] at stop
  obtain ⟨m, h, rs, rfl, short, plain⟩ := shape
  have plainAll : ∀ m ∈ rs ++ ms, plainReport m := fun m there => (List.mem_append.mp there).elim (plain m) fun later => by
    rcases told with rfl | rfl
    · cases later
    · rw [List.mem_singleton.mp later]
      exact ⟨rfl, Msg.noConfusion⟩
  obtain ⟨t, run, stopping⟩ := clearOrder_stopping ready state flags (toStop.stops.trans stop)
    (by simp [toStop.wch, awake]) (by simp [toStop.link]) (ms := rs ++ ms)
    (by simp [toStop.inbox, quiet]) plainAll (by rcases told with rfl | rfl <;> simp <;> omega)
  have host : SameHost u t := SameHost.trans ⟨by simp, by simp⟩ stopping.host
  have recorded : t.record p = some b := by
    rw [← here, State.record, State.record, stopping.hnt]
    exact congrArg (PerPos.get · p) records
  refine ⟨t, run, (toStop.host.trans host).slotTaken wf ready, stopping.clear.trans (by simp [toStop.clear]), stopping.state,
    stopping.lastEnd, stopping.destination, stopping.link, ?_, ⟨b, recorded, waits, fun other => ?_⟩, stopping.voice⟩
  · rw [stopping.hnt]
    simpa using ended
  · obtain ⟨outcome, queue⟩ := surplus other
    exact ⟨outcome, by rw [← toStop.mlc, ← sameRequest, ← queue, stopping.queue]; simp⟩

end Sys2Proof.Machine
end

section
/-! PROOFS. A CLEAR that ends the call at once, and the states together (R39, R83, R86; O30). -/

namespace Sys2Proof.Machine

variable {s u w x : State} {k : Fin 8} {p : Pos}

/-! ### A clearing that ends in IDLE (R83) -/

/-- What a clearing needs to end in IDLE at once, with nobody waiting for it but the CLEAR. -/
structure ClearingOver (x : State) : Prop where
  ended : clearingOver x = true
  flags : flagsSound x = true
  sound : x.pln.damaged = []
  awake : x.wch.doze = false
  pending : x.wch.dozePending = false
  roles : ∀ q, (x.module q).pendingRole = none
  destination : x.cal.destination = false
  place : x.cal.place = none
  press : x.cal.ctx.flags.pressHeld = false

theorem finished_keeps {before : Cal} {cause : LastEnd} (place : x.cal.place = none)
    (press : x.cal.ctx.flags.pressHeld = false) :
    (publishCall before (takeHeldPress (clearingOrders cause x))).vsw = x.vsw ∧
      (publishCall before (takeHeldPress (clearingOrders cause x))).wch = x.wch := by
  obtain ⟨ord, smp, cleared⟩ := completeClear_eq x
  have noPress : (completeClear x).cal.ctx.flags.pressHeld = false := by rw [cleared]; exact press
  obtain ⟨g, c, e⟩ := publishCall_eq before (completeClear x)
  rw [clearingOrders_none place, takeHeldPress_none noPress, e, cleared]
  exact ⟨rfl, rfl⟩

/-- An event that ends a clearing whose destination is IDLE; the handset is connected to no module then (R87). -/
theorem clearingEnds_idle {f : State → State} (effect : f u = x) (h : ClearingOver x) :
    ClearingEnds .idle (idleCal x.cal) x (calEvent f u) ∧ (calEvent f u).vsw.conn = .none ∧
      (calEvent f u).wch.reported = .idle := by
  let y := x.withCtx { x.cal.ctx with start := none, connect := none, serving := none }
  obtain ⟨v, audio, unlinked⟩ := stateAudio_unlinked (x := .idle) (writeState .idle y) (Or.inl rfl)
  obtain ⟨outs, modules, entry, lamps⟩ := enter_entered (u := y) audio h.awake (fun _ => h.pending) (fun _ => h.roles)
  have entered' : enterIdle x = entered .idle (idleCal x.cal) v outs modules x := entry
  have finish : finishClearing x = takeHeldPress (clearingOrders x.cal.ctx.lastEnd
      (raise .callFinished (entered .idle (idleCal x.cal) v outs modules x))) := by
    rw [finishClearing_idle h.destination, entered']
  have ends := clearing_finished (u := x) (before := u.cal) (cause := x.cal.ctx.lastEnd) (v := v) (modules := modules) rfl
    (show (idleCal x.cal).place = none from h.place) h.press lamps
  obtain ⟨voice, watch⟩ := finished_keeps (x := raise .callFinished (entered .idle (idleCal x.cal) v outs modules x))
    (before := u.cal) (cause := x.cal.ctx.lastEnd) h.place h.press
  rw [← finish] at ends voice watch
  have other : (finishClearing x).cal.ctx.state ≠ .clearing := by
    rw [← publishCall_ctx u.cal, ends.context]
    exact CallState.noConfusion
  rw [calEvent_clears (by rw [effect]; exact h.ended) (by rw [effect]; exact h.flags) (by rw [effect]; exact other), effect]
  exact ⟨ends, by rw [voice]; exact unlinked, by rw [watch]; rfl⟩

/-- An order completed after its taking, seen from before the taking (R191). -/
theorem Completed.beforeTake {t : State} {o : OrderOutcome} {d : Word}
    (c : Completed (takeSlot k s).2 t (nextHeld s k) o d) : Completed s t (nextHeld s k) o d := by
  obtain ⟨slot, result, memory, cause⟩ := c
  exact ⟨slot.trans (PerSlot.set_set _ k _ _), result, fun a outside => (memory a outside).trans (takeSlot_mem s outside), cause⟩

/-! ### A CLEAR that ends the call at once (R39, R83, R86) -/

/-- What a CLEAR needs for the clearing to end in IDLE in its own cascade. -/
structure NothingLeft (s : State) : Prop where
  sound : s.pln.damaged = []
  awake : s.wch.doze = false
  pending : s.wch.dozePending = false
  flags : flagsSound s = true
  releases : s.cal.ctx.releases = ⟨false, false, false⟩
  answer : s.cal.ctx.answer = none
  press : s.cal.ctx.flags.pressHeld = false
  place : s.cal.place = none
  roles : ∀ p, (s.module p).pendingRole = none

/-- What a CLEAR leaves that has ended the call. -/
structure CallCleared (k : Fin 8) (s t : State) : Prop where
  order : Completed s t (nextHeld s k) .cleared s.cal.ctx.sequence
  clear : t.cal.clear = none
  state : t.cal.ctx.state = .idle
  lastEnd : t.cal.ctx.lastEnd = .hostCleared
  start : t.cal.ctx.start = none
  connect : t.cal.ctx.connect = none
  link : t.cal.ctx.huntLink = .none
  timer : t.cal.callbackTimer = none
  finished : t.smp.causes.getLsbD 4 = true
  voice : t.vsw.conn = .none
  watch : t.wch.reported = .idle
  ctu : t.ctu = s.ctu
  queue : t.mlc.queue = s.mlc.queue

/-- A call in CLEARING that waits for nothing more, on the CLEAR in slot `k`. -/
structure ReadyToEnd (k : Fin 8) (s x : State) : Prop where
  ready : ClearingOver x
  lastEnd : x.cal.ctx.lastEnd = .hostCleared
  link : x.cal.ctx.huntLink = .none
  sequence : x.cal.ctx.sequence = s.cal.ctx.sequence
  timer : x.cal.callbackTimer = none
  clear : x.cal.clear = some (nextHeld s k)
  host : SameHost (takeSlot k s).2 x
  clock : x.clock = s.clock
  ctu : x.ctu = s.ctu
  queue : x.mlc.queue = s.mlc.queue

theorem callCleared_of_ends {f : State → State} (wf : Memory.wf s.smp.mem = true) (effect : f u = x)
    (h : ReadyToEnd k s x) : CallCleared k s (calEvent f u) ∧ (calEvent f u).hnt = x.hnt ∧
      (calEvent f u).inbox = x.inbox := by
  obtain ⟨ends, voice, watch⟩ := clearingEnds_idle effect h.ready
  have taken : x.ord.slots.get (nextHeld s k).slot = .taken (kindByte s k) (nextHeld s k).take := by
    rw [h.host.ord, takeSlot_slots]
    exact if_pos rfl
  have order := ends.order _ _ h.clear taken (h.host.mem ▸ wf_takeSlot wf k)
  have sequence : (idleCal x.cal).ctx.sequence = s.cal.ctx.sequence := h.sequence
  rw [sequence] at order
  refine ⟨?_, ends.hnt, ends.quiet⟩
  exact {
    order := (order.before h.host.ord h.host.mem h.clock).beforeTake
    clear := ends.clear
    state := by rw [ends.context]; rfl
    lastEnd := by rw [ends.context]; exact h.lastEnd
    start := by rw [ends.context]; rfl
    connect := by rw [ends.context]; rfl
    link := by rw [ends.context]; exact h.link
    timer := ends.timer.trans h.timer
    finished := ends.cause, voice := voice, watch := watch
    ctu := ends.ctu.trans h.ctu
    queue := ends.queue.trans h.queue }

/-- The state in which a CLEAR has stopped what there was to stop, and no connection was let go. -/
structure StoppedAll (k : Fin 8) (s w : State) : Prop where
  stopped : stopHunt (letServingGo (clearStarts k s)) = w
  host : SameHost (takeSlot k s).2 w
  clock : w.clock = s.clock
  ctu : w.ctu = s.ctu
  mlc : w.mlc = s.mlc
  wch : w.wch = s.wch
  pln : w.pln = s.pln
  cal : ∃ link, w.cal = { timersStopped { s.cal with clear := some (nextHeld s k) } with
    ctx := { (timersStopped s.cal).ctx with huntLink := link } }

theorem readyToEnd_of_stopped {b : Nat} {g : Word} {c : BitVec 13} {v : Vsw} {outs : PerOut OutputState}
    {modules : PerPos Module} (h : StoppedAll k s w) (nothing : NothingLeft s)
    (roles : ∀ q, (modules.get q).pendingRole = (w.module q).pendingRole) :
    ReadyToEnd k s (clearingAlone b g c w.hnt v outs modules w) := by
  have cal : (clearingAlone b g c w.hnt v outs modules w).cal = { clearingCal w.cal with
    fileGen := g, ctx := { (clearingCal w.cal).ctx with backoff := b, huntLink := .none } } := rfl
  have wch : (clearingAlone b g c w.hnt v outs modules w).wch = { s.wch with reported := .clearing } := by
    simp [clearingAlone, entered, h.wch]
  have pln : (clearingAlone b g c w.hnt v outs modules w).pln = s.pln := by
    simp [clearingAlone, entered, h.pln]
  have clock : (clearingAlone b g c w.hnt v outs modules w).clock = s.clock := by
    simp [clearingAlone, entered, h.clock]
  have waits (q : Pos) :
      ((clearingAlone b g c w.hnt v outs modules w).module q).pendingRole = none := by
    have here : ((clearingAlone b g c w.hnt v outs modules w).module q) = modules.get q := by
      simp [State.module, clearingAlone, entered]
    have before : w.module q = s.module q := by rw [State.module, State.module, h.mlc]
    rw [here, roles q, before]
    exact nothing.roles q
  obtain ⟨ord, mem, ctu, queue, _, _⟩ := clearingAlone_keeps b g c w.hnt v outs modules w
  generalize clearingAlone b g c w.hnt v outs modules w = y at *
  obtain ⟨link, calW⟩ := h.cal
  rw [calW] at cal
  exact {
    ready := {
      ended := by
        have releases := nothing.releases
        have answer := nothing.answer
        rw [clearingOver, cal]
        simp [clearingCal, timersStopped, releases, answer, PerPos.all]
      flags := by
        rw [flagsSound, cal]
        exact (by decide : (flagsSet (stateFlags .clearing) == 1) = true)
      sound := by rw [pln]; exact nothing.sound
      awake := by rw [wch]; exact nothing.awake
      pending := by rw [wch]; exact nothing.pending
      roles := waits
      destination := by rw [cal]; rfl
      place := by rw [cal]; exact nothing.place
      press := by rw [cal]; exact nothing.press }
    lastEnd := by rw [cal]; rfl
    link := by rw [cal]
    sequence := by rw [cal]; rfl
    timer := by rw [cal]; rfl
    clear := by rw [cal]; rfl
    host := h.host.trans ⟨ord, mem⟩
    clock := clock
    ctu := ctu.trans h.ctu
    queue := queue.trans (by rw [h.mlc]) }

theorem ReadyToEnd.withInbox (h : ReadyToEnd k s x) (ms : List Msg) : ReadyToEnd k s (x.withInbox ms) := by
  obtain ⟨⟨ended, flags, sound, awake, pending, roles, destination, place, press⟩, lastEnd, link, sequence, timer, clear,
    ⟨ord, mem⟩, clock, ctu, queue⟩ := h
  exact ⟨⟨ended, flags, sound, awake, pending, roles, destination, place, press⟩, lastEnd, link, sequence, timer, clear,
    ⟨ord, mem⟩, clock, ctu, queue⟩

/-- With no hunt to stop the clearing is over in the CLEAR's own event. -/
theorem clearOrder_ends (ready : orderReady s k 2 = true) (wf : Memory.wf s.smp.mem = true)
    (elsewhere : s.cal.ctx.state = .hunting ∨ s.cal.ctx.state = .reestablishing ∨ s.cal.ctx.state = .talk ∨
      s.cal.ctx.state = .callbackWait) (nothing : NothingLeft s) (h : StoppedAll k s w)
    (link : w.cal.ctx.huntLink = .none) (inbox : w.inbox = []) :
    ∃ t, exec .clearOrder s = .next t ∧ CallCleared k s t ∧ t.hnt = w.hnt := by
  obtain ⟨v, outs, modules, effect, _, roles, _⟩ := takeClear_entered elsewhere nothing.flags h.stopped
    (by rw [h.wch]; exact nothing.awake)
  have shown' : takeClear (nextHeld s k) (takeSlot k s).2 =
      clearingShown w.cal.fileGen w.smp.causes v outs modules w := effect
  rw [← clearingAlone_of_rests link] at shown'
  obtain ⟨cleared, hnt, quiet⟩ := callCleared_of_ends wf shown' (readyToEnd_of_stopped h nothing roles)
  refine ⟨_, ?_, cleared, hnt.trans (by simp [clearingAlone, entered])⟩
  rw [exec_clearOrder ready]
  exact settled_of_inbox (quiet.trans (by simp [clearingAlone, entered, inbox]))

/-- With a hunt that has nothing to release the clearing is over with the attempts clear. -/
theorem clearOrder_ends_after {ms : List Msg} (ready : orderReady s k 2 = true) (wf : Memory.wf s.smp.mem = true)
    (elsewhere : s.cal.ctx.state = .hunting ∨ s.cal.ctx.state = .reestablishing ∨ s.cal.ctx.state = .talk ∨
      s.cal.ctx.state = .callbackWait) (nothing : NothingLeft s) (all : StoppedAll k s w)
    (link : w.cal.ctx.huntLink = .stopping) (inbox : w.inbox = ms ++ [.calAttemptsClear])
    (told : ms = [] ∨ ms = [.calBackoff 0]) : ∃ t, exec .clearOrder s = .next t ∧ CallCleared k s t ∧ t.hnt = w.hnt := by
  have running : w.cal.ctx.huntLink ≠ .none := by rw [link]; decide
  obtain ⟨v, outs, modules, effect, _, roles, _⟩ := takeClear_entered elsewhere nothing.flags all.stopped
    (by rw [all.wch]; exact nothing.awake)
  obtain ⟨g, c, event⟩ := clearEvent_ongoing effect (Or.inr running)
  obtain ⟨b, g', c', settles⟩ := settled_attemptsClear ((clearingShown_inbox g c v outs modules w).trans inbox) told
    (clearingShown_ongoing running)
  have taken : takeAttemptsClear (backoffShown b g' c' (clearingShown g c v outs modules w)) =
      (clearingAlone b g' c' w.hnt v outs modules w).withInbox [] := if_pos link
  obtain ⟨cleared, hnt, quiet⟩ := callCleared_of_ends wf taken
    ((readyToEnd_of_stopped all nothing roles).withInbox [])
  refine ⟨_, ?_, cleared, hnt.trans (by simp [clearingAlone, entered])⟩
  rw [exec_clearOrder ready, event]
  exact settles quiet

theorem stoppedAll_of_rests (rests : s.cal.ctx.huntLink = .none) (unserved : s.cal.ctx.serving = none) :
    StoppedAll k s (clearStarts k s) where
  stopped := by
    rw [letServingGo_none (u := clearStarts k s) unserved]
    exact stopHunt_rests (u := clearStarts k s) (by
      rw [clearStarts_cal]
      exact fun active => HuntLink.noConfusion (rests.symm.trans active))
  host := ⟨rfl, rfl⟩
  clock := rfl
  ctu := rfl
  mlc := rfl
  wch := rfl
  pln := rfl
  cal := ⟨s.cal.ctx.huntLink, rfl⟩

/-- A CLEAR in CALLBACK_WAIT. -/
theorem clearOrder_callbackWait (quiet : s.inbox = []) (wf : Memory.wf s.smp.mem = true) (ready : orderReady s k 2 = true)
    (state : s.cal.ctx.state = .callbackWait) (rests : s.cal.ctx.huntLink = .none) (unserved : s.cal.ctx.serving = none)
    (nothing : NothingLeft s) : ∃ t, exec .clearOrder s = .next t ∧ CallCleared k s t ∧ t.hnt = s.hnt := by
  obtain ⟨_, _, inbox, _, hnt, _⟩ := clearStarts_keeps (k := k) (s := s)
  obtain ⟨t, run, cleared, kept⟩ := clearOrder_ends ready wf (Or.inr (Or.inr (Or.inr state))) nothing
    (stoppedAll_of_rests rests unserved) (by rw [clearStarts_cal]; exact rests) (inbox.trans quiet)
  exact ⟨t, run, cleared, kept.trans hnt⟩

/-- A CLEAR in a hunt without a record. -/
theorem clearOrder_noRecord (quiet : s.inbox = []) (wf : Memory.wf s.smp.mem = true) (ready : orderReady s k 2 = true)
    (state : s.cal.ctx.state = .hunting ∨ s.cal.ctx.state = .reestablishing) (active : s.cal.ctx.huntLink = .active)
    (runs : s.hnt.state ≠ .idle) (none : noRecord s = true) (unserved : s.cal.ctx.serving = .none)
    (nothing : NothingLeft s) : ∃ t, exec .clearOrder s = .next t ∧ CallCleared k s t ∧ Stopped t.hnt := by
  obtain ⟨u, toStop⟩ := huntToStop_of_active (k := k) active unserved
  have noneHere : noRecord u = true := by
    simp only [noRecord, State.record, toStop.hnt]
    exact none
  obtain ⟨h, ms, stop, told, ended⟩ := hntStop_noRecord (by rw [toStop.hnt]; exact runs) noneHere
  have all : StoppedAll k s ((u.withHnt h).withInbox (u.inbox ++ ms ++ [.calAttemptsClear])) := {
    stopped := toStop.stops.trans stop
    host := toStop.host.trans ⟨rfl, rfl⟩
    clock := toStop.clock, ctu := toStop.ctu, mlc := toStop.mlc, wch := toStop.wch, pln := toStop.pln
    cal := ⟨.stopping, toStop.cal⟩ }
  obtain ⟨t, run, cleared, kept⟩ := clearOrder_ends_after (ms := ms) ready wf
    (state.elim Or.inl fun e => Or.inr (Or.inl e)) nothing all toStop.link (by simp [toStop.inbox, quiet]) told
  refine ⟨t, run, cleared, ?_⟩
  rw [kept]
  exact ended

/-- Settles O30, state by state: a CLEAR is turned away, deferred, joins a clearing, or stops what there is to stop. -/
theorem clearOrdersAct : Obligations.ClearOrdersAct := by
  intro s k quiet wf ready
  refine ⟨clearOrder_idle quiet wf ready, fun state => ?_, fun p state serving hunt awake flags free => ?_,
    fun state ongoing => ?_, fun state active runs unserved _ awake flags p a record others past => ?_,
    fun state unserved sound awake pending flags releases answer press place roles => ?_⟩
  · obtain ⟨g, c, run⟩ := clearOrder_locating quiet ready state
    refine ⟨_, run, SameHost.slotTaken ⟨by simp, by simp⟩ wf ready, ?_⟩
    obtain ⟨slots, mem, e⟩ := takeSlot_eq k s
    simp [e]
  · exact clearOrder_talk quiet wf ready state serving hunt awake flags free
  · refine ⟨_, clearOrder_clearing quiet ready state ongoing, SameHost.slotTaken ⟨by simp, by simp⟩ wf ready, ?_⟩
    obtain ⟨slots, mem, e⟩ := takeSlot_eq k s
    simp [e]
  · obtain ⟨t, run, slot, clear, clearing, lastEnd, destination, link, ended, rest⟩ :=
      clearOrder_oneRecord quiet wf ready state active runs unserved awake flags record others past
    exact ⟨t, run, slot, clear, clearing, lastEnd, destination, link, ended.state, ended.set, ended.backoff, rest⟩
  · have nothing : NothingLeft s := ⟨sound, awake, pending, flags, releases, answer, press, place, roles⟩
    rcases state with ⟨hunts, active, runs, none⟩ | ⟨waits, rests⟩
    · obtain ⟨t, run, h, ended⟩ := clearOrder_noRecord quiet wf ready hunts active runs none unserved nothing
      exact ⟨t, run, h.order, h.clear, h.state, h.lastEnd, h.start, h.connect, h.link, h.timer, h.finished, h.voice, h.watch,
        fun waits => by rcases hunts with e | e <;> exact absurd (e.symm.trans waits) (by decide),
        fun _ => ⟨ended.state, ended.set, ended.backoff⟩, h.ctu, h.queue⟩
    · obtain ⟨t, run, h, kept⟩ := clearOrder_callbackWait quiet wf ready waits rests unserved nothing
      exact ⟨t, run, h.order, h.clear, h.state, h.lastEnd, h.start, h.connect, h.link, h.timer, h.finished, h.voice, h.watch,
        fun _ => kept, fun other => absurd waits other, h.ctu, h.queue⟩

end Sys2Proof.Machine
end

section
/-! PROOFS. What goes on beside a call: the call's record, its hunt's kind and whether it runs, and the lamps, through what the
watch unit does and what the hunt's releases do (R39, R54, R56, R87; O29). -/

namespace Sys2Proof.Machine

/-- What of a part at work stays the same beside a call: CAL's record, the hunt's kind and whether it is IDLE, the lamps that
follow the call's state, and whether every internal event that waits is calm. -/
def callSide (s : State) : Cal × CallKind × Bool × OutputState × OutputState × OutputState × Bool :=
  (s.cal, s.hnt.kind, s.hnt.state == .idle, s.bsu.outs.get .lampCall, s.bsu.outs.get .lampLink, s.bsu.outs.get .beacon,
    s.inbox.all calm)

variable {s t : State} {p : Pos}

theorem CalmPosts.all_eq (h : CalmPosts s t) : t.inbox.all calm = s.inbox.all calm := by
  obtain ⟨ms, inbox, quiet⟩ := h
  have all : ms.all calm = true := List.all_eq_true.mpr quiet
  rw [inbox, List.all_append, all, Bool.and_true]

theorem Lower.side (h : Lower s t) : callSide t = callSide s := by
  simp only [callSide, h.cal, h.hnt, h.posts.all_eq, h.lamps .lampCall (by decide), h.lamps .lampLink (by decide),
    h.lamps .beacon (by decide)]

theorem LinkStep.side (h : LinkStep s t) : callSide t = callSide s := h.toLower.side

/-! ### One component written -/

@[simp] theorem callSide_withWch (s : State) (x : Wch) : callSide (s.withWch x) = callSide s := rfl
@[simp] theorem callSide_withWatch (s : State) (p : Pos) (w : Watch) : callSide (s.withWatch p w) = callSide s := rfl
@[simp] theorem callSide_withRecord (s : State) (p : Pos) (a : Option Attempt) : callSide (s.withRecord p a) = callSide s := rfl
@[simp] theorem callSide_withVsw (s : State) (x : Vsw) : callSide (s.withVsw x) = callSide s := rfl
@[simp] theorem callSide_withLmu (s : State) (x : Lmu) : callSide (s.withLmu x) = callSide s := rfl
@[simp] theorem callSide_raise (s : State) (c : Cause) : callSide (raise c s) = callSide s := rfl

theorem callSide_withHnt {x : Hnt} (kind : x.kind = s.hnt.kind) (state : (x.state == .idle) = (s.hnt.state == .idle)) :
    callSide (s.withHnt x) = callSide s := by
  simp only [callSide, State.withHnt_hnt, kind, state, State.withHnt_cal, State.withHnt_bsu, State.withHnt_inbox]

theorem callSide_post {m : Msg} (quiet : calm m = true) : callSide (post m s) = callSide s :=
  (post_link quiet (LinkStep.refl s)).side

/-! ### The operations below (CTU, MLC, PLN) -/

@[simp] theorem touch_side (i : Nat) (s : State) : callSide (touch i s) = callSide s := (touch_lower (Lower.refl s)).side

@[simp] theorem touchAll_side (is : List Nat) (s : State) : callSide (touchAll is s) = callSide s :=
  (touchAll_lower (Lower.refl s)).side

theorem side_of_enqueue {o : Requester} {kind : ReqKind} {payload : List Byte} {x : QueueAnswer}
    (e : enqueue o p kind payload s = (x, t)) : callSide t = callSide s := (enqueue_link_eq e (LinkStep.refl s)).side

theorem side_of_withdraw {o : Requester} {n : Nat} {x : Withdrawal} (e : withdraw o n s = (x, t)) :
    callSide t = callSide s := (withdraw_link_eq e (LinkStep.refl s)).side

@[simp] theorem withdrawIf_side (o : Requester) (n : Option Nat) (s : State) : callSide (withdrawIf o n s) = callSide s :=
  (withdrawIf_link (LinkStep.refl s)).side

@[simp] theorem mlcInterval_side (s : State) : callSide (mlcInterval s) = callSide s := rfl

@[simp] theorem complete_side (h : Held) (o : OrderOutcome) (d : Word) (s : State) : callSide (complete h o d s) = callSide s :=
  (complete_link (LinkStep.refl s)).side

@[simp] theorem ctuOutcome_side (o : Outcome) (k : Key) (s : State) : callSide (ctuOutcome o k s) = callSide s :=
  (ctuOutcome_lower (Lower.refl s)).side

/-! ### The watch unit's requests and scans (R161, R164 to R168) -/

@[simp] theorem queueSleep_side (p : Pos) (s : State) : callSide (queueSleep p s) = callSide s := by
  unfold queueSleep
  split <;> next e => simp [side_of_enqueue e]

@[simp] theorem queueWake_side (p : Pos) (s : State) : callSide (queueWake p s).2 = callSide s := by
  unfold queueWake
  split <;> next e => simp [side_of_enqueue e]

theorem side_of_queueWake {x : Bool} (e : queueWake p s = (x, t)) : callSide t = callSide s := by
  rw [← queueWake_side p s, e]

@[simp] theorem startWaking_side (p : Pos) (s : State) : callSide (startWaking p s) = callSide s := by
  unfold startWaking
  dsimp only
  split <;> next e => simp [side_of_queueWake e]

@[simp] theorem wakeIfWanted_side (p : Pos) (s : State) : callSide (wakeIfWanted p s) = callSide s := by
  unfold wakeIfWanted
  split <;> simp

@[simp] theorem queueFetch_side (p : Pos) (s : State) : callSide (queueFetch p s) = callSide s := by
  unfold queueFetch
  split <;> next e => simp [side_of_enqueue e]

@[simp] theorem settleScanOrder_side (s : State) : callSide (settleScanOrder s) = callSide s := by
  unfold settleScanOrder
  split
  · rfl
  · split <;> simp

@[simp] theorem settleGather_side (s : State) : callSide (settleGather s) = callSide s := by
  unfold settleGather
  split
  · exact callSide_post rfl
  · rfl

@[simp] theorem endMember_side (p : Pos) (s : State) : callSide (endMember p s) = callSide s := by
  simp [endMember]

@[simp] theorem startScan_side (p : Pos) (s : State) : callSide (startScan p s) = callSide s := by
  unfold startScan
  dsimp only
  split <;> next e => simp [side_of_enqueue e]

@[simp] theorem startScans_side (n : Nat) (ps : List Pos) (s : State) : callSide (startScans n ps s) = callSide s := by
  induction n generalizing s ps with
  | zero => rfl
  | succ n ih =>
    unfold startScans
    dsimp only
    split
    · rfl
    · split
      · rfl
      · split <;> simp [ih]

@[simp] theorem examine_side (s : State) : callSide (examine s) = callSide s := by
  simp [examine]

@[simp] theorem sleepAfterScan_side (p : Pos) (s : State) : callSide (sleepAfterScan p s) = callSide s := by
  unfold sleepAfterScan
  split <;> simp

@[simp] theorem scanEndNoExamine_side (p : Pos) (s : State) : callSide (scanEndNoExamine p s) = callSide s := by
  simp [scanEndNoExamine]

@[simp] theorem scanEnd_side (p : Pos) (s : State) : callSide (scanEnd p s) = callSide s := by
  simp [scanEnd]

@[simp] theorem regather_side (list : PerPos Bool) (p : Pos) (s : State) : callSide (regather list p s) = callSide s := by
  unfold regather
  dsimp only
  split
  · simp
  · split <;> simp

@[simp] theorem wchGather_side (list : PerPos Bool) (s : State) : callSide (wchGather list s) = callSide s := by
  simp [wchGather]

/-! ### The watch unit leaves DOZE (R162) -/

theorem withdrawOneSleep_side (p : Pos) (s : State) (n : Nat) : callSide (withdrawOneSleep p s n) = callSide s := by
  unfold withdrawOneSleep
  split <;> next e => simp [forgetSleep, side_of_withdraw e]

@[simp] theorem withdrawSleep_side (p : Pos) (s : State) : callSide (withdrawSleep p s) = callSide s := by
  unfold withdrawSleep
  generalize (s.watch p).sleeps = ns
  induction ns generalizing s with
  | nil => rfl
  | cons n ns ih => rw [List.foldl_cons, ih, withdrawOneSleep_side]

@[simp] theorem wakeAsleep_side (p : Pos) (s : State) : callSide (wakeAsleep p s) = callSide s := by
  unfold wakeAsleep
  split <;> simp

@[simp] theorem leaveDoze_side (s : State) : callSide (leaveDoze s) = callSide s := by
  unfold leaveDoze
  split <;> simp

/-! ### What the watch unit takes (R164 to R167) -/

@[simp] theorem wchTakeResult_side (p : Pos) (n : Nat) (kind : ReqKind) (r : LinkResult) (s : State) :
    callSide (wchTakeResult p n kind r s) = callSide s := by
  have scan : callSide (wchScanResult p r s) = callSide s := by
    unfold wchScanResult
    split <;> simp
  have fetch : callSide (wchFetchResult p r s) = callSide s := by
    unfold wchFetchResult
    split <;> simp
  have wake : callSide (wchWakeResult p r s) = callSide s := by
    unfold wchWakeResult
    dsimp only
    split
    · split <;> simp
    · simp
  unfold wchTakeResult
  split
  case h_3 => exact callSide_withWatch ..
  case h_5 => rfl
  all_goals split <;> simp only [scan, fetch, wake]

@[simp] theorem wchTakeList_side (p : Pos) (n : Nat) (s : State) : callSide (wchTakeList p n s) = callSide s := by
  unfold wchTakeList
  split <;> simp

@[simp] theorem wchTakeReady_side (p : Pos) (count : Byte) (s : State) : callSide (wchTakeReady p count s) = callSide s := by
  unfold wchTakeReady
  split
  · split <;> simp
  · rfl

@[simp] theorem endAtDeparture_side (p : Pos) (s : State) : callSide (endAtDeparture p s) = callSide s := by
  unfold endAtDeparture
  split
  · simp
  · split <;> simp

@[simp] theorem wchTakeModule_side (p : Pos) (old new : ModState) (s : State) :
    callSide (wchTakeModule p old new s) = callSide s := by
  simp only [wchTakeModule, examine_side]
  split <;> split <;> split <;> simp

@[simp] theorem wchTakeRole_side (p : Pos) (s : State) : callSide (wchTakeRole p s) = callSide s := by
  simp only [wchTakeRole, examine_side]
  split
  · split <;> simp
  · split <;> simp

/-! ### Records end and begin to release (R39, R54, R56, R59) -/

@[simp] theorem putRecord_side (p : Pos) (a : Attempt) (s : State) : callSide (putRecord p a s) = callSide s :=
  callSide_post rfl

@[simp] theorem dropRecord_side (p : Pos) (a : Attempt) (o : Outcome) (s : State) :
    callSide (dropRecord p a o s) = callSide s := by
  rw [dropRecord, callSide_post rfl]
  simp

@[simp] theorem strayRelease_side (p : Pos) (s : State) : callSide (strayRelease p s) = callSide s := by
  unfold strayRelease
  split <;> next e => exact (callSide_withHnt rfl rfl).trans (side_of_enqueue e)

@[simp] theorem endRecord_side (p : Pos) (a : Attempt) (o : Outcome) (s : State) :
    callSide (endRecord p a o s) = callSide s := by
  unfold endRecord
  dsimp only
  split <;> simp

@[simp] theorem beginRelease_side (p : Pos) (a : Attempt) (o : Outcome) (s : State) :
    callSide (beginRelease p a o s) = callSide s := by
  unfold beginRelease
  split <;> next e => simp [side_of_enqueue e]

@[simp] theorem withdrawQueued_side (p : Pos) (s : State) : callSide (withdrawQueued p s) = callSide s := by
  unfold withdrawQueued
  split
  · rfl
  · split
    · split
      · simp
      · split <;> next e => simp [side_of_withdraw e]
    · rfl

@[simp] theorem releaseSent_side (p : Pos) (s : State) : callSide (releaseSent p s) = callSide s := by
  unfold releaseSent
  split
  · rfl
  · split <;> simp

@[simp] theorem releaseSurplus_side (p : Pos) (s : State) : callSide (releaseSurplus p s) = callSide s := by
  simp [releaseSurplus]

@[simp] theorem releaseAll_side (s : State) : callSide (releaseAll s) = callSide s := by
  simp [releaseAll, releaseThose, positions]

@[simp] theorem stopHuntTimers_side (s : State) : callSide (stopHuntTimers s) = callSide s := by
  unfold stopHuntTimers leaveBackoff
  dsimp only
  split
  · exact (callSide_withHnt rfl rfl).trans ((callSide_post rfl).trans (callSide_withHnt rfl rfl))
  · exact callSide_withHnt rfl rfl

end Sys2Proof.Machine
end

section
/-! PROOFS. What goes on beside a call: the voice switch, the message unit, and the hunt at work (R45, R51 to R54, R61; O29). -/

namespace Sys2Proof.Machine

variable {s t : State} {p : Pos}

/-! ### The voice switch and the message unit (R98 to R102, R112) -/

@[simp] theorem vswMutes_side (x : Bool) (s : State) : callSide (vswMutes x s) = callSide s := rfl

@[simp] theorem cadenceStart_side (x : Tone) (s : State) : callSide (cadenceStart x s) = callSide s := by
  simp [cadenceStart]

@[simp] theorem vswTone_side (x : Tone) (present : Bool) (s : State) : callSide (vswTone x present s) = callSide s := by
  unfold vswTone retune silence
  dsimp only
  split
  · rfl
  · split <;> simp

@[simp] theorem lmuConclude_side (delivered : Bool) (s : State) : callSide (lmuConclude delivered s) = callSide s := by
  unfold lmuConclude lmuIdle
  dsimp only
  rw [callSide_withLmu, callSide_post rfl]
  split <;> simp

theorem lmuSend_side (n : Nat) (s : State) : callSide (lmuSend n s).2 = callSide s := by
  unfold lmuSend
  dsimp only
  split
  · split <;> next e => simp [side_of_enqueue e]
  · rfl

theorem side_of_lmuSend {n : Nat} {x : Bool} (e : lmuSend n s = (x, t)) : callSide t = callSide s := by
  rw [← lmuSend_side n s, e]

theorem side_of_lmuStartTry {x : Bool} (e : lmuStartTry s = (x, t)) : callSide t = callSide s :=
  (side_of_lmuSend (s := s.withLmu { s.lmu with tries := s.lmu.tries + 1 }) e).trans (callSide_withLmu ..)

@[simp] theorem lmuTryFailed_side (n : Nat) (s : State) : callSide (lmuTryFailed n s) = callSide s := by
  induction n generalizing s with
  | zero => rfl
  | succ n ih =>
    unfold lmuTryFailed
    dsimp only
    split
    · split <;> next e => simp [ih, side_of_lmuStartTry e]
    · simp

@[simp] theorem lmuTakeResult_side (n : Nat) (r : LinkResult) (s : State) : callSide (lmuTakeResult n r s) = callSide s := by
  have replied : callSide (lmuReplyOk s) = callSide s := by
    unfold lmuReplyOk
    dsimp only
    split
    · split <;> next e => simp [side_of_lmuSend e]
    · simp
  unfold lmuTakeResult
  split
  · split <;> simp [replied]
  · rfl

@[simp] theorem lmuTakeVerdict_side (p : Pos) (v : DataVerdict) (s : State) : callSide (lmuTakeVerdict p v s) = callSide s := by
  unfold lmuTakeVerdict
  split
  · rfl
  · split
    · simp
    · simp
    · split <;> simp

/-! ### Launches (R45 to R47, R63) -/

@[simp] theorem setLaunchStagger_side (s : State) : callSide (setLaunchStagger s) = callSide s :=
  (callSide_withHnt rfl rfl).trans (touch_side 17 s)

@[simp] theorem emptySet_side (s : State) : callSide (emptySet s) = callSide s := rfl

@[simp] theorem createAttempt_side (k : Key) (s : State) : callSide (createAttempt k s) = callSide s := by
  unfold createAttempt
  dsimp only
  split <;>
    · next e =>
      have counted : callSide (s.withHnt { s.hnt with counter := min (s.hnt.counter + 1) 65535 }) = callSide s := rfl
      simp [side_of_enqueue e, counted]

theorem side_of_ctuMark {k : Key} {x : Bool} (e : ctuMark k s = (x, t)) : callSide t = callSide s :=
  (ctuMark_link_eq e (LinkStep.refl s)).side

theorem side_of_launchKey {k : Key} {x : Bool} (e : launchKey k s = (x, t)) : callSide t = callSide s := by
  have same : callSide (launchKey k s).2 = callSide s := by
    unfold launchKey
    dsimp only
    split
    · simp
    · split <;> next e => simp [side_of_ctuMark e]
  rw [← same, e]

@[simp] theorem launchNext_side (n : Nat) (s : State) : callSide (launchNext n s) = callSide s := by
  induction n generalizing s with
  | zero => rfl
  | succ n ih =>
    unfold launchNext
    split
    · rfl
    next k _ =>
      have taken : callSide (s.withHnt { s.hnt with set := s.hnt.set.erase k }) = callSide s := rfl
      dsimp only
      split
      · split <;> next e => simp [ih, side_of_launchKey e, taken]
      · simp [ih, taken]

@[simp] theorem launchCheck_side (s : State) : callSide (launchCheck s) = callSide s := by
  have one (s : State) : callSide (launchOne s) = callSide s := by
    unfold launchOne
    dsimp only
    split <;> split <;> simp
  have loop (n : Nat) (s : State) : callSide (launchLoop n s) = callSide s := by
    induction n generalizing s with
    | zero => rfl
    | succ n ih =>
      unfold launchLoop
      dsimp only
      split
      · split <;> simp [ih, one]
      · rfl
  exact loop _ s

@[simp] theorem fillSet_side (s : State) : callSide (fillSet s) = callSide s :=
  (callSide_withHnt rfl rfl).trans (touchAll_side _ s)

/-! ### An EMERGENCY hunt that runs goes on (R44, R61) -/

/-- An EMERGENCY hunt is under way. -/
structure RunsEmergency (s : State) : Prop where
  emergency : s.hnt.kind = .emergency
  runs : s.hnt.state ≠ .idle

theorem RunsEmergency.of_side (h : RunsEmergency s) (e : callSide t = callSide s) : RunsEmergency t := by
  have kind : t.hnt.kind = s.hnt.kind := congrArg (fun x => x.2.1) e
  have state : (t.hnt.state == .idle) = (s.hnt.state == .idle) := congrArg (fun x => x.2.2.1) e
  refine ⟨kind.trans h.emergency, fun idle => h.runs ?_⟩
  rw [← beq_iff_eq, ← state, idle]
  rfl

/-- A hunt that runs takes another of its states. -/
theorem RunsEmergency.side_withHnt {x : Hnt} (h : RunsEmergency s) (kind : x.kind = s.hnt.kind) (state : x.state ≠ .idle) :
    callSide (s.withHnt x) = callSide s :=
  callSide_withHnt kind (by rw [beq_eq_false_iff_ne.mpr state, beq_eq_false_iff_ne.mpr h.runs])

theorem endRound_side (h : RunsEmergency s) : callSide (endRound s) = callSide s := by
  let u := touchAll [20, 22] (post (.calRounds (min (s.hnt.rounds + 1) 255))
    (s.withHnt { s.hnt with rounds := min (s.hnt.rounds + 1) 255 }))
  have counted : callSide u = callSide s :=
    (touchAll_side _ _).trans ((callSide_post rfl).trans (callSide_withHnt rfl rfl))
  unfold endRound
  dsimp only
  split
  next test => exact absurd (h.emergency.symm.trans test) (by decide)
  · exact (callSide_post rfl).trans
      (((h.of_side counted).side_withHnt (by rfl) (by exact HuntState.noConfusion)).trans counted)

theorem roundEndCheck_side (h : RunsEmergency s) : callSide (roundEndCheck s) = callSide s := by
  unfold roundEndCheck
  split
  · exact endRound_side h
  · rfl

theorem huntChecks_side (h : RunsEmergency s) : callSide (huntChecks s) = callSide s :=
  (roundEndCheck_side (h.of_side (launchCheck_side s))).trans (launchCheck_side s)

theorem recordChecks_side {before : State} (h : RunsEmergency s) : callSide (recordChecks before s) = callSide s := by
  rw [recordChecks, if_neg h.runs, huntChecks_side h]

theorem gatherOrEnd_side (h : RunsEmergency s) : callSide (gatherOrEnd s) = callSide s := by
  unfold gatherOrEnd
  dsimp only
  split
  · exact roundEndCheck_side h
  · have asked := wchGather_side ⟨gatherModule s 0, gatherModule s 1, gatherModule s 2⟩ s
    have kind := congrArg (fun x => x.2.1) asked
    refine ((h.of_side asked).side_withHnt ?_ HuntState.noConfusion).trans asked
    exact kind.symm

theorem startRound_side (h : RunsEmergency s) : callSide (startRound s) = callSide s := by
  have read : RunsEmergency (touch 2 s) := h.of_side (touch_side 2 s)
  let u := (touch 2 s).withHnt { (touch 2 s).hnt with
    state := .round, form := (touch 2 s).hnt.rounds % max (touch 2 s).pln.plan.lists.dialForms.length 1 }
  have started : callSide (post (.calRounds (fillSet u).hnt.rounds) (fillSet u)) = callSide s :=
    (callSide_post rfl).trans ((fillSet_side u).trans
      ((read.side_withHnt (by rfl) (by exact HuntState.noConfusion)).trans (touch_side 2 s)))
  have runs := h.of_side started
  unfold startRound
  dsimp only
  split
  · exact (gatherOrEnd_side runs).trans started
  · exact (huntChecks_side runs).trans started

theorem gatherEnded_side (h : RunsEmergency s) : callSide (gatherEnded s) = callSide s := by
  have filled : callSide (fillSet (s.withHnt { s.hnt with state := .round, gather := none })) = callSide s :=
    (fillSet_side _).trans (h.side_withHnt (by rfl) (by exact HuntState.noConfusion))
  exact (huntChecks_side (h.of_side filled)).trans filled

/-! ### What the hunt takes (R43, R51, R52, R59, R64) -/

theorem hntTakeKeys_side (keys : List Key) (h : RunsEmergency s) : callSide (hntTakeKeys keys s) = callSide s := by
  unfold hntTakeKeys
  split
  · exact gatherEnded_side h
  · split
    · have left : callSide (leaveBackoff s) = callSide s := by
        unfold leaveBackoff
        split
        · exact (callSide_post rfl).trans (callSide_withHnt rfl rfl)
        · rfl
      exact (startRound_side (h.of_side left)).trans left
    · rfl
  · rfl

theorem hntTakeGatherEnd_side (h : RunsEmergency s) : callSide (hntTakeGatherEnd s) = callSide s := by
  unfold hntTakeGatherEnd
  split
  · exact gatherEnded_side h
  · rfl

@[simp] theorem originateResult_side (p : Pos) (a : Attempt) (r : LinkResult) (s : State) :
    callSide (originateResult p a r s) = callSide s := by
  unfold originateResult
  split
  · split <;> simp
  · simp
  · simp

theorem hntTakeResult_side (p : Pos) (n : Nat) (kind : ReqKind) (r : LinkResult) (h : RunsEmergency s) :
    callSide (hntTakeResult p n kind r s) = callSide s := by
  unfold hntTakeResult
  split
  · rfl
  next a _ =>
    split
    · have taken : callSide (if kind = .originate then originateResult p a r s else endRecord p a a.outcome s) =
          callSide s := by split <;> simp
      exact (recordChecks_side (h.of_side taken)).trans taken
    · rfl

theorem hntTakeStray_side (p : Pos) (n : Nat) (h : RunsEmergency s) : callSide (hntTakeStray p n s) = callSide s := by
  unfold hntTakeStray
  split
  · exact huntChecks_side (s := s.withHnt { s.hnt with stray := s.hnt.stray.set p none }) ⟨h.emergency, h.runs⟩
  · rfl

@[simp] theorem departed_side (p : Pos) (s : State) : callSide (departed p s) = callSide s := by
  unfold departed
  dsimp only
  refine (callSide_withHnt rfl rfl).trans ?_
  split <;> simp

theorem hntTakeModule_side (p : Pos) (old new : ModState) (h : RunsEmergency s) :
    callSide (hntTakeModule p old new s) = callSide s := by
  have left : callSide (if old = .inService ∧ new ≠ .inService then departed p s else s) = callSide s := by
    split <;> simp
  generalize e : (if old = .inService ∧ new ≠ .inService then departed p s else s) = u at left
  have onward : RunsEmergency u := h.of_side left
  have woken : callSide (endWakeWait u) = callSide u := by
    unfold endWakeWait
    split
    · exact startRound_side (s := u.withHnt { u.hnt with wakeWait := none })
        ⟨onward.emergency, onward.runs⟩
    · rfl
  have entered : callSide (if new = .inService ∧ (s.module p).role = .active then endWakeWait u else u) = callSide s := by
    split
    · exact woken.trans left
    · exact left
  unfold hntTakeModule
  dsimp only
  rw [e]
  exact (recordChecks_side (h.of_side entered)).trans entered

theorem hntTakePlan_side (h : RunsEmergency s) : callSide (hntTakePlan s) = callSide s := by
  have excess (n : Nat) (ps : List Pos) (s : State) : callSide (releaseExcess n ps s) = callSide s := by
    induction n generalizing ps s with
    | zero => rfl
    | succ n ih =>
      unfold releaseExcess
      split
      · split <;> simp [ih]
      · rfl
  unfold hntTakePlan
  split
  · exact (recordChecks_side (h.of_side (excess _ _ s))).trans (excess _ _ s)
  · rfl

end Sys2Proof.Machine
end

section
/-! PROOFS. The cascade of a call that hunts: it stays in HUNTING, and so do its hunt and its lamps (R36, R87, R88; O29). -/

namespace Sys2Proof.Machine

variable {s t u : State}

/-! ### What a calm event leaves of a call in HUNTING -/

/-- A call in HUNTING with an EMERGENCY hunt under way for it. -/
structure Hunting (s : State) : Prop where
  state : s.cal.ctx.state = .hunting
  link : s.cal.ctx.huntLink = .active
  runs : RunsEmergency s

/-- A call goes on as it was: what has moved of its context is only what it shows of the hunt, an answer or the pending
releases (R88, R89). -/
structure CallGoes (s t : State) : Prop where
  fields : stateFields t.cal.ctx = stateFields s.cal.ctx
  link : t.cal.ctx.huntLink = s.cal.ctx.huntLink
  callback : t.cal.ctx.callback = s.cal.ctx.callback
  cal : t.cal = { s.cal with ctx := t.cal.ctx, fileGen := t.cal.fileGen }
  kind : t.hnt.kind = s.hnt.kind
  runs : (t.hnt.state == .idle) = (s.hnt.state == .idle)
  lamps : ∀ o, o ≠ .lampFault → t.bsu.outs.get o = s.bsu.outs.get o

theorem CallGoes.refl (s : State) : CallGoes s s := ⟨rfl, rfl, rfl, rfl, rfl, rfl, fun _ _ => rfl⟩

theorem callGoes_withInbox (s : State) (x : List Msg) : CallGoes s (s.withInbox x) :=
  ⟨rfl, rfl, rfl, rfl, rfl, rfl, fun _ _ => rfl⟩

theorem CallGoes.trans (h : CallGoes s t) (g : CallGoes t u) : CallGoes s u where
  fields := g.fields.trans h.fields
  link := g.link.trans h.link
  callback := g.callback.trans h.callback
  cal := by rw [g.cal, h.cal]
  kind := g.kind.trans h.kind
  runs := g.runs.trans h.runs
  lamps o call := (g.lamps o call).trans (h.lamps o call)

theorem CallGoes.state (h : CallGoes s t) : t.cal.ctx.state = s.cal.ctx.state := by
  have same := congrArg Context.state h.fields
  exact same

theorem Hunting.goes (g : CallGoes s t) (h : Hunting s) : Hunting t := by
  obtain ⟨state, link, kind, runs⟩ := h
  refine ⟨g.state.trans state, g.link.trans link, g.kind.trans kind, fun idle => runs ?_⟩
  rw [← beq_iff_eq, ← g.runs, idle]
  rfl

/-- A calm step: the call goes on, and what waits is as calm as before. -/
def CalmStep (s t : State) : Prop := CallGoes s t ∧ t.inbox.all calm = s.inbox.all calm

theorem CalmStep.of_side (e : callSide t = callSide s) : CalmStep s t := by
  simp only [callSide, Prod.mk.injEq] at e
  obtain ⟨cal, kind, runs, call, link, beacon, posts⟩ := e
  refine ⟨⟨by rw [cal], by rw [cal], by rw [cal], by rw [cal], kind, runs, fun o other => ?_⟩, posts⟩
  cases o with
  | lampCall => exact call
  | lampLink => exact link
  | lampFault => exact absurd rfl other
  | beacon => exact beacon

theorem CalmStep.trans (h : CalmStep s t) (g : CalmStep t u) : CalmStep s u := ⟨h.1.trans g.1, g.2.trans h.2⟩

/-- A new context in which only what CAL shows has moved. -/
theorem calmStep_withCtx {x : Context} (fields : stateFields x = stateFields s.cal.ctx)
    (link : x.huntLink = s.cal.ctx.huntLink) (callback : x.callback = s.cal.ctx.callback) : CalmStep s (s.withCtx x) :=
  ⟨⟨fields, link, callback, rfl, rfl, rfl, fun _ _ => rfl⟩, rfl⟩

/-- An event of CAL in HUNTING is its effect, published. -/
theorem calEvent_calm {f : State → State} (h : Hunting s) (step : CalmStep s (f s)) : CalmStep s (calEvent f s) := by
  have other : (f s).cal.ctx.state ≠ .clearing := by
    rw [step.1.state, h.state]
    decide
  obtain ⟨g, c, e⟩ := publishCall_eq s.cal (f s)
  rw [calEvent_other other, e]
  exact step.trans ⟨⟨rfl, rfl, rfl, rfl, rfl, rfl, fun _ _ => rfl⟩, rfl⟩

/-! ### The events of CAL that are calm (R76, R79, R82, R88) -/

theorem takeAnswerFailed_calm (p : Pos) (h : Hunting s) : CalmStep s (takeAnswerResult p false s) := by
  unfold takeAnswerResult
  split
  · have ended : CalmStep s (endAnswer s) :=
      (calmStep_withCtx (x := { s.cal.ctx with answer := none }) rfl rfl rfl).trans (.of_side (vswTone_side _ _ _))
    have other : (endAnswer s).cal.ctx.state ≠ .callbackWait := by
      rw [ended.1.state, h.state]
      decide
    have failed : answerFailed s = endAnswer s := if_neg fun both => other both.1
    exact failed ▸ ended
  · exact .of_side rfl

theorem takeAttemptsClear_active (h : Hunting s) : takeAttemptsClear s = s :=
  if_neg (by rw [h.link]; decide)

theorem takeModuleLeft_hunting (p : Pos) (h : Hunting s) : takeModuleLeft p s = s := by
  have apart : servesAt s p = false := by simp [servesAt, h.state]
  rw [takeModuleLeft, apart, if_neg Bool.false_ne_true]
  exact if_neg (by rw [h.state]; decide)

theorem takeConcluded_hunting (d : Bool) (h : Hunting s) : takeConcluded d s = s :=
  if_neg (by rw [h.state]; decide)

theorem plnTakePress_side (s : State) : callSide (plnTakePress s) = callSide s := by
  have installed : Lower s (install builtInPlan .default s) := install_lower (Lower.refl s)
  unfold plnTakePress installAndRelease
  dsimp only
  split
  · split
    · exact (releaseModules_link (LinkStep.refl _)).side.trans (installed.withPln.side)
    · exact installed.side
  · rfl

/-- A calm event taken while a call hunts. -/
theorem handle_calm {m : Msg} (quiet : calm m = true) (h : Hunting s) : CalmStep s (handle m s) := by
  cases m with
  | hntNewKeys keys => exact .of_side (hntTakeKeys_side keys h.runs)
  | hntGatherEnd => exact .of_side (hntTakeGatherEnd_side h.runs)
  | hntResult p n kind r => exact .of_side (hntTakeResult_side p n kind r h.runs)
  | hntStrayResult p n => exact .of_side (hntTakeStray_side p n h.runs)
  | hntModule p old new => exact .of_side (hntTakeModule_side p old new h.runs)
  | hntRole p => exact .of_side (huntChecks_side h.runs)
  | hntPlan => exact .of_side (hntTakePlan_side h.runs)
  | hntEvent p e => cases quiet
  | calHuntStarted =>
    exact calEvent_calm (f := fun s => s.withCtx { s.cal.ctx with attempts := 0, rounds := 0 }) h
      (calmStep_withCtx rfl rfl rfl)
  | calRounds n =>
    exact calEvent_calm (f := fun s => s.withCtx { s.cal.ctx with rounds := n }) h (calmStep_withCtx rfl rfl rfl)
  | calRecord p x => exact calEvent_calm (f := takeRecord p x) h (calmStep_withCtx rfl rfl rfl)
  | calRecordEnd p => exact calEvent_calm (f := clearSummary p) h (calmStep_withCtx rfl rfl rfl)
  | calBackoff n =>
    exact calEvent_calm (f := fun s => s.withCtx { s.cal.ctx with backoff := n }) h (calmStep_withCtx rfl rfl rfl)
  | calAttemptsClear => exact calEvent_calm (f := takeAttemptsClear) h (.of_side (by rw [takeAttemptsClear_active h]))
  | calNoCarrier => cases quiet
  | calWinner k => cases quiet
  | calAnswerResult p ok =>
    cases ok with
    | true => cases quiet
    | false => exact calEvent_calm (f := takeAnswerResult p false) h (takeAnswerFailed_calm p h)
  | calReleaseResult p => exact calEvent_calm (f := takeReleaseResult p) h (calmStep_withCtx rfl rfl rfl)
  | calModuleLeft p => exact calEvent_calm (f := takeModuleLeft p) h (.of_side (by rw [takeModuleLeft_hunting p h]))
  | calEvent p e => cases quiet
  | calConcluded d => exact calEvent_calm (f := takeConcluded d) h (.of_side (by rw [takeConcluded_hunting d h]))
  | calPress => cases quiet
  | calHookOn => cases quiet
  | calHookOff => cases quiet
  | lmuResult n r => exact .of_side (lmuTakeResult_side n r s)
  | lmuVerdict p v => exact .of_side (lmuTakeVerdict_side p v s)
  | wchResult p n kind r => exact .of_side (wchTakeResult_side p n kind r s)
  | wchModule p old new => exact .of_side (wchTakeModule_side p old new s)
  | wchRole p => exact .of_side (wchTakeRole_side p s)
  | wchList p n => exact .of_side (wchTakeList_side p n s)
  | wchReady p count => exact .of_side (wchTakeReady_side p count s)
  | ctuLevel p level quality => exact .of_side (ctuLevelReport_lower (Lower.refl s)).side
  | plnPress => exact .of_side (plnTakePress_side s)

/-- A cascade of calm events while a call hunts. -/
theorem drain_calm (n : Nat) (h : Hunting s) (quiet : s.inbox.all calm = true) : CallGoes s (drain n s) := by
  have bare {s : State} (x : List Msg) (h : Hunting s) : Hunting (s.withInbox x) := ⟨h.state, h.link, ⟨h.runs.emergency, h.runs.runs⟩⟩
  have all := drain_steps (Good := Hunting) (S := CallGoes) (C := fun m => calm m = true) CallGoes.refl CallGoes.trans
    Hunting.goes bare (fun {m s} quiet h empty => by
      obtain ⟨goes, posts⟩ := handle_calm quiet h
      rw [empty] at posts
      exact ⟨goes.trans (callGoes_withInbox _ []), List.all_eq_true.mp posts⟩) n
    (List.all_eq_true.mp quiet) h
  exact (callGoes_withInbox s []).trans all

end Sys2Proof.Machine
end

section
/-! PROOFS. The start of an EMERGENCY call, whatever hunt and plan it finds (R36, R67 to R69, R87; O29). -/

namespace Sys2Proof.Machine

variable {s t u x : State}

/-! ### The fresh hunt (R36) -/

/-- Of the hunt the call's side holds the kind and whether it is IDLE, and nothing else. -/
theorem callSide_withHnt_congr {x y : Hnt} (e : callSide t = callSide s) (kind : y.kind = x.kind)
    (state : (y.state == .idle) = (x.state == .idle)) : callSide (t.withHnt y) = callSide (s.withHnt x) := by
  simp only [callSide, Prod.mk.injEq] at e
  obtain ⟨cal, _, _, call, link, beacon, posts⟩ := e
  simp only [callSide, State.withHnt_hnt, State.withHnt_cal, State.withHnt_bsu, State.withHnt_inbox, cal, call, link, beacon,
    posts, kind, state]

/-- A stop moves only the hunt on the call's side. -/
theorem hntStop_side_withHnt (h : Hnt) (s : State) : callSide ((hntStop s).withHnt h) = callSide (s.withHnt h) := by
  unfold hntStop
  split
  · rfl
  · have stopped : callSide (stopHuntTimers (releaseAll s)) = callSide s := by simp
    have last : callSide ((stopHuntTimers (releaseAll s)).withHnt h) = callSide (s.withHnt h) :=
      callSide_withHnt_congr stopped rfl rfl
    dsimp only
    split
    · exact (callSide_withHnt_congr (callSide_post rfl) rfl rfl).trans last
    · exact last

/-- A hunt of which the call's side sees that it is an EMERGENCY hunt and runs. -/
def emergencyHunt (h : Hnt) : Hnt := { h with kind := .emergency, state := .round }

theorem hntFresh_side (s : State) :
    callSide (hntFresh .emergency s) = callSide (s.withHnt (emergencyHunt s.hnt)) := by
  let u := post .calHuntStarted ((hntStop s).withHnt { (hntStop s).hnt with
    kind := .emergency, rounds := 0, counter := 0, form := 0, set := [], lastKeys := [], state := .round })
  have begun : callSide u = callSide (s.withHnt (emergencyHunt s.hnt)) :=
    (callSide_post rfl).trans ((hntStop_side_withHnt _ s).trans (callSide_withHnt_congr rfl rfl rfl))
  unfold hntFresh
  dsimp only
  split
  · exact (callSide_withHnt (s := u) rfl rfl).trans begun
  · exact (startRound_side (s := u) ⟨rfl, HuntState.noConfusion⟩).trans begun

/-! ### HUNTING is entered (R87) -/

theorem stateAudio_hunting_side (s : State) : callSide (stateAudio .hunting s) = callSide s := by
  have unlinked (s : State) : callSide (vswUnlink s) = callSide s := rfl
  simp [stateAudio, withdrawTones, unlinked]

theorem wchCallState_side (other : s.cal.ctx.state ≠ .idle) : callSide (wchCallState s) = callSide s := by
  unfold wchCallState
  dsimp only
  split
  next idle => exact absurd idle other
  · exact leaveDoze_side _

/-- HUNTING has been entered from `s`, and the lamps have followed. -/
structure EntersHunting (s t : State) : Prop where
  cal : t.cal = (writeState .hunting s).cal
  kind : t.hnt.kind = s.hnt.kind
  runs : (t.hnt.state == .idle) = (s.hnt.state == .idle)
  lamps : ∃ usable source, ∀ o, o ≠ .lampFault →
    t.bsu.outs.get o = reselect (selectPattern .hunting usable source o) (s.bsu.outs.get o)
  posts : t.inbox.all calm = s.inbox.all calm

theorem enter_hunting (s : State) : EntersHunting s (enter .hunting s) := by
  have audio := stateAudio_hunting_side (writeState .hunting s)
  generalize heard : stateAudio .hunting (writeState .hunting s) = a at audio
  obtain ⟨⟨_, _, _, cal, kind, runs, lamps⟩, posts⟩ := CalmStep.of_side audio
  have calA : a.cal = (writeState .hunting s).cal := congrArg (fun x => x.1) audio
  have stateA : a.cal.ctx.state = .hunting := by rw [calA]; rfl
  obtain ⟨outs, lit, follow⟩ := bsuCallState_eq a
  have linked : callSide (mlcCallState (a.withBsu { a.bsu with outs := outs })) =
      callSide (a.withBsu { a.bsu with outs := outs }) := (mlcCallState_link (LinkStep.refl _)).side
  have calM : (mlcCallState (a.withBsu { a.bsu with outs := outs })).cal = a.cal := congrArg (fun x => x.1) linked
  have whole : callSide (enter .hunting s) = callSide (a.withBsu { a.bsu with outs := outs }) := by
    rw [enter, heard, tellState, lit]
    exact (wchCallState_side (by rw [calM, stateA]; decide)).trans linked
  obtain ⟨goes, posts'⟩ := CalmStep.of_side whole
  refine ⟨(congrArg (fun x => x.1) whole).trans calA, goes.kind.trans kind, goes.runs.trans runs, ?_, posts'.trans posts⟩
  refine ⟨anyUsable a.mlc.modules, a.pln.source, fun o other => ?_⟩
  rw [goes.lamps o other]
  refine (follow o other).trans ?_
  rw [lamps o other, selectedPattern, stateA]
  rfl

/-! ### The call started (R67) -/

/-- CAL's record of a call that has started (R67, R69): from CALLBACK_WAIT the window has ended with it. -/
def startedCal (kind : CallKind) (s : State) : Cal :=
  let c := if s.cal.ctx.state = .callbackWait then stopCallback s else s
  let o := (openCall kind c).cal
  { o with ctx := { o.ctx with huntLink := .active, state := .hunting }, held7 := stateFlags .hunting }

/-- A call of a kind has started from `s`. -/
structure CallStarts (kind : CallKind) (s t : State) : Prop where
  cal : t.cal = startedCal kind s
  kind : t.hnt.kind = kind
  runs : t.hnt.state ≠ .idle
  lamps : ∃ usable source, ∀ o, o ≠ .lampFault →
    t.bsu.outs.get o = reselect (selectPattern .hunting usable source o) (s.bsu.outs.get o)
  posts : t.inbox.all calm = s.inbox.all calm
  cause : t.smp.causes.getLsbD 2 = true

theorem startCall_emergency (s : State) : CallStarts .emergency s (startCall .emergency s) := by
  generalize before : (if s.cal.ctx.state = .callbackWait then stopCallback s else s) = c
  have outs : c.bsu = s.bsu := by rw [← before]; split <;> rfl
  have inbox : c.inbox = s.inbox := by rw [← before]; split <;> rfl
  have opened : callSide (wchCallStart (openCall .emergency c)) = callSide (openCall .emergency c) := leaveDoze_side _
  have fresh : callSide (hntFresh .emergency (wchCallStart (openCall .emergency c))) =
      callSide ((openCall .emergency c).withHnt (emergencyHunt c.hnt)) :=
    (hntFresh_side _).trans (callSide_withHnt_congr opened rfl rfl)
  generalize hunt : hntFresh .emergency (wchCallStart (openCall .emergency c)) = h at fresh
  obtain ⟨goes, posts⟩ := CalmStep.of_side fresh
  have cal : h.cal = (openCall .emergency c).cal := congrArg (fun x => x.1) fresh
  have enters := enter_hunting (h.withCtx { h.cal.ctx with huntLink := .active })
  have whole : startCall .emergency s =
      raise .callStarted (enter .hunting (h.withCtx { h.cal.ctx with huntLink := .active })) := by
    rw [startCall]
    dsimp only
    rw [before, hunt]
  generalize enter .hunting (h.withCtx { h.cal.ctx with huntLink := .active }) = e at enters whole
  rw [whole]
  refine ⟨?_, enters.kind.trans goes.kind, fun idle => ?_, ?_, ?_, causeSet_own _ .callStarted⟩
  · refine enters.cal.trans ?_
    rw [startedCal, before, writeState, State.withCtx]
    simp only [State.withCal_cal, cal]
  · have runs : (e.hnt.state == .idle) = false := enters.runs.trans goes.runs
    have idle : e.hnt.state = .idle := idle
    rw [idle] at runs
    exact absurd runs (by decide)
  · obtain ⟨usable, source, lamps⟩ := enters.lamps
    refine ⟨usable, source, fun o other => (lamps o other).trans ?_⟩
    have same : h.bsu.outs.get o = s.bsu.outs.get o := by
      rw [goes.lamps o other, ← outs]
      rfl
    exact congrArg _ same
  · refine enters.posts.trans (posts.trans ?_)
    rw [← inbox]
    rfl

end Sys2Proof.Machine
end

section
/-! PROOFS. A CALL press and a PLACE EMERGENCY start a call (R67 to R69, R87; O29, the first two parts). -/

namespace Sys2Proof.Machine

variable {s t u x : State} {k : Fin 8}

/-! ### The call begun (R67) -/

theorem startedCal_ctx (kind : CallKind) (s : State) : (startedCal kind s).ctx = { s.cal.ctx with
    state := .hunting, sequence := s.cal.counter + 1, kind := kind, start := some s.clock, connect := none, serving := none
    message := .pending, flags := ⟨false, false, false, false, false, false⟩, reestablishes := 0, attempts := 0, rounds := 0
    backoff := 0, presses := 0, lastEnd := .none, summaries := PerPos.all none, huntLink := .active
    callback := if s.cal.ctx.state = .callbackWait then 0 else s.cal.ctx.callback } := by
  unfold startedCal
  dsimp only
  split <;> rfl

theorem startedCal_rest (kind : CallKind) (s : State) : (startedCal kind s).counter = s.cal.counter + 1 ∧
    (startedCal kind s).place = s.cal.place ∧
    (s.cal.ctx.state = .callbackWait → (startedCal kind s).callbackTimer = none) := by
  unfold startedCal
  dsimp only
  split
  · exact ⟨rfl, rfl, fun _ => rfl⟩
  next other => exact ⟨rfl, rfl, fun waits => absurd waits other⟩

/-- Two states of which a new call takes the same: the context, the call counter, the clock and the outputs. -/
structure SameStart (s x : State) : Prop where
  ctx : x.cal.ctx = s.cal.ctx
  counter : x.cal.counter = s.cal.counter
  clock : x.clock = s.clock
  outs : x.bsu.outs = s.bsu.outs

theorem CallStarts.hunting (h : CallStarts .emergency x u) : Hunting u where
  state := by rw [h.cal, startedCal_ctx]
  link := by rw [h.cal, startedCal_ctx]
  runs := ⟨h.kind, h.runs⟩

/-- A call that has started and gone on is the call of R67. -/
theorem CallStarts.begun {kind : CallKind} (h : CallStarts kind x u) (same : SameStart s x) (goes : CallGoes u t)
    (cause : t.smp.causes.getLsbD 2 = true) : CallBegun s t kind := by
  have fields : stateFields t.cal.ctx = stateFields (startedCal kind x).ctx := by rw [goes.fields, h.cal]
  rw [startedCal_ctx] at fields
  obtain ⟨counter, _, timer⟩ := startedCal_rest kind x
  have cal : t.cal.counter = u.cal.counter := by rw [goes.cal]
  have callback : t.cal.ctx.callback = (startedCal kind x).ctx.callback := by rw [goes.callback, h.cal]
  rw [startedCal_ctx] at callback
  simp only [stateFields, Context.mk.injEq, same.counter, same.clock] at fields
  obtain ⟨state, callKind, sequence, start, connect, serving, message, flags, reestablishes, _, _, _, _, presses, lastEnd, _⟩ :=
    fields
  have runs : t.hnt.state ≠ .idle := by
    rw [Ne, ← beq_iff_eq, goes.runs, beq_iff_eq]
    exact h.runs
  exact {
    state := state, callKind := callKind, sequence := sequence, start := start, connect := connect, serving := serving
    message := message, flags := flags, reestablishes := reestablishes, presses := presses, lastEnd := lastEnd
    huntLink := by rw [goes.link, h.cal, startedCal_ctx]
    hunt := ⟨goes.kind.trans h.kind, runs⟩
    started := cause
    counter := by rw [cal, h.cal, counter, same.counter]
    window := fun waits => by
      have waits : x.cal.ctx.state = .callbackWait := by rw [same.ctx, waits]
      refine ⟨?_, callback.trans (if_pos waits)⟩
      rw [goes.cal, h.cal]
      exact timer waits
    lamps := by
      obtain ⟨usable, source, lamps⟩ := h.lamps
      refine lampsFollow_of (u := usable) (y := source) fun o other => ?_
      rw [goes.lamps o other, lamps o other, same.outs] }

/-- CAL's event of a call's start, published. -/
theorem startEvent {f : State → State} (effect : f s = startCall .emergency x) :
    CallGoes (startCall .emergency x) (calEvent f s) ∧ (calEvent f s).inbox.all calm = x.inbox.all calm ∧
      (calEvent f s).smp.causes.getLsbD 2 = true := by
  have starts := startCall_emergency x
  have other : (f s).cal.ctx.state ≠ .clearing := by
    rw [effect, starts.hunting.state]
    decide
  rw [calEvent_other other, effect]
  generalize startCall .emergency x = v at starts
  have pending := publishCall_causes s.cal v (i := 2) starts.cause
  obtain ⟨g, c, e⟩ := publishCall_eq s.cal v
  rw [e] at pending ⊢
  exact ⟨⟨rfl, rfl, rfl, rfl, rfl, rfl, fun _ _ => rfl⟩, starts.posts, pending⟩

/-- The cascade of a call's start. -/
theorem start_drained (n : Nat) (same : SameStart s x) (goes : CallGoes (startCall .emergency x) u)
    (quiet : u.inbox.all calm = true) (cause : u.smp.causes.getLsbD 2 = true) :
    CallBegun s (drain n u) .emergency ∧ (drain n u).cal.place = x.cal.place ∧ (drain n u).bsu.call = u.bsu.call := by
  have starts := startCall_emergency x
  have all := goes.trans (drain_calm n (starts.hunting.goes goes) quiet)
  refine ⟨starts.begun same all (drain_causes n u cause), ?_, (drain_evolves (Evolves.refl u)).call⟩
  obtain ⟨_, place, _⟩ := startedCal_rest .emergency x
  rw [all.cal, starts.cal]
  exact place

/-! ### The CALL press (R69, R180) -/

theorem takePress_starts (state : x.cal.ctx.state = .idle ∨ x.cal.ctx.state = .callbackWait) (flags : flagsSound x = true) :
    takePress x = startCall .emergency x := by
  have run : transition none pressEffect x = pressEffect x := transition_sound flags
  have effect : pressEffect x = startCall .emergency x := by
    rw [pressEffect]
    rcases state with e | e <;> rw [e]
  rw [takePress]
  rcases state with e | e <;> rw [e] <;> exact run.trans effect

theorem callPress_starts (quiet : s.inbox = []) (state : s.cal.ctx.state = .idle ∨ s.cal.ctx.state = .callbackWait)
    (flags : flagsSound s = true) (level : s.bsu.call.level = false) :
    ∃ t, exec .callPress s = .next t ∧ CallBegun s t .emergency ∧ t.bsu.call = ⟨true, 0⟩ := by
  let x := (s.withBsu { s.bsu with call := ⟨true, 0⟩ }).withInbox []
  obtain ⟨goes, posts, cause⟩ := startEvent (takePress_starts (x := x) state flags)
  have call : (calEvent takePress x).bsu.call = ⟨true, 0⟩ :=
    (handle_evolves (m := .calPress) (Evolves.refl x)).call
  have run : exec .callPress s = settled (acceptCall true s) := by
    change settled (if s.bsu.call.level then s else acceptCall true s) = _
    rw [level]
    rfl
  have inbox : (acceptCall true s).inbox = [.calPress, .plnPress] := by
    change s.inbox ++ [.calPress, .plnPress] = _
    rw [quiet]
    rfl
  have first : drain 1000 (acceptCall true s) = drain 999 (drainOne .calPress [.plnPress] (acceptCall true s)) :=
    drain_cons 999 inbox
  have one : drainOne .calPress [.plnPress] (acceptCall true s) =
      (calEvent takePress x).withInbox (inboxAfter (calEvent takePress x).inbox [.plnPress]) := rfl
  generalize calEvent takePress x = e at goes posts cause call one
  have posts : e.inbox.all calm = true := posts
  have calmAll : (inboxAfter e.inbox [.plnPress]).all calm = true := by
    rw [List.all_eq_true] at posts ⊢
    intro m there
    rcases mem_inboxAfter there with new | old
    · exact posts m new
    · rw [List.mem_singleton.mp old]
      rfl
  have same : SameStart s x := ⟨rfl, rfl, rfl, rfl⟩
  obtain ⟨begun, _, kept⟩ := start_drained 999 same
    (goes.trans (callGoes_withInbox e (inboxAfter e.inbox [.plnPress]))) calmAll cause
  rw [one] at first
  exact ⟨_, run.trans (congrArg Host.Outcome.next first), begun, kept.trans call⟩

/-! ### The PLACE order (R68) -/

theorem exec_placeOrder (ready : orderReady s k 1 = true) : exec .placeOrder s =
    settled (calEvent (takePlace (nextHeld s k) (placeCallKind (firstParameter (takeSlot k s).2 k))) (takeSlot k s).2) := by
  change settled (takeOrder 1 ownerPlace s) = _
  rw [takeOrder_ready ownerPlace ready]
  rfl

/-- A PLACE EMERGENCY in IDLE or CALLBACK_WAIT starts the call, and stays with CAL. -/
theorem takePlace_emergency (h : Held) (state : u.cal.ctx.state = .idle ∨ u.cal.ctx.state = .callbackWait)
    (flags : flagsSound u = true) :
    takePlace h .emergency u = startCall .emergency (u.withCal { u.cal with place := some h }) := by
  have run : transition none (startCall .emergency) (u.withCal { u.cal with place := some h }) =
      startCall .emergency (u.withCal { u.cal with place := some h }) := transition_sound flags
  rw [takePlace, if_pos state]
  exact (if_neg fun both => CallKind.noConfusion both.1).trans run

theorem placeEmergency_starts (quiet : s.inbox = []) (state : s.cal.ctx.state = .idle ∨ s.cal.ctx.state = .callbackWait)
    (flags : flagsSound s = true) (ready : orderReady s k 1 = true) (parameter : firstParameter s k = 0) :
    ∃ t, exec .placeOrder s = .next t ∧ CallBegun s t .emergency ∧ t.cal.place = some (nextHeld s k) := by
  have run := exec_placeOrder ready
  rw [firstParameter_takeSlot, parameter] at run
  let x := (takeSlot k s).2.withCal { s.cal with place := some (nextHeld s k) }
  obtain ⟨goes, posts, cause⟩ := startEvent (x := x)
    (takePlace_emergency (u := (takeSlot k s).2) (nextHeld s k) state flags)
  have run : exec .placeOrder s = settled (calEvent (takePlace (nextHeld s k) .emergency) (takeSlot k s).2) := run
  have inbox : x.inbox = [] := quiet
  have same : SameStart s x := ⟨rfl, rfl, rfl, rfl⟩
  have place : x.cal.place = some (nextHeld s k) := rfl
  generalize calEvent (takePlace (nextHeld s k) .emergency) (takeSlot k s).2 = e at goes posts cause run
  rw [inbox] at posts
  obtain ⟨begun, kept, _⟩ := start_drained Config.cascadeFuel same goes posts cause
  exact ⟨_, run, begun, kept.trans place⟩

end Sys2Proof.Machine
end

section
/-! PROOFS. A call that starts while a module wakes: its hunt stands in the wake wait (R36, R37; O29, the last part). -/

namespace Sys2Proof.Machine

variable {s t u x : State} {k : Fin 8} {kind : CallKind}

/-! ### The hunt in the wake wait (R36, R37) -/

/-- A fresh hunt in the wake wait before round 1 (R36, R37). -/
def wakeWaitHunt (kind : CallKind) (h : Hnt) : Hnt :=
  { h with
    state := .round, kind := kind, rounds := 0, form := 0, set := [], lastKeys := [], counter := 0, wakeWait := some 5000 }

/-- No module can launch, and one that could is waking (R37). -/
structure WaitsForWake (s : State) : Prop where
  rests : s.hnt.state = .idle
  count : usableCount s = 0
  wake : wakeInProgress s = true

theorem hntFresh_wakeWait (h : WaitsForWake s) : hntFresh kind s =
    (s.withHnt (wakeWaitHunt kind s.hnt)).withInbox (s.inbox ++ [.calHuntStarted]) := by
  have stop : hntStop s = s := if_pos h.rests
  unfold hntFresh
  rw [stop]
  dsimp only
  exact if_pos ⟨h.count, h.wake⟩

theorem stateAudio_hunting_eq (sound : s.pln.damaged = []) : ∃ v, stateAudio .hunting s = s.withVsw v := by
  obtain ⟨v, tones, _⟩ := withdrawTones_eq sound
  obtain ⟨w, reassured, _⟩ := vswTone_eq .reassure true (s := vswUnlink (s.withVsw v)) sound
  refine ⟨{ w with uplinkMute := false, downlinkMute := false }, ?_⟩
  simp only [stateAudio, tones, reassured]
  rfl

/-! ### The call that starts so (R67) -/

/-- A call that has started with its hunt in the wake wait. -/
def wakeWaiting (kind : CallKind) (v : Vsw) (outs : PerOut OutputState) (modules : PerPos Module) (s : State) : State :=
  raise .callStarted (entered .hunting (startedCal kind s) v outs modules
    ((s.withHnt (wakeWaitHunt kind s.hnt)).withInbox (s.inbox ++ [.calHuntStarted])))

theorem startCall_wakeWait (sound : s.pln.damaged = []) (awake : s.wch.doze = false) (h : WaitsForWake s) :
    ∃ v outs modules, startCall kind s = wakeWaiting kind v outs modules s ∧ LampsOf .hunting s outs := by
  obtain ⟨c, before, onlyCal⟩ : ∃ c, (if s.cal.ctx.state = .callbackWait then stopCallback s else s) = s.withCal c ∧
      (openCall kind (s.withCal c)).cal =
        (openCall kind (if s.cal.ctx.state = .callbackWait then stopCallback s else s)).cal := by
    split
    · exact ⟨_, rfl, rfl⟩
    · exact ⟨s.cal, rfl, rfl⟩
  have opened : wchCallStart (openCall kind (s.withCal c)) = openCall kind (s.withCal c) := if_neg (by
    rw [show (openCall kind (s.withCal c)).wch.doze = s.wch.doze from rfl, awake]
    decide)
  have fresh := hntFresh_wakeWait (kind := kind) (s := openCall kind (s.withCal c)) ⟨h.rests, h.count, h.wake⟩
  let y := (hntFresh kind (openCall kind (s.withCal c))).withCtx
    { (hntFresh kind (openCall kind (s.withCal c))).cal.ctx with huntLink := .active }
  have shape : y = ((s.withCal { (openCall kind (s.withCal c)).cal with
      ctx := { (openCall kind (s.withCal c)).cal.ctx with huntLink := .active } }).withHnt
        (wakeWaitHunt kind s.hnt)).withInbox (s.inbox ++ [.calHuntStarted]) := by
    simp only [y, fresh]
    rfl
  obtain ⟨v, audio⟩ := stateAudio_hunting_eq (s := writeState .hunting y) (by rw [shape]; exact sound)
  obtain ⟨outs, modules, entry, lamps⟩ := enter_entered audio (by rw [shape]; exact awake)
    (fun e => CallState.noConfusion e) (fun e => CallState.noConfusion e)
  refine ⟨v, outs, modules, ?_, by rw [shape] at lamps; exact lamps⟩
  have start : startCall kind s = raise .callStarted (enter .hunting y) := by
    rw [startCall]
    dsimp only
    rw [before, opened]
  rw [start, entry, shape, wakeWaiting, startedCal]
  dsimp only
  rw [onlyCal.symm]
  rfl

theorem wakeWaiting_keeps (kind : CallKind) (v : Vsw) (outs : PerOut OutputState) (modules : PerPos Module) (s : State) :
    (wakeWaiting kind v outs modules s).cal = startedCal kind s ∧
    (wakeWaiting kind v outs modules s).hnt = wakeWaitHunt kind s.hnt ∧
    (wakeWaiting kind v outs modules s).bsu.outs = outs ∧
    (wakeWaiting kind v outs modules s).inbox = s.inbox ++ [.calHuntStarted] ∧
    (wakeWaiting kind v outs modules s).smp.causes.getLsbD 2 = true := by
  refine ⟨?_, ?_, ?_, ?_, causeSet_own _ .callStarted⟩ <;> simp [wakeWaiting, entered, raise]

/-- A call whose start leaves no more than word of the hunt's: what the command answers. -/
structure SettledStart (kind : CallKind) (x t : State) : Prop where
  begun : ∀ s, SameStart s x → CallBegun s t kind
  place : t.cal.place = x.cal.place
  hnt : t.hnt = wakeWaitHunt kind x.hnt
  attempts : t.cal.ctx.attempts = 0
  rounds : t.cal.ctx.rounds = 0
  backoff : t.cal.ctx.backoff = 0
  summaries : t.cal.ctx.summaries = ⟨none, none, none⟩

theorem startEvent_wakeWait {f : State → State} (effect : f u = startCall kind x) (quiet : x.inbox = [])
    (sound : x.pln.damaged = []) (awake : x.wch.doze = false) (h : WaitsForWake x) :
    ∃ t, settled (calEvent f u) = .next t ∧ SettledStart kind x t := by
  obtain ⟨v, outs, modules, whole, lamps⟩ := startCall_wakeWait (kind := kind) sound awake h
  obtain ⟨cal, hnt, lit, inbox, cause⟩ := wakeWaiting_keeps kind v outs modules x
  rw [whole] at effect
  rw [quiet, List.nil_append] at inbox
  generalize wakeWaiting kind v outs modules x = y at *
  have starts : CallStarts kind x y := {
    cal := cal, cause := cause
    kind := by rw [hnt]; rfl
    runs := by rw [hnt]; exact HuntState.noConfusion
    lamps := ⟨_, _, fun o other => by rw [lit]; exact lamps o other⟩
    posts := by
      rw [inbox, quiet]
      rfl }
  have other : (f u).cal.ctx.state ≠ .clearing := by
    rw [effect, cal, startedCal_ctx]
    exact CallState.noConfusion
  have pending := publishCall_causes u.cal y cause
  obtain ⟨g, c, published⟩ := publishCall_eq u.cal y
  rw [← effect, ← calEvent_other other] at pending published
  rw [effect] at published
  have posted : (calEvent f u).inbox = [.calHuntStarted] := by rw [published]; exact inbox
  have state : (calEvent f u).cal.ctx.state ≠ .clearing := by
    rw [published]
    exact effect ▸ other
  obtain ⟨g', c', settles⟩ := settled_shows (s := calEvent f u) posted (by simp [shows]) (by simp) (Or.inl state)
  have final := drain_causes Config.cascadeFuel (calEvent f u) pending
  rw [← settled_eq settles] at final
  generalize calEvent f u = e at *
  subst published
  obtain ⟨_, place, _⟩ := startedCal_rest kind x
  refine ⟨_, settles, ?_⟩
  exact {
    begun := fun s same => starts.begun same (by exact ⟨rfl, rfl, rfl, rfl, rfl, rfl, fun _ _ => rfl⟩) final
    place := (congrArg Cal.place cal).trans place
    hnt := hnt
    attempts := rfl
    rounds := rfl
    backoff := (congrArg (fun c => c.ctx.backoff) cal).trans (by rw [startedCal_ctx])
    summaries := (congrArg (fun c => c.ctx.summaries) cal).trans (by rw [startedCal_ctx]; rfl) }

/-! ### The PLACE order while a module wakes (R68) -/

theorem takePlace_starts (h : Held) (state : u.cal.ctx.state = .idle ∨ u.cal.ctx.state = .callbackWait)
    (flags : flagsSound u = true) (sound : u.pln.damaged = [])
    (dial : kind = .test → u.pln.plan.lists.testDial ≠ none) :
    takePlace h kind u = startCall kind (u.withCal { u.cal with place := some h }) := by
  have run : transition none (startCall kind) (u.withCal { u.cal with place := some h }) =
      startCall kind (u.withCal { u.cal with place := some h }) := transition_sound flags
  have read : (if kind = .test then touch 4 u else u) = u := by
    split
    · exact touch_sound sound 4
    · rfl
  rw [takePlace, if_pos state]
  dsimp only
  rw [read]
  exact (if_neg fun both => dial both.1 both.2).trans run

theorem place_waitsForWake (quiet : s.inbox = []) (state : s.cal.ctx.state = .idle ∨ s.cal.ctx.state = .callbackWait)
    (flags : flagsSound s = true) (ready : orderReady s k 1 = true) (parameter : placeCallKind (firstParameter s k) = kind)
    (dial : kind = .test → s.pln.plan.lists.testDial ≠ none) (sound : s.pln.damaged = []) (awake : s.wch.doze = false)
    (h : WaitsForWake s) : ∃ x t, exec .placeOrder s = .next t ∧ SettledStart kind x t ∧ SameStart s x ∧
      x.cal.place = some (nextHeld s k) ∧ x.hnt = s.hnt := by
  have run := exec_placeOrder ready
  rw [firstParameter_takeSlot, parameter] at run
  obtain ⟨t, settles, started⟩ := startEvent_wakeWait
    (takePlace_starts (u := (takeSlot k s).2) (nextHeld s k) state flags sound dial) quiet sound awake
    ⟨h.rests, h.count, h.wake⟩
  exact ⟨_, t, run.trans settles, started, ⟨rfl, rfl, rfl, rfl⟩, rfl, rfl⟩

/-- Settles O29: the two EMERGENCY starts by the cascade that keeps a call hunting, the wake wait step by step. -/
theorem pressOrPlaceStartsACall : Obligations.PressOrPlaceStartsACall := by
  intro s quiet state flags
  refine ⟨callPress_starts quiet state flags, fun k => placeEmergency_starts quiet state flags,
    fun k kind ready asked sound awake rests none count wake => ?_⟩
  have parameter : placeCallKind (firstParameter s k) = kind := by
    rcases asked with ⟨code, rfl⟩ | ⟨code, rfl, _⟩ <;> rw [code] <;> rfl
  have dial : kind = .test → s.pln.plan.lists.testDial ≠ .none := by
    rcases asked with ⟨_, rfl⟩ | ⟨_, _, dial⟩
    · exact fun test => CallKind.noConfusion test
    · exact fun _ => dial
  obtain ⟨x, t, run, started, same, place, hnt⟩ := place_waitsForWake quiet state flags ready parameter dial sound awake
    ⟨rests, count, wake⟩
  have hunt : t.hnt = wakeWaitHunt kind s.hnt := by rw [started.hnt, hnt]
  refine ⟨t, run, started.begun s same, started.place.trans place, hunt, ?_, started.attempts, started.rounds, started.backoff,
    started.summaries⟩
  have records (p : Pos) : t.record p = s.record p := by rw [State.record, hunt]; rfl
  simp only [noRecord, records]
  exact none

end Sys2Proof.Machine
end

section
/-! PROOFS. CAL's record through what the other blocks do: they leave it alone (O11). -/

namespace Sys2Proof.Machine

variable {s t : State} {p : Pos}

/-! ### The operations below the call -/

theorem cal_of_side (h : callSide t = callSide s) : t.cal = s.cal := congrArg Prod.fst h

@[simp] theorem touch_cal (i : Nat) (s : State) : (touch i s).cal = s.cal := cal_of_side (touch_side i s)

@[simp] theorem touchAll_cal (is : List Nat) (s : State) : (touchAll is s).cal = s.cal := cal_of_side (touchAll_side is s)

@[simp] theorem vswTone_cal (x : Tone) (present : Bool) (s : State) : (vswTone x present s).cal = s.cal :=
  cal_of_side (vswTone_side x present s)

@[simp] theorem vswLink_cal (p : Pos) (s : State) : (vswLink p s).cal = s.cal := by
  unfold vswLink
  split
  · rfl
  · dsimp only
    split <;> simp

/-! ### HNT's answers (R50, R55, R58, R59) -/

theorem winAttempt_cal (p : Pos) (a : Attempt) (s : State) : (winAttempt p a s).cal = s.cal := by
  unfold winAttempt
  dsimp only
  have before : (ctuOutcome .connected a.key (passAnswered p a .connected s)).cal = s.cal :=
    (ctuOutcome_below (passAnswered_below (Below.refl s))).cal
  generalize ctuOutcome .connected a.key (passAnswered p a .connected s) = u at before
  exact (releaseAll_below (becomeWon_below (Below.refl ((post (.calWinner a.key) u).withRecord p none)))).cal.trans before

theorem takeAnswer_cal (p : Pos) (a : Attempt) (s : State) : (takeAnswer p a s).cal = s.cal := by
  unfold takeAnswer
  split
  · exact (recordChecks_below (releaseSurplus_below (Below.refl s).withRecord)).cal
  · rfl
  · split
    · exact (recordChecks_below (beginRelease_below (passAnswered_below (Below.refl s)))).cal
    · exact winAttempt_cal p a s

theorem applyEvent_cal (p : Pos) (a : Attempt) (e : ModuleEvent) (s : State) : (applyEvent p a e s).cal = s.cal := by
  unfold applyEvent
  split
  · split
    · exact (putRecord_below (Below.refl s)).cal
    · rfl
  · split
    · exact (putRecord_below (touch_below (Below.refl s))).cal
    · rfl
  · exact takeAnswer_cal p a s
  · exact (endByEvent_below (Below.refl s)).cal
  · exact (endByEvent_below (Below.refl s)).cal
  · rfl

theorem takeStrayAnswer_cal (p : Pos) (s : State) : (takeStrayAnswer p s).cal = s.cal := by
  have marked := strayRelease_below (p := p) (Below.refl s)
  unfold takeStrayAnswer
  dsimp only
  split
  · exact (huntChecks_below marked).cal
  · exact marked.cal

theorem hntTakeEvent_cal (p : Pos) (e : ModuleEvent) (s : State) : (hntTakeEvent p e s).cal = s.cal := by
  unfold hntTakeEvent
  split
  · exact applyEvent_cal p _ e s
  · split
    · exact takeStrayAnswer_cal p s
    · rfl

/-! ### Requests and results (R140) -/

theorem deliverTo_cal (req : Request) (r : LinkResult) (o : Requester) (s : State) :
    (deliverTo req r o s).cal = s.cal := by
  cases o with
  | mlc => exact (mlcOwnResult_link (LinkStep.refl s)).cal
  | _ => rfl

@[simp] theorem deliver_cal (req : Request) (r : LinkResult) (s : State) : (deliver req r s).cal = s.cal := by
  have all (os : List Requester) (s : State) : (deliverAll req r os s).cal = s.cal := by
    induction os generalizing s with
    | nil => rfl
    | cons o os ih => exact (ih _).trans (deliverTo_cal req r o s)
  exact all req.owners s

theorem takeHeads_cal (n : Nat) (s : State) : (takeHeads n s).cal = s.cal := by
  induction n generalizing s with
  | zero => rfl
  | succ n ih =>
    unfold takeHeads
    split
    · rfl
    · dsimp only
      split
      · rfl
      · exact (ih _).trans (deliver_cal ..)

theorem linkFailed_cal (x : Transaction) (error : Nat) (s : State) : (linkFailed x error s).cal = s.cal := by
  unfold linkFailed
  dsimp only
  generalize told : deliver x.req .linkFailed _ = u
  have cal : u.cal = s.cal := by
    rw [← told, deliver_cal, (reportFault_link (LinkStep.refl _)).cal]
    rfl
  rw [← cal]
  split
  · split
    · exact (enterFailed_link (LinkStep.refl u)).cal
    · rfl
  · split
    · exact (thirdFailure_link (LinkStep.refl u)).cal
    · rfl

@[simp] theorem failTry_cal (x : Transaction) (error : Nat) (s : State) : (failTry x error s).cal = s.cal := by
  unfold failTry
  split
  · exact linkFailed_cal x error s
  · rfl

theorem onReply_cal {f : Transaction → State → State} (h : ∀ x s, (f x s).cal = s.cal) (kind : Nat) (s : State) :
    (onReply kind f s).cal = s.cal := by
  unfold onReply
  split
  · rfl
  · split
    · exact h _ s
    · exact failTry_cal ..

theorem failAwaited_cal (s : State) (error : Nat) :
    (match awaited s with | some x => failTry x error s | none => s).cal = s.cal := by
  split
  · exact failTry_cal ..
  · rfl

theorem replyOkModule_cal (p : Pos) (kind : ReqKind) (s : State) : (replyOkModule p kind s).cal = s.cal := by
  unfold replyOkModule
  split
  · split
    · exact (enterAsleep_link (LinkStep.refl s)).cal
    · rfl
  · split
    · exact (enterBoot_link (LinkStep.refl s)).cal
    · rfl
  · rfl

theorem takeStatus_cal (r : CellReport) (x : Transaction) (s : State) : (takeStatus r x s).cal = s.cal := by
  have taken := ctuIntake_lower (p := x.req.pos) (reports := [r]) (Lower.refl (endSuccess x s))
  have cal : (ctuIntake x.req.pos [r] (endSuccess x s)).cal = s.cal := taken.cal
  unfold takeStatus
  dsimp only
  split
  · exact (enterService_link (LinkStep.refl _)).cal.trans cal
  · exact cal

theorem takeBatch_cal (batch : Byte) (records : List EventRecord) (x : Transaction) (s : State) :
    (takeBatch batch records x s).cal = s.cal := by
  have polled (u : State) : (if (u.module x.req.pos).atn ∧ (u.module x.req.pos).state = .inService
      then queuePoll x.req.pos u else u).cal = u.cal := by
    split
    · exact (queuePoll_link (LinkStep.refl u)).cal
    · rfl
  unfold takeBatch
  dsimp only
  split
  · exact (polled _).trans rfl
  · exact (polled _).trans rfl

/-! ### Orders (R158, R169, R173) -/

theorem takeLoadPlan_cal (held : Held) (persist : Bool) (s : State) : (takeLoadPlan held persist s).cal = s.cal := by
  unfold takeLoadPlan
  split
  · rfl
  · exact complete_cal ..

theorem returning_cal (p : Pos) (s : State) : (returning p s).cal = s.cal := by
  unfold returning setReturnRole
  dsimp only
  split
  · split
    · exact (changeRole_link (LinkStep.refl _)).cal.trans (touch_cal 34 s)
    · split
      · exact (changeRole_link (LinkStep.refl _)).cal.trans rfl
      · rfl
  · rfl

theorem cutTransaction_cal (p : Pos) (s : State) : (cutTransaction p s).cal = s.cal := by
  unfold cutTransaction
  split
  · split
    · exact deliver_cal ..
    · rfl
  · rfl

theorem takeOut_cal (held : Held) (p : Pos) (s : State) : (takeOut held p s).cal = s.cal := by
  have out := (changeState_link (p := p) (new := .outOfService) (LinkStep.refl (cutTransaction p s))).cal.trans
    (cutTransaction_cal p s)
  unfold takeOut
  split
  · exact complete_cal ..
  · refine (complete_cal ..).trans ?_
    split
    · exact (substitute_link (LinkStep.refl _)).cal.trans out
    · exact out

theorem bringBack_cal (held : Held) (p : Pos) (s : State) : (bringBack held p s).cal = s.cal := by
  unfold bringBack
  split
  · exact (enterBoot_link (time := Config.bootTime) (LinkStep.refl _)).cal.trans (returning_cal p s)
  · exact complete_cal ..

theorem restartModule_cal (held : Held) (p : Pos) (s : State) : (restartModule held p s).cal = s.cal := by
  unfold restartModule
  split
  · exact complete_cal ..
  · exact (enterReset_link (LinkStep.refl _)).cal.trans ((returning_cal p _).trans (cutTransaction_cal p s))

theorem takeModuleOrder_cal (held : Held) (p : Pos) (action : ModuleAction) (s : State) :
    (takeModuleOrder held p action s).cal = s.cal := by
  unfold takeModuleOrder
  dsimp only
  split
  · exact complete_cal ..
  · split
    · exact complete_cal ..
    · cases action with
      | outOfService => exact takeOut_cal held p s
      | inService => exact bringBack_cal held p s
      | restart => exact restartModule_cal held p s

/-! ### PLN (R177, R178, R180) -/

theorem installAndRelease_cal (plan : Plan) (source : PlanSource) (s : State) :
    (installAndRelease plan source s).cal = s.cal := by
  have installed := (install_lower (plan := plan) (source := source) (Lower.refl s)).cal
  unfold installAndRelease
  dsimp only
  split
  · exact (releaseModules_link (LinkStep.refl _)).cal.trans installed
  · exact installed

@[simp] theorem completeLoad_cal (o : OrderOutcome) (detail : Word) (s : State) : (completeLoad o detail s).cal = s.cal :=
  (completeIfHeld_link (LinkStep.refl s)).cal

theorem setStoreState_cal (x : StoreState) (s : State) : (setStoreState x s).cal = s.cal :=
  (setStoreState_lower (Lower.refl s)).cal

theorem loadImage_cal (raw : List Byte) (c : Copy) (s : State) : (loadImage raw c s).cal = s.cal := by
  unfold loadImage
  dsimp only
  split
  · exact (setStoreState_cal ..).trans (installAndRelease_cal ..)
  · exact (completeLoad_cal ..).trans (installAndRelease_cal ..)

theorem plnCopyCompletion_cal (s : State) : (plnCopyCompletion s).cal = s.cal := by
  unfold plnCopyCompletion
  split
  · dsimp only
    split
    · exact completeLoad_cal ..
    · split
      · exact completeLoad_cal ..
      · exact loadImage_cal ..
  · rfl

theorem storeFails_cal (detail : Nat) (s : State) : (storeFails detail s).cal = s.cal :=
  (completeLoad_cal ..).trans ((reportFault_link (LinkStep.refl _)).cal.trans (setStoreState_cal ..))

theorem plnEraseDone_cal (blank : Bool) (s : State) : (plnEraseDone blank s).cal = s.cal := by
  unfold plnEraseDone
  split
  · split
    · rfl
    · split
      · rfl
      · exact storeFails_cal ..
  · rfl

theorem plnProgramDone_cal (matched : Bool) (s : State) : (plnProgramDone matched s).cal = s.cal := by
  unfold plnProgramDone
  split
  · dsimp only
    split
    · rfl
    · split
      · rfl
      · exact storeFails_cal ..
  · rfl

theorem plnCompleteDone_cal (s : State) : (plnCompleteDone s).cal = s.cal := by
  unfold plnCompleteDone
  split
  · exact (completeLoad_cal ..).trans (setStoreState_cal ..)
  · rfl

theorem plnMarkerDone_cal (s : State) : (plnMarkerDone s).cal = s.cal := by
  unfold plnMarkerDone
  split <;> rfl

/-! ### The host's writes, and a reset -/

theorem foldl_cal {f : State → Fin 8 → State} (h : ∀ s k, (f s k).cal = s.cal) (ks : List (Fin 8)) (s : State) :
    (ks.foldl f s).cal = s.cal := by
  induction ks generalizing s with
  | nil => rfl
  | cons k ks ih => exact (ih _).trans (h s k)

theorem offerSlot_cal (s : State) (k : Fin 8) : (offerSlot s k).cal = s.cal := by
  unfold offerSlot
  split
  · rfl
  · exact (reportFault_link (LinkStep.refl s)).cal

theorem giveBackSlot_cal (s : State) (k : Fin 8) : (giveBackSlot s k).cal = s.cal := by
  unfold giveBackSlot
  split <;> rfl

theorem trespass_cal (region : Nat) (a : BitVec 12) (s : State) : (trespass region a s).cal = s.cal := by
  have reported := (raise_link (c := .trespass) (reportFault_link (kind := .trespass) (pos := none) (detail := region)
    (address := some a) (LinkStep.refl s))).cal
  unfold trespass noteTrespass
  dsimp only
  split
  · split <;> exact reported
  · exact reported

theorem resetPart_cal (straps : Straps) (pins : Pins) (mem : List Host.Cell) (s : State) :
    (resetPart straps pins mem s).cal = resetCal := by
  have started (u : State) : (startUp u).cal = u.cal := by
    unfold startUp
    split
    · split
      · exact (releaseModules_link (LinkStep.refl _)).cal.trans (install_lower (Lower.refl u)).cal
      · rfl
    · rfl
  exact started (blocksAtReset straps pins mem s)

/-! ### The box inputs (R118, R127) -/

theorem acceptQuiet_cal (active : Bool) (s : State) : (acceptQuiet active s).cal = s.cal := by
  unfold acceptQuiet
  dsimp only
  split
  · exact touch_cal ..
  · rfl

theorem sampled_cal (pins : Pins) (s : State) :
    (sampleQuiet pins.quiet (sampleDoor pins.door (sampleHook pins.hook (sampleCall pins.call s)))).cal = s.cal := by
  have call : (sampleCall pins.call s).cal = s.cal := by
    unfold sampleCall
    dsimp only
    split <;> rfl
  have hook (u : State) : (sampleHook pins.hook u).cal = u.cal := by
    unfold sampleHook
    dsimp only
    split
    · split <;> rfl
    · rfl
  have door (u : State) : (sampleDoor pins.door u).cal = u.cal := by
    unfold sampleDoor
    dsimp only
    split <;> rfl
  have quiet (u : State) : (sampleQuiet pins.quiet u).cal = u.cal := by
    unfold sampleQuiet
    dsimp only
    split
    · exact acceptQuiet_cal ..
    · rfl
  rw [quiet, door, hook, call]

theorem writeLamps_cal (v : Word) (s : State) : (writeLamps v s).cal = s.cal := by
  have one (o : Output) (u : State) : (writeLamp v o u).cal = u.cal := by
    unfold writeLamp
    split <;> rfl
  simp only [writeLamps, one]

theorem damagePlan_cal (index : Nat) (s : State) : (damagePlan index s).cal = s.cal := by
  have read (u : State) : (if index = 35 ∧ u.bsu.quiet.level then touch 35 u else u).cal = u.cal := by
    split
    · exact touch_cal ..
    · rfl
  exact read _

/-! ### Timers (R110, R113, R143, R144, R149) -/

theorem vswGapExpiry_cal (s : State) : (vswGapExpiry s).cal = s.cal := by
  unfold vswGapExpiry
  split <;> rfl

theorem vswPhaseExpiry_cal (s : State) : (vswPhaseExpiry s).cal = s.cal := by
  unfold vswPhaseExpiry
  split
  · split
    · split
      · exact vswTone_cal ..
      · rfl
    · exact cal_of_side (cadenceStart_side ..)
  · rfl

/-- At a poll timer's expiry MLC queues a POLL, and its SLEEP where that is to be queued again. -/
theorem polled_cal (p : Pos) (s : State) :
    (if (s.module p).poll.isSome then
      let s := queuePoll p s
      let s := s.withModule p { s.module p with poll := some (longTimer (currentPollInterval s)) }
      let m := s.module p
      if m.sleepAgain ∧ m.role = .spare ∧ m.state = .inService then queueSpareSleep p s else s
    else s).cal = s.cal := by
  have queued : (queuePoll p s).cal = s.cal := (queuePoll_link (LinkStep.refl s)).cal
  split
  · dsimp only
    split
    · exact (queueSpareSleep_link (LinkStep.refl _)).cal.trans queued
    · exact queued
  · rfl

theorem pulsed_cal (p : Pos) (s : State) :
    (if (s.module p).pulse.isSome then
      match (s.module p).state with
      | .suspect => enterBoot p Config.bootTime s
      | .booting .reset => endResetPhase p s
      | _ => s
    else s).cal = s.cal := by
  split
  · split
    · exact (enterBoot_link (LinkStep.refl s)).cal
    · rfl
    · rfl
  · rfl

theorem atnAsserted_cal (p : Pos) (s : State) :
    (if (s.module p).atn then s
    else
      let s := s.withModule p { s.module p with atn := true }
      if (s.module p).state = .inService then
        let s := queuePoll p s
        s.withModule p { s.module p with poll := some (longTimer (currentPollInterval s)) }
      else s).cal = s.cal := by
  split
  · rfl
  · dsimp only
    split
    · exact (queuePoll_link (LinkStep.refl (s.withModule p { s.module p with atn := true }))).cal
    · rfl

end Sys2Proof.Machine
end

section
/-! PROOFS. A clearing that is over does not stand: CAL's event takes its end, and nothing else brings one (R83; O11). -/

namespace Sys2Proof.Machine

variable {s t : State}

/-! ### CAL's record on the entry to a state (R87, R200) -/

theorem stateAudio_cal (x : CallState) (s : State) : (stateAudio x s).cal = s.cal := by
  have tones (u : State) : (withdrawTones u).cal = u.cal := by simp [withdrawTones]
  have link (u : State) : (match servingPos u.cal.ctx.serving with | some p => vswLink p u | none => u).cal = u.cal := by
    split <;> simp
  cases x with
  | locating => exact (link _).trans (tones s)
  | talk => exact (vswTone_cal ..).trans ((link _).trans (tones s))
  | hunting | reestablishing => exact (vswTone_cal ..).trans (tones s)
  | idle | clearing | callbackWait => exact tones s

theorem tellState_cal (s : State) : (tellState s).cal = s.cal :=
  (wchCallState_below (Below.refl _)).cal.trans (mlcCallState_link (LinkStep.refl (bsuCallState s))).cal

/-- CAL's record with the call's state written. -/
theorem enter_cal (x : CallState) (s : State) : (enter x s).cal =
    { s.cal with ctx := { s.cal.ctx with state := x }, held7 := stateFlags x } :=
  (tellState_cal _).trans (stateAudio_cal x (writeState x s))

theorem flagsSet_stateFlags (x : CallState) : flagsSet (stateFlags x) = 1 := by
  cases x <;> decide

/-! ### What the end of a clearing leaves (R83, R85, R86, R201) -/

/-- The seven flags are sound, and a clearing leads to IDLE: it ends without a further one. -/
structure EndsOnce (s : State) : Prop where
  sound : flagsSound s = true
  toIdle : s.cal.ctx.state = .clearing → s.cal.destination = false

theorem EndsOnce.of_cal (h : EndsOnce s) (state : t.cal.ctx.state = s.cal.ctx.state) (held7 : t.cal.held7 = s.cal.held7)
    (destination : t.cal.destination = s.cal.destination) : EndsOnce t where
  sound := by
    rw [flagsSound, held7]
    exact h.sound
  toIdle clearing := by
    rw [destination]
    exact h.toIdle (state ▸ clearing)

theorem EndsOnce.raise (c : Cause) (h : EndsOnce s) : EndsOnce (raise c s) := ⟨h.sound, h.toIdle⟩

theorem EndsOnce.setFlags (f : CallFlags → CallFlags) (h : EndsOnce s) : EndsOnce (setFlags f s) := ⟨h.sound, h.toIdle⟩

theorem enter_endsOnce (x : CallState) (s : State) (h : x = .clearing → s.cal.destination = false) :
    EndsOnce (enter x s) := by
  constructor
  · rw [flagsSound, enter_cal, flagsSet_stateFlags]
    rfl
  · rw [enter_cal]
    exact h

theorem enterClearing_entered (cause : LastEnd) (toCallback : Bool) (s : State) :
    ∃ w, enterClearing cause toCallback s = enter .clearing w ∧ (toCallback = false → w.cal.destination = false) :=
  ⟨_, rfl, fun h => by rw [h]; rfl⟩

theorem startCall_entered (kind : CallKind) (s : State) :
    ∃ w, startCall kind s = raise .callStarted (enter .hunting w) := ⟨_, rfl⟩

theorem enterIdle_enters (s : State) : ∃ w, enterIdle s = enter .idle w := ⟨_, rfl⟩

theorem enterCallbackWait_enters (s : State) :
    ∃ w, enterCallbackWait s = afterCallbackWait (enter .callbackWait w) := ⟨_, rfl⟩

theorem enterClearing_endsOnce (cause : LastEnd) (s : State) : EndsOnce (enterClearing cause false s) := by
  obtain ⟨w, e, toIdle⟩ := enterClearing_entered cause false s
  rw [e]
  exact enter_endsOnce .clearing w fun _ => toIdle rfl

theorem startCall_state (kind : CallKind) (s : State) : (startCall kind s).cal.ctx.state = .hunting := by
  obtain ⟨w, e⟩ := startCall_entered kind s
  rw [e]
  exact congrArg (fun c : Cal => c.ctx.state) (enter_cal .hunting w)

theorem startCall_endsOnce (kind : CallKind) (s : State) : EndsOnce (startCall kind s) := by
  obtain ⟨w, e⟩ := startCall_entered kind s
  rw [e]
  exact (enter_endsOnce .hunting w CallState.noConfusion).raise .callStarted

theorem enterIdle_state (s : State) : (enterIdle s).cal.ctx.state = .idle := by
  obtain ⟨w, e⟩ := enterIdle_enters s
  rw [e]
  exact congrArg (fun c : Cal => c.ctx.state) (enter_cal .idle w)

theorem enterIdle_endsOnce (s : State) : EndsOnce (enterIdle s) := by
  obtain ⟨w, e⟩ := enterIdle_enters s
  rw [e]
  exact enter_endsOnce .idle w CallState.noConfusion

theorem enterCallbackWait_endsOnce (s : State) : EndsOnce (enterCallbackWait s) := by
  obtain ⟨w, e⟩ := enterCallbackWait_enters s
  have waits : EndsOnce (enter .callbackWait w) := enter_endsOnce .callbackWait w CallState.noConfusion
  rw [e]
  generalize enter .callbackWait w = u at waits
  unfold afterCallbackWait
  split
  · exact enterClearing_endsOnce .hostCleared (stopCallbackTimer u)
  · unfold endEmptyWindow
    split
    · exact enterIdle_endsOnce _
    · exact waits

theorem completePlace_endsOnce (o : OrderOutcome) (h : EndsOnce s) : EndsOnce (completePlace o s) := by
  obtain ⟨x, y, e⟩ := completePlace_eq o s
  rw [e]
  exact h.of_cal rfl rfl rfl

theorem completeClear_endsOnce (h : EndsOnce s) : EndsOnce (completeClear s) := by
  obtain ⟨x, y, e⟩ := completeClear_eq s
  rw [e]
  exact h.of_cal rfl rfl rfl

theorem pressEffect_endsOnce (h : EndsOnce s) : EndsOnce (pressEffect s) := by
  unfold pressEffect
  split
  · exact startCall_endsOnce ..
  · exact startCall_endsOnce ..
  · exact h.setFlags _
  · split
    · exact (enterClearing_endsOnce .converted (completePlace .superseded s)).setFlags
        (fun f => { f with pressHeld := true })
    · exact ⟨h.sound, h.toIdle⟩

theorem takeHeldPress_endsOnce (h : EndsOnce s) : EndsOnce (takeHeldPress s) := by
  unfold takeHeldPress
  split
  · exact pressEffect_endsOnce (h.setFlags _)
  · exact h

theorem enterDerived_endsOnce (s : State) : EndsOnce (enterDerived s) := by
  unfold enterDerived
  split
  · exact enter_endsOnce .reestablishing _ CallState.noConfusion
  · exact enterCallbackWait_endsOnce _
  · exact enterIdle_endsOnce _

theorem recoverOrders_endsOnce (h : EndsOnce s) : EndsOnce (recoverOrders s) := by
  refine takeHeldPress_endsOnce ?_
  split
  · exact (completeClear_endsOnce (completePlace_endsOnce .cleared h)).setFlags _
  · dsimp only
    split
    · exact enterClearing_endsOnce .hostCleared (stopCallbackTimer _)
    · exact completePlace_endsOnce .cleared h
  · split
    · exact enterClearing_endsOnce .hostCleared (stopCallbackTimer s)
    · exact h
  · exact h

theorem recover_endsOnce (handed : Option Serving) (s : State) : EndsOnce (recover handed s) := by
  have ends (u : State) : EndsOnce (raise .callState (recoverOrders (enterDerived u))) :=
    (recoverOrders_endsOnce (enterDerived_endsOnce u)).raise .callState
  exact ends _

theorem clearingOrders_endsOnce (cause : LastEnd) (h : EndsOnce s) : EndsOnce (clearingOrders cause s) := by
  refine completeClear_endsOnce ?_
  split
  · exact completePlace_endsOnce .noCarrier h
  · split
    · exact completePlace_endsOnce .cleared h
    · exact h

theorem clearingOrders_state (cause : LastEnd) (s : State) :
    (clearingOrders cause s).cal.ctx.state = s.cal.ctx.state := by
  have place (o : OrderOutcome) (u : State) : (completePlace o u).cal.ctx = u.cal.ctx := by
    obtain ⟨x, y, e⟩ := completePlace_eq o u
    rw [e]
    rfl
  have clear (u : State) : (completeClear u).cal.ctx = u.cal.ctx := by
    obtain ⟨x, y, e⟩ := completeClear_eq u
    rw [e]
    rfl
  unfold clearingOrders
  dsimp only
  rw [clear]
  split
  · rw [place]
  · split
    · rw [place]
    · rfl

/-- Whatever clearing ends, the next one, if there is one, ends in IDLE. -/
theorem transition_finishClearing_endsOnce (s : State) : EndsOnce (transition none finishClearing s) := by
  unfold transition
  split
  · unfold finishClearing
    dsimp only
    refine takeHeldPress_endsOnce (clearingOrders_endsOnce _ ?_)
    split
    · exact enterCallbackWait_endsOnce s
    · exact (enterIdle_endsOnce s).raise .callFinished
  · exact recover_endsOnce none s

/-- A clearing that leads to IDLE leaves IDLE, or the call that a held press starts. -/
theorem finishClearing_leaves (h : s.cal.destination = false) : (finishClearing s).cal.ctx.state ≠ .clearing := by
  rw [finishClearing_idle h]
  have idle : (clearingOrders s.cal.ctx.lastEnd (raise .callFinished (enterIdle s))).cal.ctx.state = .idle :=
    (clearingOrders_state ..).trans (enterIdle_state s)
  generalize clearingOrders s.cal.ctx.lastEnd (raise .callFinished (enterIdle s)) = u at idle
  unfold takeHeldPress
  split
  · have here : (setFlags (fun f => { f with pressHeld := false }) u).cal.ctx.state = .idle := idle
    rw [pressEffect, here]
    dsimp only
    rw [startCall_state]
    decide
  · rw [idle]
    decide

theorem transition_leaves (h : EndsOnce s) (ended : clearingOver s = true) :
    clearingOver (transition none finishClearing s) = false := by
  rw [transition_sound h.sound]
  refine clearingOver_of_state (finishClearing_leaves (h.toIdle ?_))
  simp only [clearingOver, Bool.and_eq_true, beq_iff_eq] at ended
  exact ended.1.1.1

theorem clearingCheck_rests {n : Nat} (h : clearingOver s = false) : clearingCheck n s = s := by
  cases n with
  | zero => rfl
  | succ n => rw [clearingCheck, if_neg (by simp [h])]

/-- The check after an event of CAL takes the end of every clearing that is over: two ends suffice. -/
theorem clearingCheck_over (n : Nat) (s : State) : clearingOver (clearingCheck (n + 2) s) = false := by
  rw [clearingCheck]
  split
  · have once := transition_finishClearing_endsOnce s
    generalize transition none finishClearing s = u at once
    rw [clearingCheck]
    split
    next ended =>
      have left := transition_leaves once ended
      rw [clearingCheck_rests left]
      exact left
    next ongoing => exact Bool.eq_false_of_not_eq_true ongoing
  next ongoing => exact Bool.eq_false_of_not_eq_true ongoing

/-! ### Nothing else brings the end of a clearing -/

/-- No clearing that is over comes to stand. -/
def NoneComes (s t : State) : Prop := clearingOver s = false → clearingOver t = false

theorem NoneComes.of_cal (h : t.cal = s.cal) : NoneComes s t := by
  intro ongoing
  rw [clearingOver, h]
  exact ongoing

theorem clearingOver_congr (h : t.cal.ctx = s.cal.ctx) : clearingOver t = clearingOver s := by
  rw [clearingOver, h]
  rfl

theorem calEvent_over (f : State → State) (s : State) : clearingOver (calEvent f s) = false :=
  (clearingOver_congr (publishCall_ctx ..)).trans (clearingCheck_over 1 (f s))

theorem calEvent_noneComes (f : State → State) (s : State) : NoneComes s (calEvent f s) := fun _ => calEvent_over f s

theorem handle_noneComes (m : Msg) (s : State) : NoneComes s (handle m s) := by
  cases m with
  | hntNewKeys keys => exact .of_cal (hntTakeKeys_below (Below.refl s)).cal
  | hntGatherEnd => exact .of_cal (hntTakeGatherEnd_below (Below.refl s)).cal
  | hntResult p n kind r => exact .of_cal (hntTakeResult_below (Below.refl s)).cal
  | hntStrayResult p n => exact .of_cal (hntTakeStray_below (Below.refl s)).cal
  | hntModule p old new => exact .of_cal (hntTakeModule_below (Below.refl s)).cal
  | hntRole p => exact .of_cal (hntTakeRole_below (Below.refl s)).cal
  | hntPlan => exact .of_cal (hntTakePlan_below (Below.refl s)).cal
  | hntEvent p e => exact .of_cal (hntTakeEvent_cal p e s)
  | lmuResult n r => exact .of_cal (cal_of_side (lmuTakeResult_side n r s))
  | lmuVerdict p v => exact .of_cal (cal_of_side (lmuTakeVerdict_side p v s))
  | wchResult p n kind r => exact .of_cal (wchTakeResult_below (Below.refl s)).cal
  | wchModule p old new => exact .of_cal (wchTakeModule_below (Below.refl s)).cal
  | wchRole p => exact .of_cal (wchTakeRole_below (Below.refl s)).cal
  | wchList p n => exact .of_cal (wchTakeList_below (Below.refl s)).cal
  | wchReady p count => exact .of_cal (wchTakeReady_below (Below.refl s)).cal
  | ctuLevel p level quality => exact .of_cal (ctuLevelReport_lower (Lower.refl s)).cal
  | plnPress => exact .of_cal (cal_of_side (plnTakePress_side s))
  | _ =>
    unfold handle
    exact calEvent_noneComes _ s

theorem drain_noneComes (n : Nat) (s : State) : NoneComes s (drain n s) := by
  induction n generalizing s with
  | zero => exact .of_cal rfl
  | succ n ih =>
    unfold drain
    split
    · exact id
    · exact fun ongoing => ih _ (handle_noneComes _ (s.withInbox []) ongoing)

theorem NoneComes.settled {u : State} (h : NoneComes s u) (e : settled u = .next t) : NoneComes s t := by
  rw [settled_eq e]
  exact fun ongoing => drain_noneComes _ u (h ongoing)

theorem NoneComes.ite {u v : State} {c : Prop} [Decidable c] (hu : NoneComes s u) (hv : NoneComes s v) :
    NoneComes s (if c then u else v) := by
  split
  · exact hu
  · exact hv

/-! ### The commands -/

theorem takeOrder_noneComes {kind : Nat} {owner : Held → Fin 8 → State → State}
    (h : ∀ held k s, NoneComes s (owner held k s)) (s : State) : NoneComes s (takeOrder kind owner s) := by
  have completed (held : Held) (o : OrderOutcome) (d : Word) (u : State) : NoneComes u (complete held o d u) :=
    .of_cal (complete_cal ..)
  have checked (held : Held) (u : State) : NoneComes u (checkOrder kind owner held u) := by
    unfold checkOrder
    split
    · exact completed _ _ _ _
    · split
      · exact completed _ _ _ _
      · exact h _ _ _
  unfold takeOrder
  split
  · exact id
  next k _ =>
    split
    · exact checked _ (takeSlot k s).2
    · exact id

theorem takeUnknown_cal (s : State) : (takeUnknown s).cal = s.cal := by
  unfold takeUnknown
  split
  · rfl
  · split
    · rfl
    · exact (complete_cal ..).trans rfl

theorem secondPasses_noneComes (s : State) : NoneComes s (secondPasses s) := fun _ =>
  (clearingOver_congr (congrArg Cal.ctx (upkeep_below (Below.refl _)).cal)).trans (calEvent_over ..)

theorem softReset_noneComes (s : State) : NoneComes s (softReset s) := by
  have owners : (ownersSoftReset (ordSoftReset s)).cal.ctx = (calSoftReset s).cal.ctx :=
    publishCall_ctx s.cal (calSoftReset (ordSoftReset s))
  obtain ⟨bsu, lamps⟩ := bsuSoftReset_eq ((ownersSoftReset (ordSoftReset s)).withFlt resetFlt)
  have rest (u : State) : (causesSoftReset ((u.withFlt resetFlt).withBsu bsu)).cal = u.cal := rfl
  have forgets : (softReset s).cal = (ownersSoftReset (ordSoftReset s)).cal := by
    rw [softReset, lamps, ← rest (ownersSoftReset (ordSoftReset s))]
  exact fun ongoing => (clearingOver_congr ((congrArg Cal.ctx forgets).trans owners)).trans ongoing

theorem execHostWrite_noneComes {a : BitVec 12} {v : Word} (h : exec (.hostWrite a v) s = .next t) : NoneComes s t := by
  change execHostWrite a v s = .next t at h
  unfold execHostWrite at h
  dsimp only at h
  have stored (n : Nat) : (storeWord n v s).cal = s.cal := rfl
  split at h
  · cases h
  · refine NoneComes.settled (.of_cal ?_) h
    split
    · exact stored _
    · split
      · exact trespass_cal ..
      · exact stored _
    · split
      · unfold storeSlotWord
        split
        · rfl
        · exact stored _
      · exact trespass_cal ..
    · exact trespass_cal ..

/-- No command brings a clearing that is over to stand. -/
theorem exec_noneComes {c : Instr} (h : exec c s = .next t) : NoneComes s t := by
  have same {u : State} (e : settled u = .next t) (cal : u.cal = s.cal) : NoneComes s t :=
    (NoneComes.of_cal cal).settled e
  have sameIf {u v : State} {c : Prop} [Decidable c] (e : settled (if c then u else v) = .next t)
      (one : u.cal = s.cal) (other : v.cal = s.cal) : NoneComes s t :=
    (NoneComes.ite (.of_cal one) (.of_cal other)).settled e
  have reply {kind : Nat} {f : Transaction → State → State} (e : settled (onReply kind f s) = .next t)
      (taken : ∀ x s, (f x s).cal = s.cal) : NoneComes s t := same e (onReply_cal taken kind s)
  cases c with
  | powerOnReset straps pins =>
    refine NoneComes.settled (u := resetPart straps pins [] s) (fun _ => ?_) h
    rw [clearingOver, resetPart_cal]
    rfl
  | pinReset straps pins =>
    refine NoneComes.settled (u := resetPart straps pins (keptMemory s.smp.mem) s) (fun _ => ?_) h
    rw [clearingOver, resetPart_cal]
    rfl
  | doze => exact same h (wchDoze_below (Below.refl s)).cal
  | wake => exact same h (wchWake_below (Below.refl s)).cal
  | softReset => exact (softReset_noneComes s).settled h
  | releaseFault | clearTally | causeWrite | causeenWrite => exact same h rfl
  | offerWrite v => exact same h (foldl_cal offerSlot_cal _ s)
  | doneWrite v => exact same h (foldl_cal giveBackSlot_cal _ s)
  | lampsWrite v => exact same h (writeLamps_cal v s)
  | unusedRegisterWrite addr v =>
    change (if addr.toNat < 6 then Host.Outcome.fault Fault.registerInUse else settled s) = .next t at h
    split at h
    · cases h
    · exact same h rfl
  | hostWrite a v => exact execHostWrite_noneComes h
  | placeOrder => exact (takeOrder_noneComes (owner := ownerPlace) (fun _ _ _ => calEvent_noneComes _ _) s).settled h
  | clearOrder => exact (takeOrder_noneComes (owner := ownerClear) (fun _ _ _ => calEvent_noneComes _ _) s).settled h
  | scanOrder =>
    exact (takeOrder_noneComes (owner := ownerScan)
      (fun _ _ u => .of_cal (wchScanOrder_below (Below.refl u)).cal) s).settled h
  | loadPlan =>
    exact (takeOrder_noneComes (owner := ownerLoadPlan) (fun _ _ u => .of_cal (takeLoadPlan_cal _ _ u)) s).settled h
  | moduleOrder =>
    exact (takeOrder_noneComes (owner := ownerModule) (fun _ _ u => .of_cal (takeModuleOrder_cal _ _ _ u)) s).settled h
  | unknownKind => exact same h (takeUnknown_cal s)
  | secondsClockAdvance => exact (secondPasses_noneComes s).settled h
  | benchExpiry => exact (NoneComes.ite (secondPasses_noneComes s) id).settled h
  | callPress | hookOn | hookOff | doorOpen | doorClosed | callRest | patternTimerExpiry => exact sameIf h rfl rfl
  | quietOn => exact sameIf h rfl (acceptQuiet_cal true s)
  | quietOff => exact sameIf h (acceptQuiet_cal false s) rfl
  | inputSample pins => exact same h (sampled_cal pins s)
  | wakeWaitExpiry => exact same h (endWakeWait_below (Below.refl s)).cal
  | gatherTimerExpiry => exact same h (hntGatherExpiry_below (Below.refl s)).cal
  | backoffTimerExpiry => exact same h (hntBackoffExpiry_below (Below.refl s)).cal
  | launchStaggerExpiry => exact same h (hntStaggerExpiry_below (Below.refl s)).cal
  | attemptTimerExpiry p => exact same h (hntAttemptExpiry_below (Below.refl s)).cal
  | hookMaskExpiry => exact (calEvent_noneComes takeMaskExpiry s).settled h
  | callbackTimerExpiry => exact (calEvent_noneComes takeCallbackExpiry s).settled h
  | acknowledgementTimerExpiry => exact sameIf h (cal_of_side (lmuTryFailed_side triesFuel s)) rfl
  | gapTimerExpiry => exact same h (vswGapExpiry_cal s)
  | phaseTimerExpiry => exact same h (vswPhaseExpiry_cal s)
  | pollTimerExpiry p => exact same h (polled_cal p s)
  | bootTimerExpiry p => exact sameIf h (enterProbe_link (LinkStep.refl s)).cal rfl
  | pulseTimerExpiry p => exact same h (pulsed_cal p s)
  | probeRetryExpiry p => exact sameIf h ((queueProbe_link (LinkStep.refl _)).cal.trans rfl) rfl
  | takeQueueHead => exact sameIf h (takeHeads_cal _ s) rfl
  | requestFrameSent | idleWaitEnd => exact same h (by split <;> [(split <;> rfl); rfl])
  | replyDeadlineExpiry | replyError => exact same h (failAwaited_cal s _)
  | idleWaitTimeout => exact same h (by split <;> [(split <;> simp); rfl])
  | strayCharacter c => exact same h rfl
  | replyOk => exact reply h (fun x u => (deliver_cal ..).trans ((replyOkModule_cal ..).trans rfl))
  | replyNak reason =>
    refine sameIf h (failAwaited_cal s _) (onReply_cal (fun x u => ?_) 17 s)
    exact (deliver_cal ..).trans rfl
  | status payload =>
    refine reply h fun x u => ?_
    split
    · exact takeStatus_cal _ x u
    · exact failTry_cal ..
  | scanList payload =>
    refine reply h fun x u => ?_
    split
    · exact (ctuIntake_lower (Lower.refl (endSuccess x u))).cal
    · exact failTry_cal ..
  | events payload =>
    refine reply h fun x u => ?_
    split
    · exact takeBatch_cal _ _ x u
    · exact failTry_cal ..
  | atnAsserted p => exact same h (atnAsserted_cal p s)
  | atnInactive p => exact same h rfl
  | callProceeding | callAlerting | callAnswered | callEnded | serviceLost | incoming | scanReady | dataResult
  | levelReport => exact same h rfl
  | scanStaggerExpiry => exact same h (wchStaggerExpiry_below (Below.refl s)).cal
  | scanIntervalExpiry p => exact same h (wchIntervalExpiry_below (Below.refl s)).cal
  | scanLimitExpiry p => exact same h (wchLimitExpiry_below (Below.refl s)).cal
  | graceTimerExpiry => exact sameIf h (installAndRelease_cal builtInPlan .default s) rfl
  | copyCompletion => exact same h (plnCopyCompletion_cal s)
  | storeMarkerDone => exact same h (plnMarkerDone_cal s)
  | erasePassDone blank => exact same h (plnEraseDone_cal blank s)
  | programPassDone matched => exact same h (plnProgramDone_cal matched s)
  | storeCompleteDone => exact same h (plnCompleteDone_cal s)
  | planWordDamaged index =>
    change (if 1 ≤ index ∧ index ≤ 44 then settled (damagePlan index s) else .fault .noSuchPlanField) = .next t at h
    split at h
    · exact same h (damagePlan_cal index s)
    · cases h
  | callStateFlagsDamaged flags =>
    change (if flagsSet flags = 1 then .fault .flagsNotDamaged else settled (s.withCal { s.cal with held7 := flags }))
      = .next t at h
    split at h
    · cases h
    · exact NoneComes.settled (u := s.withCal { s.cal with held7 := flags }) id h

/-- Settles O11: no command brings a clearing that is over to stand (`exec_noneComes`), since CAL's event takes the end of
every one it brings (`clearingCheck_over`). -/
theorem noFinishedClearingStands : Obligations.NoFinishedClearingStands := by
  intro s t ongoing run
  unfold step at run
  split at run
  · cases run
    exact ongoing
  next c rest _ => exact exec_noneComes run ongoing

end Sys2Proof.Machine
end

section
/-! PROOFS. An INCOMING is answered or rejected, by the call state and the answer in progress (R80, R81; O46). -/

namespace Sys2Proof.Machine

variable {s u : State} {p q : Pos}

/-! ### An event of CAL that leaves CAL's record alone -/

theorem calEvent_of_cal {f : State → State} (cal : (f s).cal = s.cal) (ongoing : clearingOver s = false) :
    calEvent f s = f s := by
  have still : clearingOver (f s) = false := (clearingOver_congr (congrArg Cal.ctx cal)).trans ongoing
  have check : clearingCheck 3 (f s) = f s := clearingCheck_rests still
  rw [calEvent, check, publishCall_of_same (congrArg Cal.ctx cal) (congrArg Cal.held7 cal)]

/-- Publishing the call posts nothing. -/
theorem calEvent_inbox {f : State → State} (ongoing : clearingOver (f s) = false) :
    (calEvent f s).inbox = (f s).inbox := by
  obtain ⟨g, c, event⟩ := calEvent_eq ongoing
  rw [event]
  rfl

/-! ### The two requests -/

/-- MLC with a further request at the end of its queue. -/
def queuedNext (s : State) (o : Requester) (p : Pos) (kind : ReqKind) (payload : List Byte) : State :=
  s.withMlc { s.mlc with
    queue := s.mlc.queue ++ [nextRequest s o p kind payload], nextNumber := s.mlc.nextNumber + 1 }

theorem queueReject_eq (free : callPlaceFree p s = true) : queueReject p s = queuedNext s .calReject p .reject [] := by
  rw [queueReject, enqueue_free rfl .calReject free []]
  rfl

/-- The call-back ring: with the hook strap at 0, in the two states in which the box may ring (R81, R121). -/
theorem callbackRing_eq (sound : u.pln.damaged = []) : ∃ v,
    (if u.straps.hook = false ∧ (u.cal.ctx.state = .idle ∨ u.cal.ctx.state = .callbackWait)
      then vswTone .callbackRing true u else u) = u.withVsw v ∧
    v.requested = { u.vsw.requested with callbackRing := u.vsw.requested.callbackRing ||
      (!u.straps.hook && (u.cal.ctx.state == .idle || u.cal.ctx.state == .callbackWait)) } := by
  split
  next rings =>
    obtain ⟨hook, state⟩ := rings
    have may : (!u.straps.hook && (u.cal.ctx.state == .idle || u.cal.ctx.state == .callbackWait)) = true := by
      simpa [hook] using state
    obtain ⟨v, tone, requested, _⟩ := vswTone_eq .callbackRing true sound
    rw [may, Bool.or_true]
    exact ⟨v, tone, requested⟩
  next silent =>
    have mute : (!u.straps.hook && (u.cal.ctx.state == .idle || u.cal.ctx.state == .callbackWait)) = false := by
      simpa using silent
    rw [mute, Bool.or_false]
    exact ⟨u.vsw, rfl, rfl⟩

theorem queueAnswer_eq (free : callPlaceFree p s = true) (sound : s.pln.damaged = []) : ∃ v, queueAnswer p s =
    ((queuedNext s .calAnswer p .answer []).withCtx { s.cal.ctx with answer := some p }).withVsw v ∧
    v.requested = { s.vsw.requested with callbackRing := s.vsw.requested.callbackRing ||
      (!s.straps.hook && (s.cal.ctx.state == .idle || s.cal.ctx.state == .callbackWait)) } := by
  rw [queueAnswer, enqueue_free rfl .calAnswer free []]
  exact callbackRing_eq (u := (queuedNext s .calAnswer p .answer []).withCtx { s.cal.ctx with answer := some p }) sound

/-! ### What CAL takes from an INCOMING -/

/-- The call states in which an INCOMING is answered when no answer is in progress (R80). -/
def answersIncoming (s : State) : Bool :=
  s.cal.ctx.state == .callbackWait || s.cal.ctx.state == .hunting || s.cal.ctx.state == .reestablishing ||
    (s.cal.ctx.state == .idle && s.pln.plan.call.idleAnswer)

theorem takeIncoming_same (answer : s.cal.ctx.answer = some p) : takeIncoming p s = s := by
  simp [takeIncoming, answer]

theorem takeIncoming_other (answer : s.cal.ctx.answer = some q) (other : q ≠ p) :
    takeIncoming p s = queueReject p s := by
  simp [takeIncoming, answer, other]

theorem takeIncoming_answers (answer : s.cal.ctx.answer = none) (sound : s.pln.damaged = [])
    (answers : answersIncoming s = true) : takeIncoming p s = queueAnswer p s := by
  cases state : s.cal.ctx.state <;> simp_all [takeIncoming, answersIncoming]

theorem takeIncoming_rejects (answer : s.cal.ctx.answer = none) (sound : s.pln.damaged = [])
    (answers : answersIncoming s = false) : takeIncoming p s = queueReject p s := by
  cases state : s.cal.ctx.state <;> simp_all [takeIncoming, answersIncoming]

/-- The command is CAL's event alone, where that event posts nothing. -/
theorem exec_incoming {caller : List Byte} (quiet : s.inbox = []) (after : (calEvent (takeIncoming p) s).inbox = []) :
    exec (.incoming p caller) s = .next (calEvent (takeIncoming p) s) :=
  (settled_dispatch (e := .incoming caller) quiet rfl).trans (congrArg Host.Outcome.next (drain_of_inbox after))

theorem exec_incoming_rejects {caller : List Byte} (quiet : s.inbox = []) (ongoing : clearingOver s = false)
    (free : callPlaceFree p s = true) (rejects : takeIncoming p s = queueReject p s) :
    exec (.incoming p caller) s = .next (queuedNext s .calReject p .reject []) := by
  have taken : takeIncoming p s = queuedNext s .calReject p .reject [] := rejects.trans (queueReject_eq free)
  have event : calEvent (takeIncoming p) s = queuedNext s .calReject p .reject [] :=
    (calEvent_of_cal ((congrArg State.cal taken).trans rfl) ongoing).trans taken
  rw [exec_incoming quiet (by rw [event]; exact quiet), event]

/-- Settles O46: an answer in progress decides first, then the call state (`takeIncoming_answers`,
`takeIncoming_rejects`). -/
theorem incomingCallsAreAnswered : Obligations.IncomingCallsAreAnswered := by
  intro s p caller calm ongoing free
  simp only [calmPart, Bool.and_eq_true, beq_iff_eq] at calm
  obtain ⟨quiet, sound⟩ := calm
  refine ⟨fun answer => ?_, fun q answer other => ?_, fun answer answers => ?_, fun answer answers => ?_⟩
  · have event : calEvent (takeIncoming p) s = s := calEvent_of_no_effect (takeIncoming_same answer) ongoing
    rw [exec_incoming quiet (by rw [event]; exact quiet), event]
  · exact exec_incoming_rejects quiet ongoing free (takeIncoming_other answer other)
  · obtain ⟨v, queued, requested⟩ := queueAnswer_eq free sound
    have taken := (takeIncoming_answers (p := p) answer sound answers).trans queued
    have state : s.cal.ctx.state ≠ .clearing := by
      intro clearing
      simp [clearing] at answers
    have still : clearingOver (takeIncoming p s) = false := by
      rw [taken]
      exact clearingOver_of_state state
    have after : (calEvent (takeIncoming p) s).inbox = [] := by
      rw [calEvent_inbox still, taken]
      exact quiet
    obtain ⟨g, c, event⟩ := calEvent_eq still
    rw [taken] at event
    refine ⟨_, exec_incoming quiet after, ?_⟩
    simp only [event, queuedNext, State.withCtx]
    simpa using requested
  · exact exec_incoming_rejects quiet ongoing free (takeIncoming_rejects answer sound answers)

end Sys2Proof.Machine
end

section
/-! PROOFS. A hook-off clears ABANDON_PENDING (R75; O36). -/

namespace Sys2Proof.Machine

variable {s : State}

theorem exec_hookOff (strap : s.straps.hook = true) (active : s.bsu.hook.level = true) : exec .hookOff s =
    settled (post .calHookOff (s.withBsu { s.bsu with hook := acceptLevel false })) := by
  change execHookOff s = _
  rw [execHookOff, if_pos ⟨strap, active⟩]
  rfl

/-- CAL's event of a hook-off. -/
theorem handle_hookOff (ongoing : clearingOver s = false) : ∃ g c, handle .calHookOff s =
    (s.withCal { s.cal with
      ctx := { s.cal.ctx with flags := { s.cal.ctx.flags with abandonPending := false } }
      fileGen := g }).withSmp { s.smp with causes := c } := by
  have still : clearingOver (takeHookOff s) = false := ongoing
  obtain ⟨g, c, event⟩ := calEvent_eq still
  exact ⟨g, c, event⟩

/-- Settles O36: CAL's event writes one flag, and publishing the call writes the generation and the causes
(`calEvent_eq`). -/
theorem hookOffClearsAbandon : Obligations.HookOffClearsAbandon := by
  intro s quiet strap active ongoing
  obtain ⟨g, c, event⟩ := handle_hookOff (s := s.withBsu { s.bsu with hook := acceptLevel false }) ongoing
  have after : (handle .calHookOff (s.withBsu { s.bsu with hook := acceptLevel false })).inbox = [] := by
    rw [event]
    exact quiet
  refine ⟨_, (exec_hookOff strap active).trans (settled_post_quiet quiet after), ?_⟩
  rw [event]
  refine ⟨rfl, rfl, rfl, ?_, rfl⟩
  obtain ⟨⟩ := s
  rfl

end Sys2Proof.Machine
end

section
/-! PROOFS. Orders that are turned away: those that fail a check of ORD, and a PLACE that cannot start a call (R68, R189,
R191; O28). -/

namespace Sys2Proof.Machine

variable {s u : State} {k : Fin 8} {kind : Nat}

/-! ### ORD's checks -/

theorem takeUnknown_other (offered : nextOffered s = some k) (code : kindByte s k = 0 ∨ 5 < kindByte s k) :
    takeUnknown s = complete (nextHeld s k) .unknownKind (BitVec.ofNat 16 (kindByte s k)) (takeSlot k s).2 := by
  have other : ¬ (1 ≤ kindByte s k ∧ kindByte s k ≤ 5) := by omega
  rw [takeUnknown, offered]
  exact if_neg other

/-- An order of the command's kind is checked with its slot taken. -/
theorem takeOrder_offered (owner : Held → Fin 8 → State → State) (offered : nextOffered s = some k)
    (code : kindByte s k = kind) : takeOrder kind owner s = checkOrder kind owner (nextHeld s k) (takeSlot k s).2 := by
  rw [takeOrder, offered]
  exact if_pos code

theorem takeOrder_badParameter {offset : Nat} (owner : Held → Fin 8 → State → State) (offered : nextOffered s = some k)
    (code : kindByte s k = kind) (bad : badParameter kind s k = some offset) : takeOrder kind owner s =
      complete (nextHeld s k) .badParameter (BitVec.ofNat 16 offset) (takeSlot k s).2 := by
  have bad' : badParameter kind (takeSlot k s).2 (nextHeld s k).slot = some offset :=
    (badParameter_takeSlot kind s k).trans bad
  rw [takeOrder_offered owner offered code, checkOrder, bad']

theorem takeOrder_busy {j : Fin 8} (owner : Held → Fin 8 → State → State) (offered : nextOffered s = some k)
    (code : kindByte s k = kind) (inRange : badParameter kind s k = none) (other : otherTaken kind k s = some j) :
    takeOrder kind owner s = complete (nextHeld s k) .busy (BitVec.ofNat 16 j.val) (takeSlot k s).2 := by
  have inRange' : badParameter kind (takeSlot k s).2 (nextHeld s k).slot = none :=
    (badParameter_takeSlot kind s k).trans inRange
  have other' : otherTaken kind (nextHeld s k).slot (takeSlot k s).2 = some j :=
    (otherTaken_takeSlot kind k s).trans other
  rw [takeOrder_offered owner offered code, checkOrder, inRange', other']

/-- The command of a kind takes an order of that kind, for one of the five owners. -/
theorem exec_orderCommand (one : 1 ≤ kind) (five : kind ≤ 5) (s : State) :
    ∃ owner, exec (orderCommand kind) s = settled (takeOrder kind owner s) := by
  obtain rfl | rfl | rfl | rfl | rfl : kind = 1 ∨ kind = 2 ∨ kind = 3 ∨ kind = 4 ∨ kind = 5 := by omega
  · exact ⟨ownerPlace, rfl⟩
  · exact ⟨ownerClear, rfl⟩
  · exact ⟨ownerScan, rfl⟩
  · exact ⟨ownerLoadPlan, rfl⟩
  · exact ⟨ownerModule, rfl⟩

/-! ### A PLACE that cannot start a call -/

/-- A PLACE that CAL completes at once: CAL's event is the completion alone. -/
theorem placeOrder_completes {o : OrderOutcome} {d : Word} (quiet : s.inbox = []) (wf : Memory.wf s.smp.mem = true)
    (ongoing : clearingOver s = false) (ready : orderReady s k 1 = true)
    (effect : takePlace (nextHeld s k) (placeCallKind (firstParameter s k)) (takeSlot k s).2 =
      complete (nextHeld s k) o d (takeSlot k s).2) :
    ∃ t, exec .placeOrder s = .next t ∧ TurnedAway s t k o d := by
  have cal : (takePlace (nextHeld s k) (placeCallKind (firstParameter s k)) (takeSlot k s).2).cal =
      (takeSlot k s).2.cal := by
    rw [effect, complete_cal]
  rw [exec_placeOrder ready, firstParameter_takeSlot, calEvent_of_cal cal ongoing]
  exact turnedAway_settled wf quiet effect

theorem takePlace_busy (h : Held) (kind : CallKind) (inCall : u.cal.ctx.state ≠ .idle ∧ u.cal.ctx.state ≠ .callbackWait) :
    takePlace h kind u = complete h .busy u.cal.ctx.sequence u := by
  rw [takePlace, if_neg (not_or.mpr inCall)]

theorem takePlace_undialled (h : Held) (free : u.cal.ctx.state = .idle ∨ u.cal.ctx.state = .callbackWait)
    (sound : u.pln.damaged = []) (undialled : u.pln.plan.lists.testDial = none) :
    takePlace h .test u = complete h .invalidPlan 0 u := by
  simp [takePlace, free, sound, undialled]

/-- Settles O28: ORD's three checks (`takeUnknown_other`, `takeOrder_badParameter`, `takeOrder_busy`) and CAL's two answers
to a PLACE (`takePlace_busy`, `takePlace_undialled`). -/
theorem ordersAreTurnedAway : Obligations.OrdersAreTurnedAway := by
  refine ⟨fun s k quiet wf offered => ⟨?_, ?_, ?_⟩, fun s k calm wf ongoing ready => ⟨?_, ?_⟩⟩
  · intro code
    exact turnedAway_settled wf quiet (takeUnknown_other offered code)
  · intro kind offset one five code bad
    obtain ⟨owner, run⟩ := exec_orderCommand one five s
    rw [run]
    exact turnedAway_settled wf quiet (takeOrder_badParameter owner offered code bad)
  · intro kind j one five code inRange other
    obtain ⟨owner, run⟩ := exec_orderCommand one five s
    rw [run]
    exact turnedAway_settled wf quiet (takeOrder_busy owner offered code inRange other)
  all_goals
    simp only [calmPart, Bool.and_eq_true, beq_iff_eq] at calm
    obtain ⟨quiet, sound⟩ := calm
  · intro idle callbackWait
    exact placeOrder_completes quiet wf ongoing ready (takePlace_busy _ _ ⟨idle, callbackWait⟩)
  · intro free parameter undialled
    refine placeOrder_completes quiet wf ongoing ready ?_
    rw [parameter]
    exact takePlace_undialled _ free sound undialled

end Sys2Proof.Machine
end

section
/-! PROOFS. A soft reset, block by block (R66, R128, R195; O20). -/

namespace Sys2Proof.Machine

variable {s t : State}

/-! ### The outputs (R128) -/

/-- An output after a soft reset: given back to AUTO with its pattern started, or left. -/
def outputFreed (p : Pattern) (x : OutputState) : OutputState :=
  if x.host then startPattern p { x with host := false } else x

theorem softResetOutput_eq (o : Output) (s : State) : softResetOutput o s = s.withBsu { s.bsu with
    outs := s.bsu.outs.set o (outputFreed (selectedPattern s o) (s.bsu.outs.get o)) } := by
  unfold softResetOutput outputFreed
  dsimp only
  split
  · rfl
  · have same : s.bsu.outs.set o (s.bsu.outs.get o) = s.bsu.outs := by cases o <;> rfl
    rw [same]
    rfl

theorem bsuSoftReset_outputs (s : State) : ∃ outs, bsuSoftReset s = s.withBsu { s.bsu with outs := outs } ∧
    ∀ o, outs.get o = outputFreed (selectedPattern s o) (s.bsu.outs.get o) := by
  refine ⟨_, by simp only [bsuSoftReset, softResetOutput_eq, State.withBsu_bsu]; rfl, fun o => ?_⟩
  cases o <;> rfl

/-! ### The call (R66) -/

/-- CAL's record after a soft reset: a deferred CLEAR is forgotten, and the call file shows it. -/
def calFreed (c : Cal) : Cal :=
  { c with
    ctx := { c.ctx with flags := { c.ctx.flags with clearDeferred := false } }
    place := none, clear := none
    fileGen := if c.ctx.flags.clearDeferred then c.fileGen + 2 else c.fileGen }

theorem calSoftResetEvent_eq (s : State) : ∃ c, calSoftResetEvent s =
    (s.withCal (calFreed s.cal)).withSmp { s.smp with causes := c } := by
  unfold calSoftResetEvent calFreed
  cases deferred : s.cal.ctx.flags.clearDeferred with
  | false =>
    have ctx : (calSoftReset s).cal.ctx = s.cal.ctx := by
      change { s.cal.ctx with flags := { s.cal.ctx.flags with clearDeferred := false } } = s.cal.ctx
      rw [← deferred]
    rw [publishCall_of_same ctx rfl]
    exact ⟨s.smp.causes, rfl⟩
  | true =>
    have ctx : ¬ ((calSoftReset s).cal.ctx = s.cal.ctx ∧ (calSoftReset s).cal.held7 = s.cal.held7) := by
      rintro ⟨same, _⟩
      have flag : false = s.cal.ctx.flags.clearDeferred := congrArg (fun x => x.flags.clearDeferred) same
      rw [deferred] at flag
      cases flag
    rw [publishCall, if_neg ctx]
    dsimp only
    split
    · exact ⟨s.smp.causes, rfl⟩
    · exact ⟨_, rfl⟩

/-! ### The part -/

/-- The state that a soft reset leaves, but for the outputs. -/
def freedPart (s : State) : State :=
  ((((((s.withOrd { s.ord with slots := PerSlot.all .free }).withCal (calFreed s.cal)).withSmp
    { s.smp with causes := 0, enables := 0 }).withPln { s.pln with held := none }).withWch
    { s.wch with order := none }).withMlc { s.mlc with wait := none }).withFlt resetFlt

theorem softReset_eq (s : State) : ∃ outs, softReset s = (freedPart s).withBsu { s.bsu with outs := outs } ∧
    ∀ o, outs.get o = outputFreed (selectedPattern s o) (s.bsu.outs.get o) := by
  obtain ⟨c, call⟩ := calSoftResetEvent_eq (ordSoftReset s)
  obtain ⟨outs, lamps, freed⟩ := bsuSoftReset_outputs ((ownersSoftReset (ordSoftReset s)).withFlt resetFlt)
  rw [softReset, lamps]
  simp only [ownersSoftReset, call] at freed ⊢
  exact ⟨outs, rfl, freed⟩

theorem freedPart_inbox (s : State) (x : Bsu) : ((freedPart s).withBsu x).inbox = s.inbox := by
  simp [freedPart]

/-- Settles O20: the state left is `freedPart` with the outputs freed (`softReset_eq`), and nothing is posted. -/
theorem softResetLeavesTheBox : Obligations.SoftResetLeavesTheBox := by
  intro s quiet
  obtain ⟨outs, left, freed⟩ := softReset_eq s
  have run : exec .softReset s = .next ((freedPart s).withBsu { s.bsu with outs := outs }) := by
    change settled (softReset s) = _
    rw [left, settled_of_inbox ((freedPart_inbox ..).trans quiet)]
  have slots (k : Fin 8) : (PerSlot.all SlotState.free).get k = .free := by
    fin_cases k <;> rfl
  refine ⟨_, run, ?_⟩
  simp [freedPart, calFreed, slots, resetFlt, freed, outputFreed]

end Sys2Proof.Machine
end

section
/-! PROOFS. A transaction on the link step by step, and a queue head that is answered NOT_READY (R79, R81, R129, R132 to
R134, R141; O48). -/

namespace Sys2Proof.Machine

variable {s : State} {r : Request}

/-! ### The queue's head -/

theorem mem_of_queueHead {q : List Request} (h : queueHead q = some r) : r ∈ q := by
  induction q generalizing r with
  | nil => cases h
  | cons x rest ih =>
    rw [queueHead] at h
    cases best : queueHead rest with
    | none =>
      rw [best] at h
      obtain rfl : x = r := Option.some.inj h
      exact List.mem_cons_self
    | some y =>
      simp only [best] at h
      split at h
      · obtain rfl : y = r := Option.some.inj h
        exact List.mem_cons_of_mem _ (ih best)
      · obtain rfl : x = r := Option.some.inj h
        exact List.mem_cons_self

theorem dropNumber_shorter {q : List Request} (h : r ∈ q) : (dropNumber r.number q).length < q.length :=
  List.length_filter_lt_length_iff_exists.mpr ⟨r, h, by simp⟩

/-! ### An answer writes the modules at most, of MLC's record -/

/-- MLC's record but for the modules. -/
def LinkKept (s t : State) : Prop := t.mlc.queue = s.mlc.queue ∧ t.mlc.tx = s.mlc.tx

theorem deliverTo_linkKept (x : LinkResult) (o : Requester) (s : State) : LinkKept s (deliverTo r x o s) := by
  cases o with
  | mlc =>
    unfold deliverTo mlcOwnResult
    dsimp only
    split
    · split <;> exact ⟨rfl, rfl⟩
    · split <;> exact ⟨rfl, rfl⟩
    · exact ⟨rfl, rfl⟩
  | _ => exact ⟨rfl, rfl⟩

theorem deliver_linkKept (r : Request) (x : LinkResult) (s : State) : LinkKept s (deliver r x s) := by
  have all (owners : List Requester) (u : State) : LinkKept u (deliverAll r x owners u) := by
    induction owners generalizing u with
    | nil => exact ⟨rfl, rfl⟩
    | cons o rest ih =>
      obtain ⟨queue, tx⟩ := deliverTo_linkKept (r := r) x o u
      obtain ⟨queue', tx'⟩ := ih (deliverTo r x o u)
      exact ⟨queue'.trans queue, tx'.trans tx⟩
  exact all r.owners s

/-! ### Taking the head -/

/-- The state with a request taken from the queue. -/
def taken (r : Request) (s : State) : State := s.withQueue (dropNumber r.number s.mlc.queue)

theorem takeHeads_none {n : Nat} (h : queueHead s.mlc.queue = none) : takeHeads n s = s := by
  cases n with
  | zero => rfl
  | succ n => rw [takeHeads, h]

theorem takeHeads_sends {n : Nat} (h : queueHead s.mlc.queue = some r)
    (able : canTake r.kind (s.module r.pos).state = true) :
    takeHeads (n + 1) s = (taken r s).withMlc { (taken r s).mlc with tx := some ⟨r, 1, .sending⟩ } := by
  rw [takeHeads, h]
  exact if_pos able

theorem takeHeads_refuses {n : Nat} (h : queueHead s.mlc.queue = some r)
    (unable : canTake r.kind (s.module r.pos).state = false) :
    takeHeads (n + 1) s = takeHeads n (deliver r .notReady (taken r s)) := by
  rw [takeHeads, h]
  exact if_neg (ne_true_of_eq_false unable)

/-- The queue without its head is shorter, whatever the answer to the head does. -/
theorem refused_shorter (h : queueHead s.mlc.queue = some r) :
    (deliver r .notReady (taken r s)).mlc.queue.length < s.mlc.queue.length := by
  rw [(deliver_linkKept r .notReady (taken r s)).1]
  exact dropNumber_shorter (mem_of_queueHead h)

/-- Heads are taken until one is sent or none is left: more rounds than the queue has requests change nothing. -/
theorem takeHeads_enough {n m : Nat} (hn : s.mlc.queue.length < n) (hm : s.mlc.queue.length < m) :
    takeHeads n s = takeHeads m s := by
  induction n generalizing m s with
  | zero => omega
  | succ n ih =>
    obtain ⟨m, rfl⟩ : ∃ k, m = k + 1 := ⟨m - 1, by omega⟩
    cases head : queueHead s.mlc.queue with
    | none => rw [takeHeads_none head, takeHeads_none head]
    | some r =>
      cases able : canTake r.kind (s.module r.pos).state with
      | true => rw [takeHeads_sends head able, takeHeads_sends head able]
      | false =>
        have shorter := refused_shorter head
        rw [takeHeads_refuses head able, takeHeads_refuses head able]
        exact ih (by omega) (by omega)

theorem exec_takeQueueHead_free (free : s.mlc.tx = none) :
    exec .takeQueueHead s = settled (takeHeads (s.mlc.queue.length + 1) s) := by
  change execTakeQueueHead s = _
  rw [execTakeQueueHead, free]
  rfl

theorem exec_takeQueueHead_empty (empty : s.mlc.queue = []) : exec .takeQueueHead s = settled s := by
  change execTakeQueueHead s = _
  rw [execTakeQueueHead, takeHeads_none (by rw [empty]; rfl), ite_self]

/-- A head that cannot be sent is answered, and the next head is taken in the same event. -/
theorem exec_takeQueueHead_refused (free : s.mlc.tx = none) (h : queueHead s.mlc.queue = some r)
    (unable : canTake r.kind (s.module r.pos).state = false) :
    exec .takeQueueHead s = exec .takeQueueHead (deliver r .notReady (taken r s)) := by
  have still : (deliver r .notReady (taken r s)).mlc.tx = none := (deliver_linkKept r .notReady (taken r s)).2.trans free
  have shorter := refused_shorter h
  rw [exec_takeQueueHead_free free, exec_takeQueueHead_free still, takeHeads_refuses h unable,
    takeHeads_enough shorter (Nat.lt_succ_self _)]

theorem exec_takeQueueHead_sent (quiet : s.inbox = []) (free : s.mlc.tx = none) (h : queueHead s.mlc.queue = some r)
    (able : canTake r.kind (s.module r.pos).state = true) :
    exec .takeQueueHead s = .next ((taken r s).withMlc { (taken r s).mlc with tx := some ⟨r, 1, .sending⟩ }) := by
  rw [exec_takeQueueHead_free free, takeHeads_sends h able]
  exact settled_of_inbox quiet

/-! ### The answer NOT_READY -/

theorem notReady_reject (owners : r.owners = [.calReject]) (u : State) : deliver r .notReady u = u := deliver_one owners ..

theorem notReady_own (owners : r.owners = [.mlc]) (kind : r.kind ≠ .sleep) (u : State) : deliver r .notReady u = u := by
  simp only [deliver_one owners, deliverTo, mlcOwnResult]
  split
  · exact if_neg fun both => LinkResult.noConfusion both.1
  next asleep => exact absurd asleep kind
  · rfl

theorem notReady_ownSleep (owners : r.owners = [.mlc]) (kind : r.kind = .sleep) (u : State) :
    deliver r .notReady u = u.withModule r.pos { u.module r.pos with sleepAgain := true } := by
  simp only [deliver_one owners, deliverTo, mlcOwnResult, kind]
  exact if_neg LinkResult.noConfusion

theorem notReady_calRelease (owners : r.owners = [.calRelease]) (u : State) :
    deliver r .notReady u = post (.calReleaseResult r.pos) u := deliver_one owners ..

/-- The result of CAL's RELEASE leaves the pending releases, and the call file shows it (R79, R89). -/
theorem handle_calReleaseResult {p : Pos} (state : s.cal.ctx.state ≠ .clearing) :
    ∃ g c, handle (.calReleaseResult p) s = (s.withCal { s.cal with
      ctx := { s.cal.ctx with releases := s.cal.ctx.releases.set p false }
      fileGen := g }).withSmp { s.smp with causes := c } :=
  calEvent_eq (f := takeReleaseResult p) (clearingOver_of_state state)

theorem exec_calRelease_notReady (quiet : s.inbox = []) (free : s.mlc.tx = none) (owners : r.owners = [.calRelease])
    (alone : s.mlc.queue = [r]) (unable : canTake r.kind (s.module r.pos).state = false)
    (state : s.cal.ctx.state ≠ .clearing) :
    ∃ g c, exec .takeQueueHead s = .next (((taken r s).withCal { s.cal with
      ctx := { s.cal.ctx with releases := s.cal.ctx.releases.set r.pos false }
      fileGen := g }).withSmp { s.smp with causes := c }) := by
  have head : queueHead s.mlc.queue = some r := by
    rw [alone]
    rfl
  have empty : (post (.calReleaseResult r.pos) (taken r s)).mlc.queue = [] := by
    change dropNumber r.number s.mlc.queue = []
    rw [alone]
    simp [dropNumber]
  obtain ⟨g, c, left⟩ := handle_calReleaseResult (s := taken r s) (p := r.pos) state
  have after : (handle (.calReleaseResult r.pos) (taken r s)).inbox = [] := by
    rw [left]
    exact quiet
  rw [exec_takeQueueHead_refused free head unable, notReady_calRelease owners, exec_takeQueueHead_empty empty,
    settled_post_quiet (s := taken r s) quiet after, left]
  exact ⟨g, c, rfl⟩

/-! ### The tries of a transaction -/

theorem failTry_again {r : Request} {n : Nat} {x : TxPhase} (more : n < 3) (error : Nat) (s : State) :
    failTry ⟨r, n, x⟩ error s = s.withMlc { s.mlc with tx := some ⟨r, n, .idleWait 25⟩ } := if_neg (by simpa using more)

/-- A try that ends without an OK while tries remain: the idle wait follows. -/
theorem exec_failedTry {n d : Nat} (quiet : s.inbox = []) (tx : s.mlc.tx = some ⟨r, n, .waiting d⟩) (more : n < 3) :
    exec .replyDeadlineExpiry s = .next (s.withMlc { s.mlc with tx := some ⟨r, n, .idleWait 25⟩ }) ∧
    (∀ e, exec (.replyError e) s = .next (s.withMlc { s.mlc with tx := some ⟨r, n, .idleWait 25⟩ })) ∧
    exec (.replyNak .badFrame) s = .next (s.withMlc { s.mlc with tx := some ⟨r, n, .idleWait 25⟩ }) := by
  have fails (error : Nat) : settled (match awaited s with
      | some t => failTry t error s
      | none => s) = .next (s.withMlc { s.mlc with tx := some ⟨r, n, .idleWait 25⟩ }) := by
    rw [awaited_of_waiting tx]
    dsimp only
    rw [failTry_again more]
    exact settled_of_inbox quiet
  exact ⟨fails _, fun e => fails _, fails _⟩

theorem exec_requestFrameSent {n : Nat} (quiet : s.inbox = []) (tx : s.mlc.tx = some ⟨r, n, .sending⟩) :
    exec .requestFrameSent s = .next (s.withMlc { s.mlc with tx := some ⟨r, n, .waiting 250⟩ }) := by
  change execRequestFrameSent s = _
  rw [execRequestFrameSent, tx]
  exact settled_of_inbox quiet

theorem exec_idleWaitEnd {n d : Nat} (quiet : s.inbox = []) (tx : s.mlc.tx = some ⟨r, n, .idleWait d⟩) :
    exec .idleWaitEnd s = .next (s.withMlc { s.mlc with tx := some ⟨r, n + 1, .sending⟩ }) := by
  change execIdleWaitEnd s = _
  rw [execIdleWaitEnd, tx]
  exact settled_of_inbox quiet

theorem exec_idleWaitTimeout {n d : Nat} (quiet : s.inbox = []) (tx : s.mlc.tx = some ⟨r, n, .idleWait d⟩)
    (more : n + 1 < 3) :
    exec .idleWaitTimeout s = .next (s.withMlc { s.mlc with tx := some ⟨r, n + 1, .idleWait 25⟩ }) := by
  change execIdleWaitTimeout s = _
  rw [execIdleWaitTimeout, tx]
  dsimp only
  rw [failTry_again more]
  exact settled_of_inbox quiet

/-- Settles O48: the head is sent or answered NOT_READY (`exec_takeQueueHead_sent`, `exec_takeQueueHead_refused`), and a
transaction goes through its phases. -/
theorem transactionSteps : Obligations.TransactionSteps := by
  intro s quiet ready without
  have ready_iff (r : Request) : ready r ↔ canTake r.kind (s.module r.pos).state = true := by
    simp only [ready, canTake]
    split <;> simp_all
  refine ⟨fun c => settled_of_inbox quiet, fun r free head => ⟨fun able => ?_, fun unable => ?_⟩, fun empty => ?_,
    fun r n tx => exec_requestFrameSent quiet tx, fun r n d tx more => exec_failedTry quiet tx more,
    fun r n d tx => ⟨exec_idleWaitEnd quiet tx, exec_idleWaitTimeout quiet tx⟩⟩
  · exact exec_takeQueueHead_sent quiet free head ((ready_iff r).mp able)
  · have unable : canTake r.kind (s.module r.pos).state = false :=
      Bool.eq_false_of_not_eq_true fun able => unable ((ready_iff r).mpr able)
    have refused := exec_takeQueueHead_refused free head unable
    refine ⟨?_, fun owners kind => ?_, fun owners alone state => ?_⟩
    · rintro (owners | ⟨owners, kind⟩)
      · rw [refused, notReady_reject owners]
        rfl
      · rw [refused, notReady_own owners kind]
        rfl
    · rw [refused, notReady_ownSleep owners kind]
      rfl
    · obtain ⟨g, c, left⟩ := exec_calRelease_notReady quiet free owners alone unable state
      refine ⟨_, left, rfl, rfl, ?_⟩
      obtain ⟨⟩ := s
      rfl
  · rw [exec_takeQueueHead_empty empty, settled_of_inbox quiet]

end Sys2Proof.Machine
end

section
/-! PROOFS. A call that clears with its connection let go: the RELEASE queued and pending, the hunt stopped, and CLEARING
entered, whatever ends the call (R39, R74, R83, R86; O38, O44). -/

namespace Sys2Proof.Machine

variable {s u z : State} {p : Pos} {cause : LastEnd} {toCallback : Bool}

/-! ### VSW lets go (R87, R109, R112) -/

theorem withdrawTones_requested (s : State) : ∃ v, withdrawTones s = s.withVsw v ∧
    v.requested = (s.vsw.requested.put .reassure false).put .chime false := by
  obtain ⟨v, one, requested⟩ := vswTone_unread (t := .reassure) (present := false) (s := s) rfl
  obtain ⟨w, two, requested'⟩ := vswTone_unread (t := .chime) (present := false) (s := s.withVsw v)
    (congrArg ToneSet.reassure requested)
  refine ⟨w, ?_, requested'.trans (congrArg (fun x : ToneSet => x.put .chime false) requested)⟩
  rw [withdrawTones, one, two]
  rfl

/-- The voice switch of a call in CLEARING: nothing linked, nothing muted. -/
structure Unlinked (old new : Vsw) : Prop where
  conn : new.conn = .none
  uplink : new.uplinkMute = false
  downlink : new.downlinkMute = false
  wait : new.requested.wait = old.requested.wait

theorem stateAudio_clearing (s : State) : ∃ v, stateAudio .clearing s = s.withVsw v ∧ Unlinked s.vsw v := by
  obtain ⟨v, tones, requested⟩ := withdrawTones_requested s
  refine ⟨{ v with conn := .none, gapTimer := none, uplinkMute := false, downlinkMute := false }, ?_, rfl, rfl, rfl,
    (congrArg ToneSet.wait requested).trans rfl⟩
  simp only [stateAudio, tones]
  rfl

/-! ### CLEARING is entered (R83) -/

/-- CAL's record on the entry to CLEARING. -/
def clearedCal (cause : LastEnd) (toCallback : Bool) (c : Cal) : Cal :=
  { c with
    destination := toCallback && !c.ctx.flags.clearDeferred, held7 := stateFlags .clearing
    ctx := { c.ctx with lastEnd := cause, flags := { c.ctx.flags with clearDeferred := false }, state := .clearing } }

/-- In LOCATING the delivery must be over, and CAL have shown it: then CLEARING finds nothing of it to end. -/
def DeliveryOver (u : State) : Prop := u.cal.ctx.state = .locating → u.lmu.state = .idle ∧ u.cal.ctx.message ≠ .pending

theorem lmuStop_over (h : DeliveryOver u) :
    (if u.cal.ctx.state = .locating then pendingUndelivered (lmuStop u) else u) = u := by
  split
  next locating =>
    obtain ⟨idle, told⟩ := h locating
    have stopped : lmuStop u = u := if_pos idle
    rw [stopped]
    exact if_neg told
  · rfl

theorem enterClearing_entered_of_stopped {w : State} (told : DeliveryOver u)
    (stopped : stopHunt (letServingGo (stopMask u)) = w) (awake : w.wch.doze = false) : ∃ v outs modules,
      enterClearing cause toCallback u = entered .clearing (clearedCal cause toCallback w.cal) v outs modules w ∧
      Unlinked w.vsw v ∧ LampsOf .clearing w outs := by
  let z := w.withCal { w.cal with
    destination := toCallback && !w.cal.ctx.flags.clearDeferred
    ctx := { w.cal.ctx with lastEnd := cause, flags := { w.cal.ctx.flags with clearDeferred := false } } }
  obtain ⟨v, audio, unlinked⟩ := stateAudio_clearing (writeState .clearing z)
  obtain ⟨outs, modules, entry, lamps⟩ := enter_entered (u := z) audio awake
    (fun h => absurd h (by decide)) (fun h => absurd h (by decide))
  have acts : enterClearing cause toCallback u = enter .clearing z := by
    rw [enterClearing]
    dsimp only
    rw [lmuStop_over told, stopped]
  exact ⟨v, outs, modules, acts.trans entry, unlinked, lamps⟩

/-! ### The connection is let go (R79, R83) -/

/-- The serving connection let go, with the hook mask at an end. -/
structure ServingGone (p : Pos) (u z : State) : Prop where
  gone : letServingGo (stopMask u) = z
  cal : z.cal = { u.cal with
    mask := none
    ctx := { u.cal.ctx with
      flags := { u.cal.ctx.flags with masked := false }
      releases := u.cal.ctx.releases.set p true, serving := none } }
  queue : z.mlc.queue = u.mlc.queue ++ [nextRequest u .calRelease p .release []]
  modules : z.mlc.modules = u.mlc.modules
  carrier : ∀ k, u.cal.ctx.serving = some (.hunted k) → ∀ e ∈ z.ctu.table, e.key = k → e.serving = false
  quiet : z.inbox = u.inbox
  wch : z.wch = u.wch
  hnt : z.hnt = u.hnt
  bsu : z.bsu = u.bsu
  lmu : z.lmu = u.lmu
  vsw : z.vsw = u.vsw
  pln : z.pln = u.pln

theorem servingGone_of_free (serving : servingPos u.cal.ctx.serving = some p) (free : callPlaceFree p u = true) :
    ∃ z, ServingGone p u z := by
  obtain ⟨x, c, gone, carriers⟩ := letServingGo_free (u := stopMask u) serving free
  refine ⟨_, gone, ?_, ?_, ?_, carriers, ?_, ?_, ?_, ?_, ?_, ?_, ?_⟩
  all_goals simp [State.withCtx, stopMask, setFlags, nextRequest]

/-! ### The hunt is stopped, and its attempts are clear (R39, R88) -/

/-- A stop's last word taken while a RELEASE is pending. -/
theorem drain_attemptsClear_pending {ms : List Msg} (n : Nat) (inbox : u.inbox = ms ++ [.calAttemptsClear])
    (told : ms = [] ∨ ms = [.calBackoff 0]) (pending : u.cal.ctx.releases ≠ PerPos.all false)
    (link : u.cal.ctx.huntLink = .stopping) : ∃ b g c, drain (n + 2) u =
      ((u.withCal { u.cal with ctx := { u.cal.ctx with backoff := b, huntLink := .none }, fileGen := g }).withSmp
        { u.smp with causes := c }).withInbox [] := by
  obtain ⟨k, enough⟩ : ∃ k, n + 2 = ms.length + (k + 1) := by
    rcases told with rfl | rfl
    · exact ⟨n + 1, (Nat.zero_add _).symm⟩
    · exact ⟨n, by rw [List.length_singleton]; omega⟩
  obtain ⟨b, context⟩ : ∃ b, ms.foldl shown u.cal.ctx = { u.cal.ctx with backoff := b } := by
    rcases told with rfl | rfl
    · exact ⟨u.cal.ctx.backoff, rfl⟩
    · exact ⟨0, rfl⟩
  obtain ⟨g, c, shown'⟩ := drain_shows (k + 1) ms [.calAttemptsClear] inbox
    (by rcases told with rfl | rfl <;> simp [shows])
    (Or.inr ⟨clearingOver_of_pending pending, by rcases told with rfl | rfl <;> simp⟩)
  rw [context] at shown'
  obtain ⟨g', c', clear⟩ := attemptsClear_pending (u := backoffShown b g c u) pending link
  have bare : ((backoffShown b g c u).withInbox [.calAttemptsClear]).withInbox [] = backoffShown b g c u := rfl
  have taken := drainOne_of_quiet (m := .calAttemptsClear) (rest := [])
    (s := (backoffShown b g c u).withInbox [.calAttemptsClear]) (by rw [bare, clear]; rfl)
  refine ⟨b, g', c', ?_⟩
  rw [enough, shown', drain_cons k rfl]
  change drain k (drainOne .calAttemptsClear [] ((backoffShown b g c u).withInbox [.calAttemptsClear])) = _
  rw [taken, bare, clear, drain_of_inbox rfl]
  rfl

/-! ### The call in CLEARING with no hunt -/

/-- The call in CLEARING with no hunt, `z` being the state in which the connection has been let go. -/
def clearedAlone (cause : LastEnd) (toCallback : Bool) (b : Nat) (g : Word) (c : BitVec 13) (h : Hnt) (v : Vsw)
    (outs : PerOut OutputState) (modules : PerPos Module) (z : State) : State :=
  (entered .clearing { clearedCal cause toCallback z.cal with
    fileGen := g, ctx := { (clearedCal cause toCallback z.cal).ctx with backoff := b, huntLink := .none } } v outs modules
      (z.withHnt h)).withSmp { z.smp with causes := c }

/-- CAL's event that enters CLEARING from `u`, and what it sets off. -/
theorem drain_enterClearing {f : State → State} (n : Nat) (effect : f s = enterClearing cause toCallback u)
    (told : DeliveryOver u) (gone : ServingGone p u z) (quiet : u.inbox = []) (awake : u.wch.doze = false)
    (hunt : huntSettled u = true) : ∃ b g c h v outs modules,
      drain (n + 2) (calEvent f s) = clearedAlone cause toCallback b g c h v outs modules z ∧ Unlinked z.vsw v ∧
      LampsOf .clearing z outs ∧ (u.cal.ctx.huntLink = .active → h.state = .idle) ∧
      (u.cal.ctx.huntLink = .none → h = u.hnt) := by
  have pending : z.cal.ctx.releases ≠ PerPos.all false := by
    rw [gone.cal]
    exact releases_set_pending _ p
  have link : z.cal.ctx.huntLink = u.cal.ctx.huntLink := by rw [gone.cal]
  have awake : z.wch.doze = false := by rw [gone.wch, awake]
  have quiet : z.inbox = [] := gone.quiet.trans quiet
  simp only [huntSettled, Bool.or_eq_true, Bool.and_eq_true, beq_iff_eq] at hunt
  rcases hunt with rests | ⟨⟨active, won⟩, none⟩
  · have rests' : z.cal.ctx.huntLink = .none := link.trans rests
    have stopped : stopHunt (letServingGo (stopMask u)) = z := by
      rw [gone.gone, stopHunt_rests (by rw [rests']; decide)]
    obtain ⟨v, outs, modules, entry, unlinked, lamps⟩ :=
      enterClearing_entered_of_stopped (cause := cause) (toCallback := toCallback) told stopped awake
    obtain ⟨g, c, event⟩ := calEvent_eq (f := f) (s := s) (by
      rw [effect, entry]
      exact clearingOver_of_pending pending)
    rw [effect, entry] at event
    have shown' : calEvent f s = clearedAlone cause toCallback z.cal.ctx.backoff g c z.hnt v outs modules z := by
      rw [event, clearedAlone, ← rests']
      rfl
    have after : (calEvent f s).inbox = [] := by
      rw [shown', clearedAlone, entered]
      simp [quiet]
    exact ⟨z.cal.ctx.backoff, g, c, z.hnt, v, outs, modules, (drain_of_inbox after).trans shown', unlinked, lamps,
      fun active => absurd (rests.symm.trans active) (by decide), fun _ => gone.hnt⟩
  · have noRecord' : noRecord z = true := by
      have records (q : Pos) : z.record q = u.record q := by rw [State.record, gone.hnt]; rfl
      simp only [noRecord, records]
      exact none
    obtain ⟨h, ms, stop, told', idle⟩ := stopHunt_noRecord (link.trans active)
      (by rw [gone.hnt, won]; decide) noRecord'
    have stopped := (congrArg stopHunt gone.gone).trans stop
    obtain ⟨v, outs, modules, entry, unlinked, lamps⟩ :=
      enterClearing_entered_of_stopped (cause := cause) (toCallback := toCallback) told stopped awake
    obtain ⟨g, c, event⟩ := calEvent_eq (f := f) (s := s) (by
      rw [effect, entry]
      exact clearingOver_of_pending pending)
    rw [effect, entry] at event
    have inbox : (calEvent f s).inbox = ms ++ [.calAttemptsClear] := by
      rw [event, entered, huntStopped]
      simp [quiet]
    obtain ⟨b, g', c', drained⟩ := drain_attemptsClear_pending n inbox told' (by rw [event]; exact pending)
      (by rw [event]; rfl)
    refine ⟨b, g', c', h, v, outs, modules, ?_, unlinked, lamps, fun _ => idle.state,
      fun rests => absurd (rests.symm.trans active) (by decide)⟩
    rw [drained, event, ← quiet]
    rfl

end Sys2Proof.Machine
end

section
/-! PROOFS. The hook mask and the callback window end (R73, R74, R85; O38). -/

namespace Sys2Proof.Machine

variable {s u : State} {p : Pos}

/-! ### The two timers' ends -/

theorem takeMaskExpiry_idle (none : s.cal.mask = none) : takeMaskExpiry s = s := by
  rw [takeMaskExpiry, none]
  rfl

theorem takeMaskExpiry_lifts (runs : s.cal.mask.isSome = true) (stays : s.cal.ctx.flags.abandonPending = false) :
    takeMaskExpiry s = stopMask s := by
  rw [takeMaskExpiry, if_pos runs, if_neg (by rw [stays]; decide)]

theorem takeMaskExpiry_hangsUp (runs : s.cal.mask.isSome = true) (gone : s.cal.ctx.flags.abandonPending = true)
    (flags : flagsSound s = true) : takeMaskExpiry s = enterClearing .callerHungUp true (stopMask s) := by
  rw [takeMaskExpiry, if_pos runs, if_pos gone, transition_sound flags]
  rfl

theorem takeCallbackExpiry_idle (none : s.cal.callbackTimer = none) : takeCallbackExpiry s = s := by
  rw [takeCallbackExpiry, none]
  exact if_neg fun runs => Bool.noConfusion runs.1

theorem takeCallbackExpiry_ends (runs : s.cal.callbackTimer.isSome = true) (waits : s.cal.ctx.state = .callbackWait)
    (answer : s.cal.ctx.answer = none) (flags : flagsSound s = true) : takeCallbackExpiry s = windowExpired s := by
  rw [takeCallbackExpiry, if_pos ⟨runs, waits⟩, if_pos answer, transition_sound flags]

/-- An expiry that CAL takes, where its event posts nothing. -/
theorem settled_calEvent {f : State → State} (quiet : (f s).inbox = []) (ongoing : clearingOver (f s) = false) :
    settled (calEvent f s) = .next (calEvent f s) := settled_of_inbox ((calEvent_inbox ongoing).trans quiet)

/-! ### The mask (R73, R74) -/

theorem hookMaskExpiry_lifts (quiet : s.inbox = []) (ongoing : clearingOver s = false)
    (runs : s.cal.mask.isSome = true) (stays : s.cal.ctx.flags.abandonPending = false) :
    ∃ g c, exec .hookMaskExpiry s = .next ((s.withCal { s.cal with
      mask := none, fileGen := g
      ctx := { s.cal.ctx with flags := { s.cal.ctx.flags with masked := false } } }).withSmp
        { s.smp with causes := c }) := by
  have lifts := takeMaskExpiry_lifts runs stays
  have still : clearingOver (takeMaskExpiry s) = false := by
    rw [lifts]
    exact ongoing
  have after : (takeMaskExpiry s).inbox = [] := by
    rw [lifts]
    exact quiet
  obtain ⟨g, c, event⟩ := calEvent_eq still
  refine ⟨g, c, (settled_calEvent after still).trans ?_⟩
  rw [event, lifts]
  rfl

/-- A caller who has hung up in TALK is cleared at the mask's end. -/
theorem hookMaskExpiry_clears (quiet : s.inbox = []) (runs : s.cal.mask.isSome = true)
    (gone : s.cal.ctx.flags.abandonPending = true) (state : s.cal.ctx.state = .talk)
    (deferred : s.cal.ctx.flags.clearDeferred = false) (serving : servingPos s.cal.ctx.serving = some p)
    (hunt : huntSettled s = true) (awake : s.wch.doze = false) (flags : flagsSound s = true)
    (free : callPlaceFree p s = true) : ∃ t, exec .hookMaskExpiry s = .next t ∧ Clearing s t p .callerHungUp true := by
  obtain ⟨z, letGo⟩ := servingGone_of_free (u := stopMask s) serving free
  have told : DeliveryOver (stopMask s) := fun locating => absurd (state.symm.trans locating) (by decide)
  obtain ⟨b, g, c, h, v, outs, modules, drained, unlinked, lamps, stopped, kept⟩ :=
    drain_enterClearing 998 (takeMaskExpiry_hangsUp runs gone flags) told letGo quiet awake hunt
  refine ⟨_, congrArg Host.Outcome.next drained, ?_⟩
  have lampsAre : LampsOf .clearing z
      (clearedAlone .callerHungUp true b g c h v outs modules z).bsu.outs := lamps
  exact {
    state := rfl, lastEnd := rfl, link := rfl, voice := unlinked.conn
    serving := by simp [clearedAlone, entered, clearedCal, letGo.cal]
    destination := by simp [clearedAlone, entered, clearedCal, letGo.cal, stopMask, setFlags, State.withCtx, deferred]
    releases := by simp [clearedAlone, entered, clearedCal, letGo.cal, stopMask, setFlags, State.withCtx]
    queue := by
      simp [clearedAlone, entered, letGo.queue, stopMask, setFlags, State.withCtx, nextRequest]
    lamps := lampsAre.follow letGo.bsu
    mask := by simp [clearedAlone, entered, clearedCal, letGo.cal]
    hunt := stopped
    noHunt := kept
    carrier := letGo.carrier }

/-! ### The callback window (R85) -/

/-- IDLE entered with no DOZE and no role waiting: no plan word is read. -/
theorem enterIdle_unlinked (pending : u.wch.dozePending = false) (roles : ∀ q, (u.module q).pendingRole = none) :
    ∃ v outs modules, enterIdle u = entered .idle (idleCal u.cal) v outs modules u ∧ v.conn = .none ∧
      LampsOf .idle u outs := by
  let w := writeState .idle (u.withCtx { u.cal.ctx with start := none, connect := none, serving := none })
  obtain ⟨v, audio, unlinked⟩ := stateAudio_unlinked (x := .idle) w (Or.inl rfl)
  obtain ⟨outs, lamps, follow⟩ := bsuCallState_eq (w.withVsw v)
  obtain ⟨modules, polls⟩ := mlcCallState_eq (s := (w.withVsw v).withBsu { w.bsu with outs := outs }) fun _ => roles
  have noted (x : State) (idle : x.cal.ctx.state = .idle) (none : x.wch.dozePending = false) :
      wchCallState x = x.withWch { x.wch with reported := .idle } := by
    simp [wchCallState, idle, none]
  refine ⟨v, outs, modules, ?_, unlinked, follow⟩
  have tells : enterIdle u = wchCallState (((w.withVsw v).withBsu { w.bsu with outs := outs }).withMlc
      { w.mlc with modules := modules }) := by
    rw [enterIdle, enter, audio, tellState, lamps]
    exact congrArg wchCallState polls
  rw [tells]
  exact noted _ rfl pending

theorem callbackTimerExpiry_ends (quiet : s.inbox = []) (runs : s.cal.callbackTimer.isSome = true)
    (waits : s.cal.ctx.state = .callbackWait) (answer : s.cal.ctx.answer = none) (flags : flagsSound s = true)
    (pending : s.wch.dozePending = false) (roles : ∀ q, (s.module q).pendingRole = none) :
    ∃ v outs modules g c, exec .callbackTimerExpiry s = .next ((entered .idle { idleCal { s.cal with
        callbackTimer := none, ctx := { s.cal.ctx with callback := 0, lastEnd := .windowExpired } } with fileGen := g }
          v outs modules s).withSmp { s.smp with causes := c }) ∧ v.conn = .none ∧ LampsOf .idle s outs := by
  obtain ⟨v, outs, modules, entry, unlinked, lamps⟩ := enterIdle_unlinked (u := s.withCal { s.cal with
    callbackTimer := none, ctx := { s.cal.ctx with callback := 0, lastEnd := .windowExpired } }) pending roles
  have effect := (takeCallbackExpiry_ends runs waits answer flags).trans entry
  have still : clearingOver (takeCallbackExpiry s) = false := by
    rw [effect]
    exact clearingOver_of_state CallState.noConfusion
  have after : (takeCallbackExpiry s).inbox = [] := by
    rw [effect, entered]
    simp [quiet]
  obtain ⟨g, c, event⟩ := calEvent_eq still
  refine ⟨v, outs, modules, g, c, (settled_calEvent after still).trans ?_, unlinked, lamps⟩
  rw [event, effect]
  rfl

/-- Settles O38: CAL's event of each expiry, as its timer runs or not. -/
theorem maskAndCallbackExpiries : Obligations.MaskAndCallbackExpiries := by
  intro s quiet ongoing
  refine ⟨fun none => ?_, fun none => ?_, fun runs stays => ?_,
    fun p runs gone state deferred serving hunt awake flags free =>
      hookMaskExpiry_clears quiet runs gone state deferred serving hunt awake flags free,
    fun runs waits answer flags pending roles => ?_⟩
  · have event : calEvent takeMaskExpiry s = s := calEvent_of_no_effect (takeMaskExpiry_idle none) ongoing
    exact (congrArg settled event).trans (settled_of_inbox quiet)
  · have event : calEvent takeCallbackExpiry s = s := calEvent_of_no_effect (takeCallbackExpiry_idle none) ongoing
    exact (congrArg settled event).trans (settled_of_inbox quiet)
  · obtain ⟨g, c, lifted⟩ := hookMaskExpiry_lifts quiet ongoing runs stays
    refine ⟨_, lifted, rfl, rfl, ?_⟩
    obtain ⟨⟩ := s
    rfl
  · obtain ⟨v, outs, modules, g, c, run, unlinked, lamps⟩ :=
      callbackTimerExpiry_ends quiet runs waits answer flags pending roles
    have lampsAre : LampsOf .idle s ((entered .idle { idleCal { s.cal with
      callbackTimer := none, ctx := { s.cal.ctx with callback := 0, lastEnd := .windowExpired } } with fileGen := g }
        v outs modules s).withSmp { s.smp with causes := c }).bsu.outs := lamps
    refine ⟨_, run, rfl, rfl, rfl, rfl, rfl, rfl, rfl, rfl, unlinked, lampsAre.follow rfl, rfl, ?_⟩
    simp [entered]

end Sys2Proof.Machine
end

section
/-! PROOFS. The form of a message record (R93 to R97; O44). -/

namespace Sys2Proof.Machine

variable {l : Option Location} {ctx : Context} {clock : BitVec 32} {table : List Entry}

/-! ### The sum of bytes (R94, R130) -/

theorem byteSum_append (xs ys : List Byte) : byteSum (xs ++ ys) = byteSum xs + byteSum ys := by
  have start (zs : List Byte) (a : Byte) : zs.foldl (· + ·) a = a + byteSum zs := by
    induction zs generalizing a with
    | nil => exact (BitVec.add_zero a).symm
    | cons z zs ih =>
      have first : byteSum (z :: zs) = z + byteSum zs := by
        rw [byteSum, List.foldl_cons, ih]
        exact congrArg (· + byteSum zs) (BitVec.zero_add z)
      rw [List.foldl_cons, ih, first, BitVec.add_assoc]
  rw [byteSum, List.foldl_append, start]
  rfl

theorem byteSum_checked (xs : List Byte) : byteSum (xs ++ [checkByte xs]) = 0 := by
  have one : byteSum [checkByte xs] = -(byteSum xs) := BitVec.zero_add _
  rw [byteSum_append, one]
  exact BitVec.add_right_neg _

/-! ### The record's parts (R94) -/

/-- Bytes 0 to 3. -/
def recordHead (l : Option Location) (ctx : Context) : List Byte := [1, recordFlags ctx l] ++ bytes16 ctx.sequence

/-- Bytes 35 to 42. -/
def recordMiddle (l : Option Location) (ctx : Context) (clock : BitVec 32) (table : List Entry) : List Byte :=
  [byteOf (min ctx.attempts 255)] ++ bytes16 (BitVec.ofNat 16 (secondsSince clock ctx.start))
    ++ servingBytes table ctx.serving ++ [byteOf (locationText l).length]

/-- Bytes 35 onwards. -/
def recordTail (l : Option Location) (ctx : Context) (clock : BitVec 32) (table : List Entry) : List Byte :=
  recordMiddle l ctx clock table ++ (locationText l ++ [checkByte (recordBody l ctx clock table)])

theorem messageRecord_parts : messageRecord l ctx clock table =
    recordHead l ctx ++ (locationBytes l ++ recordTail l ctx clock table) := by
  simp [messageRecord, recordHead, recordTail, recordMiddle, recordBody, List.append_assoc]

theorem locationBytes_length (idLength : ∀ x, l = some x → x.boxId.length = 16) : (locationBytes l).length = 31 := by
  cases l with
  | none => rfl
  | some x => simp [locationBytes, bytes32, bytes16, idLength x rfl]

theorem servingBytes_length (table : List Entry) (x : Option Serving) : (servingBytes table x).length = 4 := by
  unfold servingBytes
  split
  · split <;> rfl
  · rfl
  · rfl

theorem recordMiddle_length : (recordMiddle l ctx clock table).length = 8 := by
  simp [recordMiddle, bytes16, servingBytes_length]

theorem messageRecord_length (idLength : ∀ x, l = some x → x.boxId.length = 16) :
    (messageRecord l ctx clock table).length = 44 + (locationText l).length := by
  rw [messageRecord_parts, recordTail]
  simp only [List.length_append, locationBytes_length idLength, recordMiddle_length, recordHead, bytes16, List.length_cons,
    List.length_nil]
  omega

theorem record_head {i : Nat} (h : i < 4) : (messageRecord l ctx clock table).getD i 0 = (recordHead l ctx).getD i 0 := by
  rw [messageRecord_parts, List.getD_append _ _ _ _ (by exact h)]

theorem record_location (idLength : ∀ x, l = some x → x.boxId.length = 16) {i : Nat} (h : i < 31) :
    (messageRecord l ctx clock table).getD (4 + i) 0 = (locationBytes l).getD i 0 := by
  have head : (recordHead l ctx).length = 4 := rfl
  rw [messageRecord_parts, List.getD_append_right _ _ _ _ (by omega), head, Nat.add_sub_cancel_left,
    List.getD_append _ _ _ _ (by rw [locationBytes_length idLength]; exact h)]

/-- The record from byte 35 on. -/
theorem record_drop (idLength : ∀ x, l = some x → x.boxId.length = 16) :
    (messageRecord l ctx clock table).drop 35 = recordTail l ctx clock table := by
  rw [messageRecord_parts, ← List.append_assoc]
  exact List.drop_left' (by rw [List.length_append, locationBytes_length idLength]; rfl)

theorem record_middle (idLength : ∀ x, l = some x → x.boxId.length = 16) {i : Nat} (h : i < 8) :
    (messageRecord l ctx clock table).getD (35 + i) 0 = (recordMiddle l ctx clock table).getD i 0 := by
  have past : ((messageRecord l ctx clock table).drop 35).getD i 0 = (messageRecord l ctx clock table).getD (35 + i) 0 := by
    rw [List.getD_eq_getElem?_getD, List.getElem?_drop, ← List.getD_eq_getElem?_getD]
  rw [← past, record_drop idLength, recordTail, List.getD_append _ _ _ _ (by rw [recordMiddle_length]; exact h)]

/-! ### The fields (R93 to R95) -/

/-- Byte 38 to 41 of a record: where the serving bytes stand. -/
theorem recordMiddle_serving {i : Nat} (h : i < 4) :
    (recordMiddle l ctx clock table).getD (3 + i) 0 = (servingBytes table ctx.serving).getD i 0 := by
  have front : recordMiddle l ctx clock table =
      ([byteOf (min ctx.attempts 255)] ++ bytes16 (BitVec.ofNat 16 (secondsSince clock ctx.start))) ++
        (servingBytes table ctx.serving ++ [byteOf (locationText l).length]) := by
    simp [recordMiddle, List.append_assoc]
  have three : ([byteOf (min ctx.attempts 255)] ++ bytes16 (BitVec.ofNat 16 (secondsSince clock ctx.start))).length = 3 :=
    rfl
  rw [front, List.getD_append_right _ _ _ _ (by omega), three, Nat.add_sub_cancel_left,
    List.getD_append _ _ _ _ (by rw [servingBytes_length]; exact h)]

theorem recordMiddle_text : (recordMiddle l ctx clock table).getD 7 0 = byteOf (locationText l).length := by
  have front : ([byteOf (min ctx.attempts 255)] ++ bytes16 (BitVec.ofNat 16 (secondsSince clock ctx.start))
      ++ servingBytes table ctx.serving).length = 7 := by
    simp [bytes16, servingBytes_length]
  rw [recordMiddle, List.getD_append_right _ _ _ _ (by omega), front]
  rfl

theorem recordFlags_bits : (List.range 8).map (recordFlags ctx l).getLsbD =
    [ctx.kind == .test, ctx.flags.reestablished, ctx.flags.silent, l.isNone, decide (1 ≤ ctx.presses), false, false
      , false] := by
  rw [recordFlags, byteOfFlags_bits]
  rfl

/-- The bytes of a location after its box identity. -/
theorem locationBytes_after {x : Location} (idLength : x.boxId.length = 16) (i : Nat) :
    (locationBytes (some x)).getD (16 + i) 0 =
      (bytes32 x.latitude ++ bytes32 x.longitude ++ bytes16 x.route ++ bytes32 x.along ++ [x.direction]).getD i 0 := by
  have parts : locationBytes (some x) = x.boxId ++
      (bytes32 x.latitude ++ bytes32 x.longitude ++ bytes16 x.route ++ bytes32 x.along ++ [x.direction]) := by
    simp [locationBytes, List.append_assoc]
  rw [parts, List.getD_append_right _ _ _ _ (by omega), idLength, Nat.add_sub_cancel_left]

theorem locationBytes_id {x : Location} (idLength : x.boxId.length = 16) : (locationBytes (some x)).take 16 = x.boxId := by
  simp only [locationBytes, List.append_assoc]
  exact List.take_left' idLength

theorem tag_of_bytes24 (x : BitVec 24) : x.extractLsb' 16 8 ++ x.extractLsb' 8 8 ++ x.extractLsb' 0 8 = x := by
  rw [BitVec.extractLsb'_append_extractLsb'_eq_extractLsb' (by omega),
    BitVec.extractLsb'_append_extractLsb'_eq_extractLsb' (by omega)]
  exact BitVec.extractLsb'_eq_self

theorem band_of_code (x : Band) : [Band.low, .mid, .high][(byteOf (bandCode x)).toNat]? = some x := by
  cases x <;> rfl

/-! ### The segments (R96, R97) -/

theorem segmentBytes_join (r : List Byte) : segmentBytes r 1 ++ segmentBytes r 2 = r := List.take_append_drop 48 r

theorem segmentBytes_first (r : List Byte) : (segmentBytes r 1).length ≤ 48 := List.length_take_le 48 r

/-! ### The fields, where the record has them -/

theorem record_sequence : wordOf ((messageRecord l ctx clock table).getD 2 0) ((messageRecord l ctx clock table).getD 3 0) =
    ctx.sequence := by
  rw [record_head (by omega), record_head (by omega)]
  exact word_of_bytes16 ctx.sequence

theorem record_flags : (List.range 8).map ((messageRecord l ctx clock table).getD 1 0).getLsbD =
    [ctx.kind == .test, ctx.flags.reestablished, ctx.flags.silent, l.isNone, decide (1 ≤ ctx.presses), false, false
      , false] := by
  rw [record_head (by omega)]
  exact recordFlags_bits

section
variable (idLength : ∀ x, l = some x → x.boxId.length = 16)
include idLength

theorem record_boxId {x : Location} (present : l = some x) :
    ((messageRecord l ctx clock table).drop 4).take 16 = x.boxId := by
  have after : (messageRecord l ctx clock table).drop 4 = locationBytes l ++ recordTail l ctx clock table := by
    rw [messageRecord_parts]
    exact List.drop_left' rfl
  rw [after, List.take_append_of_le_length (by rw [locationBytes_length idLength]; omega), present]
  exact locationBytes_id (idLength x present)

/-- A byte of the location record after its box identity. -/
theorem record_location_after {x : Location} (present : l = some x) {i : Nat} (from20 : 20 ≤ i) (to35 : i < 35) :
    (messageRecord l ctx clock table).getD i 0 =
      (bytes32 x.latitude ++ bytes32 x.longitude ++ bytes16 x.route ++ bytes32 x.along ++ [x.direction]).getD
        (i - 20) 0 := by
  have here : i = 4 + (16 + (i - 20)) := by omega
  rw [here, record_location idLength (by omega), present, locationBytes_after (idLength x present), ← here]

theorem record_absent (absent : l = none) {i : Nat} (from4 : 4 ≤ i) (to35 : i < 35) :
    (messageRecord l ctx clock table).getD i 0 = 0 := by
  obtain ⟨j, rfl⟩ := Nat.exists_eq_add_of_le from4
  rw [record_location idLength (by omega), absent]
  exact zeros_getD 31 j

theorem record_attempts : (messageRecord l ctx clock table).getD 35 0 = BitVec.ofNat 8 (min ctx.attempts 255) :=
  record_middle idLength (i := 0) (by omega)

theorem record_seconds {u : BitVec 32} (started : ctx.start = some u) :
    wordOf ((messageRecord l ctx clock table).getD 36 0) ((messageRecord l ctx clock table).getD 37 0) =
      BitVec.ofNat 16 (min (clock - u).toNat 65535) := by
  have seconds : secondsSince clock ctx.start = min (clock - u).toNat 65535 := by
    rw [started]
    rfl
  rw [record_middle idLength (i := 1) (by omega), record_middle idLength (i := 2) (by omega), ← seconds]
  exact word_of_bytes16 _

theorem record_serving {i : Nat} (from38 : 38 ≤ i) (to42 : i < 42) :
    (messageRecord l ctx clock table).getD i 0 = (servingBytes table ctx.serving).getD (i - 38) 0 := by
  have here : i = 35 + (3 + (i - 38)) := by omega
  rw [here, record_middle idLength (by omega), recordMiddle_serving (by omega), ← here]

theorem record_carrier {k : Key} {e : Entry} (serving : ctx.serving = some (.hunted k))
    (found : findEntry table k = some e) :
    [Band.low, .mid, .high][((messageRecord l ctx clock table).getD 38 0).toNat]? = some e.band ∧
      (messageRecord l ctx clock table).getD 41 0 ++ (messageRecord l ctx clock table).getD 40 0 ++
        (messageRecord l ctx clock table).getD 39 0 = k.tag := by
  have bytes : servingBytes table ctx.serving = byteOf (bandCode e.band) :: bytes24 k.tag := by
    simp only [servingBytes, serving, found]
  simp only [record_serving idLength, bytes, Nat.reduceLeDiff, Nat.reduceLT]
  exact ⟨band_of_code e.band, tag_of_bytes24 k.tag⟩

theorem record_incoming {q : Pos} (serving : ctx.serving = some (.incoming q)) :
    (messageRecord l ctx clock table).getD 38 0 = 255 ∧ (messageRecord l ctx clock table).getD 39 0 = 0 ∧
      (messageRecord l ctx clock table).getD 40 0 = 0 ∧ (messageRecord l ctx clock table).getD 41 0 = 0 := by
  have bytes : servingBytes table ctx.serving = [255, 0, 0, 0] := by
    rw [serving]
    rfl
  simp only [record_serving idLength, bytes, Nat.reduceLeDiff, Nat.reduceLT]
  exact ⟨rfl, rfl, rfl, rfl⟩

theorem record_textLength : (messageRecord l ctx clock table).getD 42 0 = BitVec.ofNat 8 (locationText l).length :=
  (record_middle idLength (i := 7) (by omega)).trans recordMiddle_text

theorem record_text : ((messageRecord l ctx clock table).drop 43).take (locationText l).length = locationText l := by
  have past : (messageRecord l ctx clock table).drop 43 =
      locationText l ++ [checkByte (recordBody l ctx clock table)] := by
    rw [show 43 = 35 + 8 from rfl, ← List.drop_drop, record_drop idLength, recordTail]
    exact List.drop_left' recordMiddle_length
  rw [past]
  exact List.take_left

end

end Sys2Proof.Machine
end

section
/-! PROOFS. A delivery ends: LMU lets go of the message, and CAL takes the conclusion in LOCATING (R72, R73, R86, R100 to
R102; O44). -/

namespace Sys2Proof.Machine

variable {s u z : State} {p : Pos} {d : Bool}

/-! ### LMU lets go of the message (R102, R139) -/

/-- The queue without the DATA of the delivery. -/
def waitingRequests (s : State) : List Request := s.mlc.queue.filter (fun r => s.lmu.current != some r.number)

/-- The DATA is of the delivery alone: its withdrawal takes it from the queue. -/
theorem withdrawIf_lmu (own : ∀ r ∈ s.mlc.queue, s.lmu.current = some r.number → r.owners = [.lmu]) :
    withdrawIf .lmu s.lmu.current s = s.withQueue (waitingRequests s) := by
  unfold withdrawIf waitingRequests
  cases current : s.lmu.current with
  | none =>
    have all : s.mlc.queue.filter (fun r => (none : Option Nat) != some r.number) = s.mlc.queue := by simp
    rw [all]
    rfl
  | some n =>
    dsimp only
    cases found : s.mlc.queue.find? (fun r => r.number == n) with
    | none =>
      have gone : ∀ r ∈ s.mlc.queue, r.number ≠ n := by simpa using found
      have all : s.mlc.queue.filter (fun r => some n != some r.number) = s.mlc.queue :=
        List.filter_eq_self.mpr fun r there => by simpa using (gone r there).symm
      have left : (withdraw .lmu n s).2 = s := by
        unfold withdraw
        rw [found]
        dsimp only
        split
        · split <;> rfl
        · rfl
      rw [left, all]
      rfl
    | some r =>
      have number : r.number = n := by simpa using List.find?_some found
      have owners : r.owners = [.lmu] := own r (List.mem_of_find?_eq_some found) (by rw [current, number])
      have same : dropNumber n s.mlc.queue = s.mlc.queue.filter (fun r => some n != some r.number) := by
        refine List.filter_congr fun x _ => ?_
        by_cases e : x.number = n
        · simp [e]
        · have e' : (some n == some x.number) = false := by simpa using fun here => e here.symm
          simp [e, bne, e']
      unfold withdraw
      simp only [found, owners]
      rw [← same]
      rfl

/-- The voice switch without the tone and the mutes of a delivery. -/
structure Unmuted (v : Vsw) : Prop where
  uplink : v.uplinkMute = false
  downlink : v.downlinkMute = false
  wait : v.requested.wait = false

/-- The state after a delivery, before CAL has the conclusion. -/
def deliveryEnded (d : Bool) (v : Vsw) (s : State) : State :=
  (((s.withQueue (waitingRequests s)).withVsw v).withSmp
    { s.smp with causes := if d then s.smp.causes else causeSet s.smp.causes .messageUndelivered }).withLmu
      { s.lmu with state := .idle, pos := none, record := none, current := none, ackTimer := none }

theorem lmuConclude_eq (sound : s.pln.damaged = [])
    (own : ∀ r ∈ s.mlc.queue, s.lmu.current = some r.number → r.owners = [.lmu]) :
    ∃ v, lmuConclude d s = post (.calConcluded d) (deliveryEnded d v s) ∧ Unmuted v := by
  let w := s.withLmu { s.lmu with ackTimer := none }
  have withdrawn : withdrawIf .lmu w.lmu.current w = w.withQueue (waitingRequests s) := withdrawIf_lmu (s := w) own
  obtain ⟨v, tone, requested, path⟩ := vswTone_eq .wait false (s := vswMutes false (w.withQueue (waitingRequests s))) sound
  refine ⟨v, ?_, path.uplink, path.downlink, congrArg ToneSet.wait requested⟩
  have ended : lmuConclude d s = lmuIdle (post (.calConcluded d)
      (if d then (vswMutes false (w.withQueue (waitingRequests s))).withVsw v
        else raise .messageUndelivered ((vswMutes false (w.withQueue (waitingRequests s))).withVsw v))) := by
    rw [← tone, ← withdrawn]
    rfl
  rw [ended]
  cases d <;> rfl

/-! ### The commands that conclude a delivery (R100, R101) -/

/-- A delivery is concluded by a verdict, or by the failure of the last try. -/
def Concludes (p : Pos) (d : Bool) (s : State) (c : Instr) : Prop :=
  (c = .dataResult p .accepted ∧ d = true ∧ s.lmu.state ≠ .idle ∧ s.lmu.replySeen = true) ∨
  (c = .dataResult p .rejected ∧ d = false ∧ s.lmu.state ≠ .idle ∧ s.lmu.replySeen = true) ∨
  (c = .dataResult p .repeated ∧ d = false ∧ s.lmu.state = .awaiting ∧ s.lmu.replySeen = true ∧
    s.pln.plan.hunt.messageRetries + 1 ≤ s.lmu.tries) ∨
  (c = .acknowledgementTimerExpiry ∧ d = false ∧ s.lmu.state = .awaiting ∧ s.lmu.ackTimer.isSome = true ∧
    s.pln.plan.hunt.messageRetries + 1 ≤ s.lmu.tries)

theorem exec_dataResult (quiet : s.inbox = []) (v : DataVerdict) :
    exec (.dataResult p v) s = .next (drain 999 (lmuTakeVerdict p v s)) :=
  settled_dispatch (e := .dataResult v) quiet rfl

theorem lmuTakeVerdict_heard (runs : s.lmu.state ≠ .idle) (pos : s.lmu.pos = some p) (seen : s.lmu.replySeen = true) :
    lmuTakeVerdict p .accepted s = lmuConclude true s ∧ lmuTakeVerdict p .rejected s = lmuConclude false s ∧
      (s.lmu.state = .awaiting → lmuTakeVerdict p .repeated s = lmuTryFailed triesFuel s) := by
  have heard : ¬ (s.lmu.state = .idle ∨ s.lmu.pos ≠ some p ∨ s.lmu.replySeen = false) := by simp [runs, pos, seen]
  exact ⟨if_neg heard, if_neg heard, fun awaits => (if_neg heard).trans (if_pos awaits)⟩

theorem lmuTryFailed_last {n : Nat} (sound : s.pln.damaged = [])
    (tries : s.pln.plan.hunt.messageRetries + 1 ≤ s.lmu.tries) : lmuTryFailed (n + 1) s = lmuConclude false s := by
  have read := touch_sound (i := 21) (s := s.withLmu { s.lmu with ackTimer := none }) sound
  have last : ¬ s.lmu.tries < s.pln.plan.hunt.messageRetries + 1 := by omega
  unfold lmuTryFailed
  rw [read]
  exact if_neg last

theorem exec_ackExpiry (awaits : s.lmu.state = .awaiting) (runs : s.lmu.ackTimer.isSome = true) :
    exec .acknowledgementTimerExpiry s = settled (lmuTryFailed triesFuel s) := by
  change settled (lmuAckExpiry s) = _
  rw [lmuAckExpiry, if_pos ⟨runs, awaits⟩]

theorem exec_concludes {c : Instr} (quiet : s.inbox = []) (sound : s.pln.damaged = []) (pos : s.lmu.pos = some p)
    (ends : Concludes p d s c) : ∃ n, exec c s = .next (drain (n + 4) (lmuConclude d s)) := by
  have verdict {v : DataVerdict} (heard : lmuTakeVerdict p v s = lmuConclude d s) :
      exec (.dataResult p v) s = .next (drain 999 (lmuConclude d s)) := by
    rw [exec_dataResult quiet, heard]
  obtain ⟨rfl, rfl, runs, seen⟩ | ⟨rfl, rfl, runs, seen⟩ | ⟨rfl, rfl, awaits, seen, tries⟩ |
    ⟨rfl, rfl, awaits, runs, tries⟩ := ends
  · obtain ⟨accepted, _, _⟩ := lmuTakeVerdict_heard runs pos seen
    exact ⟨995, verdict accepted⟩
  · obtain ⟨_, rejected, _⟩ := lmuTakeVerdict_heard runs pos seen
    exact ⟨995, verdict rejected⟩
  · have runs : s.lmu.state ≠ .idle := by rw [awaits]; decide
    obtain ⟨_, _, repeated⟩ := lmuTakeVerdict_heard runs pos seen
    exact ⟨995, verdict ((repeated awaits).trans (lmuTryFailed_last sound tries))⟩
  · refine ⟨996, (exec_ackExpiry awaits runs).trans ?_⟩
    rw [triesFuel, lmuTryFailed_last sound tries]
    rfl

/-- A report that finds nothing before it, with any fuel. -/
theorem drain_post {m : Msg} (n : Nat) (quiet : s.inbox = []) : drain (n + 1) (post m s) = drain n (handle m s) := by
  have inbox : (post m s).inbox = [m] := by
    rw [post, quiet]
    rfl
  have bare : (post m s).withInbox [] = s := by
    rw [← quiet]
    rfl
  have first : drainOne m [] (post m s) = handle m s := by
    simp only [drainOne, bare, inboxAfter_nil]
    rfl
  rw [drain_cons n inbox, first]

/-! ### CAL takes the conclusion in LOCATING (R72, R73, R86) -/

/-- The state in which CAL acts on a conclusion: the message's fate is known. -/
def fateKnown (d : Bool) (v : Vsw) (s : State) : State :=
  (deliveryEnded d v s).withCtx { s.cal.ctx with message := if d then .delivered else .undelivered }

theorem takeConcluded_locating {v : Vsw} (locating : s.cal.ctx.state = .locating) (flags : flagsSound s = true) :
    takeConcluded d (deliveryEnded d v s) =
      if s.cal.ctx.flags.clearDeferred then clearActs (fateKnown d v s) else talkFromLocating (fateKnown d v s) := by
  have here : (deliveryEnded d v s).cal.ctx.state = .locating := locating
  rw [takeConcluded, if_pos here]
  exact transition_sound flags

/-- The voice switch of a call in TALK. -/
structure Talks (v : Vsw) : Prop extends Unmuted v where
  chime : v.requested.chime = true

theorem stateAudio_talks (sound : s.pln.damaged = []) (silent : s.vsw.requested.wait = false) :
    ∃ v, stateAudio .talk s = s.withVsw v ∧ Talks v := by
  obtain ⟨v, tones, requested⟩ := withdrawTones_requested s
  obtain ⟨w, link, requested'⟩ : ∃ w, (match servingPos (s.withVsw v).cal.ctx.serving with
      | some p => vswLink p (s.withVsw v)
      | none => s.withVsw v) = (s.withVsw v).withVsw w ∧ w.requested = v.requested := by
    split
    next p _ =>
      obtain ⟨w, link, _, requested'⟩ := vswLink_eq p (s := s.withVsw v) sound
      exact ⟨w, link, requested'⟩
    · exact ⟨v, rfl, rfl⟩
  obtain ⟨x, chime, requested'', _⟩ := vswTone_eq .chime true (s := (s.withVsw v).withVsw w) sound
  have tones' : x.requested = ((s.vsw.requested.put .reassure false).put .chime false).put .chime true :=
    requested''.trans (congrArg (fun y : ToneSet => y.put .chime true) (requested'.trans requested))
  refine ⟨{ x with uplinkMute := false, downlinkMute := false }, ?_, ⟨rfl, rfl, ?_⟩, congrArg ToneSet.chime tones'⟩
  · simp only [stateAudio, tones]
    exact congrArg (fun y => vswMutes false (vswTone .chime true y)) link |>.trans (congrArg (vswMutes false) chime)
  · exact (congrArg ToneSet.wait tones').trans silent

/-- CAL's record on the entry to TALK. -/
def talkingCal (c : Cal) : Cal := { c with ctx := { c.ctx with state := .talk }, held7 := stateFlags .talk }

theorem enterTalk_entered (sound : u.pln.damaged = []) (silent : u.vsw.requested.wait = false)
    (awake : u.wch.doze = false) : ∃ v outs modules,
      enter .talk u = entered .talk (talkingCal u.cal) v outs modules u ∧ Talks v ∧ LampsOf .talk u outs := by
  obtain ⟨v, audio, talks⟩ := stateAudio_talks (s := writeState .talk u) sound silent
  obtain ⟨outs, modules, entry, lamps⟩ := enter_entered (u := u) audio awake
    (fun h => absurd h (by decide)) (fun h => absurd h (by decide))
  exact ⟨v, outs, modules, entry, talks, lamps⟩

end Sys2Proof.Machine
end

section
/-! PROOFS. What a concluded delivery leaves: TALK under the hook mask, or the call clearing (R72, R73, R86, R102; O44). -/

namespace Sys2Proof.Machine

variable {s t u z : State} {p : Pos} {d : Bool} {cause : LastEnd} {toCallback : Bool}

/-! ### The call clearing -/

/-- What a call that clears from `u` has become. -/
structure Cleared (u t : State) (p : Pos) (cause : LastEnd) (toCallback : Bool) : Prop where
  state : t.cal.ctx.state = .clearing
  lastEnd : t.cal.ctx.lastEnd = cause
  destination : t.cal.destination = (toCallback && !u.cal.ctx.flags.clearDeferred)
  serving : t.cal.ctx.serving = none
  releases : t.cal.ctx.releases = u.cal.ctx.releases.set p true
  queue : t.mlc.queue = u.mlc.queue ++ [nextRequest u .calRelease p .release []]
  mask : t.cal.mask = none
  masked : t.cal.ctx.flags.masked = false
  deferred : t.cal.ctx.flags.clearDeferred = false
  clear : t.cal.clear = u.cal.clear
  message : t.cal.ctx.message = u.cal.ctx.message
  voice : Unlinked u.vsw t.vsw
  lmu : t.lmu = u.lmu
  pln : t.pln = u.pln

theorem drain_clears {f : State → State} (n : Nat) (effect : f s = enterClearing cause toCallback u)
    (told : DeliveryOver u) (serving : servingPos u.cal.ctx.serving = some p) (free : callPlaceFree p u = true)
    (quiet : u.inbox = []) (awake : u.wch.doze = false) (hunt : huntSettled u = true) :
    Cleared u (drain (n + 2) (calEvent f s)) p cause toCallback := by
  obtain ⟨z, gone⟩ := servingGone_of_free serving free
  obtain ⟨b, g, c, h, v, outs, modules, drained, unlinked, _, _, _⟩ :=
    drain_enterClearing n effect told gone quiet awake hunt
  rw [gone.vsw] at unlinked
  rw [drained]
  constructor
  case voice => exact unlinked
  all_goals simp [clearedAlone, entered, clearedCal, gone.cal, gone.queue, gone.lmu, gone.pln]

/-- A place that is free is free in a part of the queue too. -/
theorem callPlaceFree_filter {keep : Request → Bool} (queue : u.mlc.queue = s.mlc.queue.filter keep)
    (free : callPlaceFree p s = true) : callPlaceFree p u = true := by
  simp only [callPlaceFree, Bool.and_eq_true, Option.isNone_iff_eq_none, roomFor, decide_eq_true_eq, callPlace,
    List.find?_eq_none] at free ⊢
  obtain ⟨none, room⟩ := free
  have shorter : u.mlc.queue.length ≤ s.mlc.queue.length := queue ▸ List.length_filter_le ..
  exact ⟨fun r there => none r (List.mem_of_mem_filter (queue ▸ there)), by omega⟩

/-! ### The hook mask after a delivery (R72, R73) -/

/-- CAL's record under the hook mask: a hold of 0 ends it at once. -/
def maskedCal (hold : Nat) (c : Cal) : Cal :=
  { c with
    mask := if hold = 0 then none else some (1000 * hold)
    ctx := { c.ctx with flags := { c.ctx.flags with masked := decide (0 < hold) } } }

theorem talkFromLocating_masks {e : State} (entry : enter .talk u = e) (sound : e.pln.damaged = [])
    (stays : 0 < e.pln.plan.call.holdAfter ∨ e.cal.ctx.flags.abandonPending = false) :
    talkFromLocating u = e.withCal (maskedCal e.pln.plan.call.holdAfter e.cal) := by
  rw [talkFromLocating, entry, touch_sound sound]
  dsimp only
  by_cases hold : e.pln.plan.call.holdAfter = 0
  · have stays : e.cal.ctx.flags.abandonPending = false := stays.resolve_left (by omega)
    rw [if_pos hold, if_neg (by simp [stays]), maskedCal, hold]
    rfl
  · have runs : 0 < e.pln.plan.call.holdAfter := by omega
    rw [if_neg hold, maskedCal, if_neg hold, decide_eq_true runs]
    rfl

theorem talkFromLocating_hangsUp {e : State} (entry : enter .talk u = e) (sound : e.pln.damaged = [])
    (hold : e.pln.plan.call.holdAfter = 0) (gone : e.cal.ctx.flags.abandonPending = true) :
    talkFromLocating u = enterClearing .callerHungUp true (stopMask e) := by
  rw [talkFromLocating, entry, touch_sound sound]
  dsimp only
  rw [if_pos hold, if_pos gone]
  rfl

/-! ### The conclusion (R100, R101, R102) -/

/-- LMU's record with no message. -/
def lmuEnded (l : Lmu) : Lmu :=
  { l with state := .idle, pos := none, record := none, current := none, ackTimer := none }

/-- What every conclusion in LOCATING leaves. -/
structure Concluded (d : Bool) (s t : State) : Prop where
  message : t.cal.ctx.message = if d then .delivered else .undelivered
  cause : d = false → t.smp.causes.getLsbD 6 = true
  lmu : t.lmu = lmuEnded s.lmu
  voice : Unmuted t.vsw
  pln : t.pln = s.pln

theorem Unlinked.unmuted {v w : Vsw} (h : Unlinked v w) (silent : v.requested.wait = false) : Unmuted w :=
  ⟨h.uplink, h.downlink, h.wait.trans silent⟩

theorem drain_lmuConclude_cause (n : Nat) (sound : s.pln.damaged = [])
    (own : ∀ r ∈ s.mlc.queue, s.lmu.current = some r.number → r.owners = [.lmu]) (undelivered : d = false) :
    (drain n (lmuConclude d s)).smp.causes.getLsbD 6 = true := by
  obtain ⟨v, ended, _⟩ := lmuConclude_eq (d := d) sound own
  refine drain_causes n _ ?_
  rw [ended, undelivered]
  exact causeSet_own s.smp.causes .messageUndelivered

/-- A delivery in LOCATING concluded by a command: CAL's event on it, and what it sets off. -/
theorem exec_concludes_locating {c : Instr} (quiet : s.inbox = []) (sound : s.pln.damaged = []) (pos : s.lmu.pos = some p)
    (ends : Concludes p d s c) (own : ∀ r ∈ s.mlc.queue, s.lmu.current = some r.number → r.owners = [.lmu]) :
    ∃ n v, exec c s = .next (drain (n + 3) (calEvent (takeConcluded d) (deliveryEnded d v s))) ∧ Unmuted v ∧
      (d = false → (drain (n + 3) (calEvent (takeConcluded d) (deliveryEnded d v s))).smp.causes.getLsbD 6 = true) := by
  obtain ⟨n, run⟩ := exec_concludes quiet sound pos ends
  obtain ⟨v, ended, unmuted⟩ := lmuConclude_eq (d := d) sound own
  have after : (deliveryEnded d v s).inbox = [] := by simp [deliveryEnded, State.withQueue, quiet]
  have taken : drain (n + 4) (lmuConclude d s) =
      drain (n + 3) (calEvent (takeConcluded d) (deliveryEnded d v s)) := by
    rw [ended]
    exact drain_post (n + 3) after
  exact ⟨n, v, run.trans (congrArg Host.Outcome.next taken), unmuted,
    fun undelivered => taken ▸ drain_lmuConclude_cause (n + 4) sound own undelivered⟩

/-- What CAL acts on keeps what it says of the call and of the hunt. -/
theorem fateKnown_keeps (d : Bool) (v : Vsw) (s : State) :
    (fateKnown d v s).cal = { s.cal with
      ctx := { s.cal.ctx with message := if d then .delivered else .undelivered } } ∧
    (fateKnown d v s).mlc = { s.mlc with queue := waitingRequests s } ∧ (fateKnown d v s).lmu = lmuEnded s.lmu ∧
    (fateKnown d v s).vsw = v ∧ (fateKnown d v s).pln = s.pln ∧ (fateKnown d v s).wch = s.wch ∧
    (fateKnown d v s).hnt = s.hnt ∧ (fateKnown d v s).bsu = s.bsu ∧ (fateKnown d v s).ctu = s.ctu ∧
    (fateKnown d v s).inbox = s.inbox := by
  simp [fateKnown, deliveryEnded, State.withQueue, State.withCtx, lmuEnded]

end Sys2Proof.Machine
end

section
/-! PROOFS. The conclusion of a delivery, the tries before it, and the verdicts that are ignored (R72, R73, R86, R97 to
R102; O44). -/

namespace Sys2Proof.Machine

variable {s t u z : State} {p : Pos} {d : Bool} {v : Vsw}

/-! ### TALK (R72, R87) -/

/-- The call in TALK under the hook mask, published. -/
def talkingUnderMask (hold : Nat) (g : Word) (c : BitVec 13) (w : Vsw) (outs : PerOut OutputState)
    (modules : PerPos Module) (u : State) : State :=
  (entered .talk { maskedCal hold (talkingCal u.cal) with fileGen := g } w outs modules u).withSmp
    { u.smp with causes := c }

theorem conclusion_talks (n : Nat) (quiet : s.inbox = []) (sound : s.pln.damaged = []) (unmuted : Unmuted v)
    (locating : s.cal.ctx.state = .locating) (flags : flagsSound s = true) (awake : s.wch.doze = false)
    (deferred : s.cal.ctx.flags.clearDeferred = false)
    (stays : 0 < s.pln.plan.call.holdAfter ∨ s.cal.ctx.flags.abandonPending = false) : ∃ g c w outs modules,
      drain n (calEvent (takeConcluded d) (deliveryEnded d v s)) =
        talkingUnderMask s.pln.plan.call.holdAfter g c w outs modules (fateKnown d v s) ∧ Talks w ∧
      LampsOf .talk (fateKnown d v s) outs := by
  obtain ⟨w, outs, modules, entry, talks, lamps⟩ :=
    enterTalk_entered (u := fateKnown d v s) sound unmuted.wait awake
  have effect := (takeConcluded_locating (d := d) (v := v) locating flags).trans
    ((if_neg (by rw [deferred]; decide)).trans (talkFromLocating_masks entry sound stays))
  obtain ⟨g, c, event⟩ := calEvent_eq (f := takeConcluded d) (s := deliveryEnded d v s) (by
    rw [effect]
    exact clearingOver_of_state CallState.noConfusion)
  have shown' : calEvent (takeConcluded d) (deliveryEnded d v s) =
      talkingUnderMask s.pln.plan.call.holdAfter g c w outs modules (fateKnown d v s) := by
    rw [event, effect]
    rfl
  have after : (calEvent (takeConcluded d) (deliveryEnded d v s)).inbox = [] := by
    rw [shown', talkingUnderMask, entered]
    simp [fateKnown_keeps, quiet]
  exact ⟨g, c, w, outs, modules, (drain_of_inbox after).trans shown', talks, lamps⟩

/-! ### The call clears instead (R73, R86) -/

/-- A clearing from `u` finds there what the delivery has left of `s`. -/
structure ClearsAfter (d : Bool) (s u : State) : Prop where
  serving : u.cal.ctx.serving = s.cal.ctx.serving
  releases : u.cal.ctx.releases = s.cal.ctx.releases
  deferred : u.cal.ctx.flags.clearDeferred = s.cal.ctx.flags.clearDeferred
  link : u.cal.ctx.huntLink = s.cal.ctx.huntLink
  message : u.cal.ctx.message = if d then .delivered else .undelivered
  clear : u.cal.clear = s.cal.clear
  queue : u.mlc.queue = waitingRequests s
  number : u.mlc.nextNumber = s.mlc.nextNumber
  lmu : u.lmu = lmuEnded s.lmu
  pln : u.pln = s.pln
  wch : u.wch.doze = s.wch.doze
  hnt : u.hnt = s.hnt
  quiet : u.inbox = s.inbox
  silent : u.vsw.requested.wait = false

/-- What a clearing in the conclusion's place leaves (R73, R86). -/
structure ClearedAfter (s t : State) (p : Pos) (cause : LastEnd) (toCallback : Bool) : Prop where
  state : t.cal.ctx.state = .clearing
  lastEnd : t.cal.ctx.lastEnd = cause
  destination : t.cal.destination = (toCallback && !s.cal.ctx.flags.clearDeferred)
  serving : t.cal.ctx.serving = none
  releases : t.cal.ctx.releases = s.cal.ctx.releases.set p true
  queue : t.mlc.queue = waitingRequests s ++ [nextRequest s .calRelease p .release []]
  mask : t.cal.mask = none
  masked : t.cal.ctx.flags.masked = false
  deferred : t.cal.ctx.flags.clearDeferred = false
  clear : t.cal.clear = s.cal.clear
  voice : t.vsw.conn = .none

theorem ClearsAfter.over (after : ClearsAfter d s u) : DeliveryOver u := fun _ =>
  ⟨by rw [after.lmu]; rfl, by rw [after.message]; cases d <;> decide⟩

theorem ClearsAfter.huntSettled (after : ClearsAfter d s u) (hunt : huntSettled s = true) : huntSettled u = true := by
  simpa only [Machine.huntSettled, noRecord, State.record, after.link, after.hnt] using hunt

/-- The call clears in the conclusion's place. -/
theorem ClearsAfter.drain {f : State → State} {cause : LastEnd} {toCallback : Bool} (n : Nat) (after : ClearsAfter d s u)
    (effect : f z = enterClearing cause toCallback u) (quiet : s.inbox = []) (awake : s.wch.doze = false)
    (serving : servingPos s.cal.ctx.serving = some p) (hunt : Machine.huntSettled s = true)
    (free : callPlaceFree p s = true)
    (told : d = false → (Machine.drain (n + 2) (calEvent f z)).smp.causes.getLsbD 6 = true) :
    Concluded d s (Machine.drain (n + 2) (calEvent f z)) ∧
      ClearedAfter s (Machine.drain (n + 2) (calEvent f z)) p cause toCallback := by
  have cleared := drain_clears n effect after.over (after.serving ▸ serving) (callPlaceFree_filter after.queue free)
    (after.quiet.trans quiet) (after.wch.trans awake) (after.huntSettled hunt)
  have request : nextRequest u .calRelease p .release [] = nextRequest s .calRelease p .release [] := by
    rw [nextRequest, after.number]
    rfl
  refine ⟨⟨cleared.message.trans after.message, told, cleared.lmu.trans after.lmu, cleared.voice.unmuted after.silent,
    cleared.pln.trans after.pln⟩, ?_⟩
  exact {
    state := cleared.state, lastEnd := cleared.lastEnd, serving := cleared.serving, mask := cleared.mask
    masked := cleared.masked, deferred := cleared.deferred, voice := cleared.voice.conn
    destination := after.deferred ▸ cleared.destination
    releases := after.releases ▸ cleared.releases
    queue := by rw [cleared.queue, after.queue, request]
    clear := cleared.clear.trans after.clear }

theorem stopCallbackTimer_clearsAfter (unmuted : Unmuted v) : ClearsAfter d s (stopCallbackTimer (fateKnown d v s)) := by
  constructor
  case silent => exact unmuted.wait
  all_goals simp [stopCallbackTimer, fateKnown_keeps]

theorem stopMask_clearsAfter {w : Vsw} {outs : PerOut OutputState} {modules : PerPos Module} (talks : Talks w) :
    ClearsAfter d s (stopMask (entered .talk (talkingCal (fateKnown d v s).cal) w outs modules (fateKnown d v s))) := by
  constructor
  case silent => exact talks.wait
  all_goals simp [stopMask, setFlags, State.withCtx, entered, talkingCal, fateKnown_keeps]

/-- A deferred CLEAR acts in place of TALK. -/
theorem takeConcluded_deferred (locating : s.cal.ctx.state = .locating) (flags : flagsSound s = true)
    (deferred : s.cal.ctx.flags.clearDeferred = true) : takeConcluded d (deliveryEnded d v s) =
      enterClearing .hostCleared false (stopCallbackTimer (fateKnown d v s)) :=
  (takeConcluded_locating locating flags).trans (if_pos deferred)

/-- A caller who has hung up is cleared where the hold is 0. -/
theorem takeConcluded_hangsUp (sound : s.pln.damaged = []) (unmuted : Unmuted v) (locating : s.cal.ctx.state = .locating)
    (flags : flagsSound s = true) (awake : s.wch.doze = false) (deferred : s.cal.ctx.flags.clearDeferred = false)
    (hold : s.pln.plan.call.holdAfter = 0) (gone : s.cal.ctx.flags.abandonPending = true) :
    ∃ u, takeConcluded d (deliveryEnded d v s) = enterClearing .callerHungUp true u ∧ ClearsAfter d s u := by
  obtain ⟨w, outs, modules, entry, talks, _⟩ :=
    enterTalk_entered (u := fateKnown d v s) sound unmuted.wait awake
  exact ⟨_, (takeConcluded_locating locating flags).trans ((if_neg (by rw [deferred]; decide)).trans
    (talkFromLocating_hangsUp entry sound hold gone)), stopMask_clearsAfter talks⟩

/-! ### The tries, and what is ignored (R97, R99 to R101) -/

/-- The delivery with segment 1 sent again. -/
def triedAgain (s : State) (p : Pos) (record : List Byte) : State :=
  (s.withMlc { s.mlc with
    queue := s.mlc.queue ++ [nextRequest s .lmu p .data ([1, byteOf s.lmu.segments] ++ segmentBytes record 1)]
    nextNumber := s.mlc.nextNumber + 1 }).withLmu
      { s.lmu with
        state := .sending, segment := 1, tries := s.lmu.tries + 1, ackTimer := none
        current := some (s.mlc.nextNumber + 1) }

theorem lmuTryFailed_tries {record : List Byte} (sound : s.pln.damaged = []) (pos : s.lmu.pos = some p)
    (stands : s.lmu.record = some record) (tries : s.lmu.tries < s.pln.plan.hunt.messageRetries + 1)
    (free : messagePlace s.mlc.queue p = none) (room : roomFor 1 s = true) :
    lmuTryFailed triesFuel s = triedAgain s p record :=
  lmuTryFailed_again sound tries
    (lmuSend_free (u := s.withLmu { s.lmu with ackTimer := none, tries := s.lmu.tries + 1 }) 1 pos stands free room)

theorem exec_failedDelivery {record : List Byte} {c : Instr} (quiet : s.inbox = []) (sound : s.pln.damaged = [])
    (pos : s.lmu.pos = some p) (stands : s.lmu.record = some record) (awaits : s.lmu.state = .awaiting)
    (fails : c = .acknowledgementTimerExpiry ∧ s.lmu.ackTimer.isSome = true ∨
      c = .dataResult p .repeated ∧ s.lmu.replySeen = true)
    (tries : s.lmu.tries < s.pln.plan.hunt.messageRetries + 1) (free : messagePlace s.mlc.queue p = none)
    (room : roomFor 1 s = true) : exec c s = .next (triedAgain s p record) := by
  have again := lmuTryFailed_tries sound pos stands tries free room
  have after : (triedAgain s p record).inbox = [] := by simp [triedAgain, quiet]
  obtain ⟨rfl, runs⟩ | ⟨rfl, seen⟩ := fails
  · rw [exec_ackExpiry awaits runs, again, settled_of_inbox after]
  · have runs : s.lmu.state ≠ .idle := by rw [awaits]; decide
    obtain ⟨_, _, repeated⟩ := lmuTakeVerdict_heard runs pos seen
    rw [exec_dataResult quiet, repeated awaits, again, drain_of_inbox after]

theorem lmuTakeVerdict_ignored {x : DataVerdict} (ignored : s.lmu.state = .idle ∨ s.lmu.pos ≠ some p ∨
    s.lmu.replySeen = false ∨ (x = .repeated ∧ s.lmu.state = .sending)) : lmuTakeVerdict p x s = s := by
  unfold lmuTakeVerdict
  split
  · rfl
  next heard =>
    simp only [not_or] at heard
    obtain ⟨runs, here, seen⟩ := heard
    obtain ⟨rfl, sending⟩ : x = .repeated ∧ s.lmu.state = .sending := by tauto
    exact if_neg (by rw [sending]; decide)

/-! ### What the statement says, part by part -/

theorem talkingUnderMask_keeps (hold : Nat) (g : Word) (c : BitVec 13) (w : Vsw) (outs : PerOut OutputState)
    (modules : PerPos Module) (d : Bool) (v : Vsw) (s : State) :
    let t := talkingUnderMask hold g c w outs modules (fateKnown d v s)
    t.cal.ctx.state = .talk ∧ t.cal.ctx.flags.masked = decide (0 < hold) ∧
      t.cal.mask = (if hold = 0 then none else some (1000 * hold)) ∧ t.cal.ctx.serving = s.cal.ctx.serving ∧
      t.cal.ctx.message = (if d then .delivered else .undelivered) ∧ t.lmu = lmuEnded s.lmu ∧ t.pln = s.pln ∧ t.vsw = w ∧
      t.hnt = s.hnt ∧ t.ctu = s.ctu ∧ t.mlc.queue = waitingRequests s ∧ t.bsu.outs = outs := by
  simp [talkingUnderMask, entered, maskedCal, talkingCal, fateKnown_keeps]

/-- The conclusion of a delivery with TALK. -/
theorem exec_concludes_talks {c : Instr} (calm : calmPart s = true) (pos : s.lmu.pos = some p) (ends : Concludes p d s c)
    (locating : s.cal.ctx.state = .locating) (flags : flagsSound s = true) (awake : s.wch.doze = false)
    (own : ∀ r ∈ s.mlc.queue, s.lmu.current = some r.number → r.owners = [.lmu])
    (deferred : s.cal.ctx.flags.clearDeferred = false)
    (stays : 0 < s.pln.plan.call.holdAfter ∨ s.cal.ctx.flags.abandonPending = false) :
    ∃ t, exec c s = .next t ∧ Concluded d s t ∧ t.cal.ctx.state = .talk ∧ LampsFollow s t .talk ∧
      t.cal.ctx.flags.masked = decide (0 < s.pln.plan.call.holdAfter) ∧
      t.cal.mask = (if s.pln.plan.call.holdAfter = 0 then none else some (1000 * s.pln.plan.call.holdAfter)) ∧
      t.cal.ctx.serving = s.cal.ctx.serving ∧ t.vsw.requested.chime = true ∧ t.hnt = s.hnt ∧ t.ctu = s.ctu ∧
      t.mlc.queue = waitingRequests s := by
  simp only [calmPart, Bool.and_eq_true, beq_iff_eq] at calm
  obtain ⟨quiet, sound⟩ := calm
  obtain ⟨n, v, run, unmuted, told⟩ := exec_concludes_locating quiet sound pos ends own
  obtain ⟨g, b, w, outs, modules, left, talks, lamps⟩ :=
    conclusion_talks (d := d) (n + 3) quiet sound unmuted locating flags awake deferred stays
  rw [left] at run told
  obtain ⟨state, masked, mask, serving, message, lmu, pln, vsw, hnt, ctu, queue, same⟩ :=
    talkingUnderMask_keeps s.pln.plan.call.holdAfter g b w outs modules d v s
  generalize talkingUnderMask s.pln.plan.call.holdAfter g b w outs modules (fateKnown d v s) = t at *
  have bsu : (fateKnown d v s).bsu = s.bsu := rfl
  rw [← same] at lamps
  rw [← vsw] at talks
  exact ⟨t, run, ⟨message, told, lmu, talks.toUnmuted, pln⟩, state, lamps.follow bsu, masked, mask, serving, talks.chime,
    hnt, ctu, queue⟩

/-- The conclusion of a delivery with a clearing in its place: on a deferred CLEAR, or for a caller who has hung up. -/
theorem exec_concludes_clears {c : Instr} (calm : calmPart s = true) (pos : s.lmu.pos = some p) (ends : Concludes p d s c)
    (locating : s.cal.ctx.state = .locating) (flags : flagsSound s = true) (awake : s.wch.doze = false)
    (own : ∀ r ∈ s.mlc.queue, s.lmu.current = some r.number → r.owners = [.lmu])
    (serving : servingPos s.cal.ctx.serving = some p) (hunt : huntSettled s = true) (free : callPlaceFree p s = true) :
    (s.cal.ctx.flags.clearDeferred = true →
      ∃ t, exec c s = .next t ∧ Concluded d s t ∧ ClearedAfter s t p .hostCleared false) ∧
    (s.cal.ctx.flags.clearDeferred = false → s.pln.plan.call.holdAfter = 0 → s.cal.ctx.flags.abandonPending = true →
      ∃ t, exec c s = .next t ∧ Concluded d s t ∧ ClearedAfter s t p .callerHungUp true) := by
  simp only [calmPart, Bool.and_eq_true, beq_iff_eq] at calm
  obtain ⟨quiet, sound⟩ := calm
  obtain ⟨n, v, run, unmuted, told⟩ := exec_concludes_locating quiet sound pos ends own
  refine ⟨fun deferred => ⟨_, run, ?_⟩, fun deferred hold gone => ⟨_, run, ?_⟩⟩
  · exact (stopCallbackTimer_clearsAfter unmuted).drain (n + 1) (takeConcluded_deferred locating flags deferred) quiet awake
      serving hunt free told
  · obtain ⟨u, effect, after⟩ := takeConcluded_hangsUp (d := d) sound unmuted locating flags awake deferred hold gone
    exact after.drain (n + 1) effect quiet awake serving hunt free told

theorem record_fields {l : Option Location} {ctx : Context} {clock : BitVec 32} {table : List Entry}
    (idLength : ∀ x, l = some x → x.boxId.length = 16) {x : Location} (present : l = some x) :
    let b := fun i => (messageRecord l ctx clock table).getD i 0
    let w := fun i => wordOf (b i) (b (i + 1))
    w 22 ++ w 20 = x.latitude ∧ w 26 ++ w 24 = x.longitude ∧ w 28 = x.route ∧ w 32 ++ w 30 = x.along ∧
      b 34 = x.direction := by
  simp only [record_location_after idLength present, Nat.reduceLeDiff, Nat.reduceLT, Nat.reduceAdd]
  exact ⟨word_of_bytes32 x.latitude, word_of_bytes32 x.longitude, word_of_bytes16 x.route, word_of_bytes32 x.along, rfl⟩

theorem Concluded.lmu_fields (h : Concluded d s t) : t.lmu.state = .idle ∧ t.lmu.pos = none ∧ t.lmu.record = none ∧
    t.lmu.current = none ∧ t.lmu.ackTimer = none := by
  rw [h.lmu]
  exact ⟨rfl, rfl, rfl, rfl, rfl⟩

/-- Settles O44: the tries (`exec_failedDelivery`), the conclusion with TALK (`exec_concludes_talks`) or with a clearing in
its place (`exec_concludes_clears`), the verdicts that are ignored, and the record's bytes. -/
theorem messagesAreDelivered : Obligations.MessagesAreDelivered := by
  refine ⟨fun s p record calm pos stands => ⟨fun c awaits fails tries free room => ?_,
    fun c d ends locating flags awake own => ?_⟩, fun s p x quiet ignored => ?_, fun l ctx clock table idLength => ?_⟩
  · simp only [calmPart, Bool.and_eq_true, beq_iff_eq] at calm
    obtain ⟨quiet, sound⟩ := calm
    refine ⟨_, exec_failedDelivery quiet sound pos stands awaits fails tries free room, rfl, rfl, ?_⟩
    obtain ⟨⟩ := s
    rfl
  · intro waiting concluded
    have concluded_of {t : State} (h : Concluded d s t) : concluded t := by
      obtain ⟨state, pos, record, current, timer⟩ := h.lmu_fields
      exact ⟨h.message, h.cause, state, pos, record, current, timer, h.voice.uplink, h.voice.downlink, h.voice.wait, h.pln⟩
    refine ⟨fun deferred stays => ?_, fun serving hunt free => ?_⟩
    · obtain ⟨t, run, ended, rest⟩ := exec_concludes_talks calm pos ends locating flags awake own deferred stays
      exact ⟨t, run, concluded_of ended, rest⟩
    · obtain ⟨deferred, hungUp⟩ := exec_concludes_clears calm pos ends locating flags awake own serving hunt free
      refine ⟨fun clear => ?_, fun clear hold gone => ?_⟩
      · obtain ⟨t, run, ended, cleared⟩ := deferred clear
        exact ⟨t, run, concluded_of ended, ⟨cleared.state, cleared.lastEnd, cleared.destination, cleared.serving,
          cleared.releases, cleared.queue, cleared.mask, cleared.masked, cleared.voice, cleared.clear⟩, cleared.deferred⟩
      · obtain ⟨t, run, ended, cleared⟩ := hungUp clear hold gone
        have destination := cleared.destination
        rw [clear] at destination
        exact ⟨t, run, concluded_of ended, cleared.state, cleared.lastEnd, destination, cleared.serving,
          cleared.releases, cleared.queue, cleared.mask, cleared.masked, cleared.voice, cleared.clear⟩
  · rw [exec_dataResult quiet, lmuTakeVerdict_ignored ignored, drain_of_inbox quiet]
  · have text : (l.map (·.text)).getD [] = locationText l := by cases l <;> rfl
    dsimp only
    rw [text]
    exact ⟨byteSum_checked _, messageRecord_length idLength, rfl, record_flags, record_sequence,
      fun x present => ⟨record_boxId idLength present, record_fields idLength present⟩,
      fun absent i from4 to35 => record_absent idLength absent from4 to35,
      record_attempts idLength, fun u started => record_seconds idLength started,
      fun k e serving found => record_carrier idLength serving found, fun q serving => record_incoming idLength serving,
      record_textLength idLength, record_text idLength, rfl, segmentBytes_join _, segmentBytes_first _⟩

end Sys2Proof.Machine
end

section
/-! PROOFS. What a command does, for an invariant of the blocks that the host does not write: the commands' own changes
on the host's side, and `Keeps` from there. With it the gap timer and the active tone (R106, R112, R113; O8). -/

namespace Sys2Proof.Machine

/-! ### The host's side, and what is kept from there -/

/-- What the host's writes, the taking of an order and a soft reset change themselves: SMP, the order slots, the fault
log and the outputs. Every other block, the clock and the queue of commands stand as they stood. -/
def HostSide (s u : State) : Prop :=
  u = (((s.withSmp u.smp).withOrd u.ord).withFlt u.flt).withBsu u.bsu

theorem HostSide.refl (s : State) : HostSide s s := rfl

/-- A command that is no reset changes the host's side and keeps everything from there; a soft reset does so twice. -/
theorem exec_hostSide_keeps {c : Instr} {s t : State} (hr : isReset c = false) (h : exec c s = .next t) :
    ∃ u v w, HostSide s u ∧ Keeps u v ∧ HostSide v w ∧ Keeps w t := by
  have once {u : State} (kept : Keeps u t) (own : HostSide s u) :
      ∃ u v w, HostSide s u ∧ Keeps u v ∧ HostSide v w ∧ Keeps w t :=
    ⟨u, t, t, own, kept, HostSide.refl t, Keeps.refl t⟩
  have given {u : State} (slots : SlotsGiven s u) (kept : Keeps u t) :
      ∃ u v w, HostSide s u ∧ Keeps u v ∧ HostSide v w ∧ Keeps w t :=
    once (slots.kept.trans kept) rfl
  cases ho : takesOrder c with
  | true =>
    rcases exec_takesOrder ho h with kept | ⟨k, _, kept⟩
    · exact once kept (HostSide.refl s)
    · exact once kept rfl
  | false =>
    cases c with
    | softReset =>
      obtain ⟨u, flt, bsu, first, second⟩ := exec_softReset h
      exact ⟨ordSoftReset s, u, _, rfl, first, by exact rfl, second⟩
    | releaseFault | clearTally | causeWrite | causeenWrite =>
      exact once ((Keeps.refl _).settled h) rfl
    | offerWrite v =>
      obtain ⟨u, slots, kept⟩ := exec_givesSlots (Or.inl ⟨v, rfl⟩) h
      exact given slots kept
    | doneWrite v =>
      obtain ⟨u, slots, kept⟩ := exec_givesSlots (Or.inr ⟨v, rfl⟩) h
      exact given slots kept
    | hostWrite a v =>
      obtain ⟨m, _, kept⟩ := exec_hostWrite h
      exact once kept rfl
    | powerOnReset | pinReset => exact absurd hr (by simp [isReset])
    | placeOrder | clearOrder | scanOrder | loadPlan | moduleOrder | unknownKind =>
      exact absurd ho (by simp [takesOrder])
    | _ => exact once (exec_keeps rfl h) (HostSide.refl s)

/-- An invariant that `Keeps` keeps, that the host's side and the queue of commands do not touch, and that holds of the
blocks as a reset leaves them, is kept by every step. -/
theorem step_preserves {P : State → Prop} (kept : ∀ {s t}, Keeps s t → P s → P t)
    (own : ∀ {s t}, HostSide s t → P s → P t) (queue : ∀ {s rest}, P s → P (s.withPending rest))
    (reset : ∀ straps pins mem s, P (blocksAtReset straps pins mem s)) {s t : State} (h : step s = .next t)
    (holds : P s) : P t := by
  rcases step_cases h with rfl | ⟨c, rest, _, run⟩
  · exact holds
  · cases hr : isReset c with
    | true =>
      obtain ⟨straps, pins, mem, _, after⟩ := exec_reset hr run
      exact kept after (reset straps pins mem _)
    | false =>
      obtain ⟨u, v, w, first, between, second, after⟩ := exec_hostSide_keeps hr run
      exact kept after (own second (kept between (own first (queue holds))))

/-! ### The voice switch (O8) -/

theorem HostSide.vsw {s t : State} (h : HostSide s t) : t.vsw = s.vsw :=
  (congrArg State.vsw (show t = _ from h)).trans rfl

/-- The gap timer runs in GAP alone, and the active tone is the highest-priority one requested, with its phase timer. -/
def VoiceSound (s : State) : Prop := switchOk s.vsw = true ∧ tonesOk s.vsw = true

theorem Keeps.voiceSound {s t : State} (h : Keeps s t) (sound : VoiceSound s) : VoiceSound t :=
  ⟨h.switch sound.1, h.tones sound.2⟩

theorem HostSide.voiceSound {s t : State} (h : HostSide s t) (sound : VoiceSound s) : VoiceSound t := by
  rw [VoiceSound, h.vsw]
  exact sound

/-- Settles O8: what the blocks do keeps both (`vswTone_evolves` and its neighbours, within `exec_keeps`), the host does
not write VSW, and a reset leaves it in NONE with no tone. -/
theorem switchAndTonesStaySound : Obligations.SwitchAndTonesStaySound := fun _ _ switch tones h =>
  step_preserves Keeps.voiceSound HostSide.voiceSound id (fun _ _ _ _ => ⟨rfl, rfl⟩) h (And.intro switch tones)

end Sys2Proof.Machine
end

section
/-! PROOFS. The expiries of the pattern, gap and phase timers, and what the ports carry after them (R107, R110, R111,
R113, R115, R116, R124; O37). -/

namespace Sys2Proof.Machine

variable {s : State} {o : Output} {p : Pos} {tone : Tone}

/-! ### The pattern timer (R124) -/

theorem patternEdge_blink {x : OutputState} {a b : Nat} (blinks : x.pattern = .blink a b) :
    patternEdge x =
      { x with latch := !x.latch, firstHalf := !x.firstHalf, timer := some (if x.firstHalf then b else a) } := by
  rw [patternEdge, blinks]

theorem patternTimerExpiry_runs (quiet : s.inbox = []) (runs : (s.bsu.outs.get o).timer.isSome = true) :
    exec (.patternTimerExpiry o) s =
      .next (s.withBsu { s.bsu with outs := s.bsu.outs.set o (patternEdge (s.bsu.outs.get o)) }) := by
  change settled _ = _
  rw [if_pos runs, settled_of_inbox (by exact quiet)]

theorem patternTimerExpiry_stopped (quiet : s.inbox = []) (stopped : (s.bsu.outs.get o).timer = none) :
    exec (.patternTimerExpiry o) s = .next s := by
  change settled _ = _
  rw [if_neg (by simp [stopped]), settled_of_inbox quiet]

/-! ### The gap timer (R107, R110, R111) -/

theorem vswGapExpiry_gap (gap : s.vsw.conn = .gap p) (runs : s.vsw.gapTimer.isSome = true) :
    vswGapExpiry s = s.withVsw { s.vsw with conn := .linked p, gapTimer := none } := by
  obtain ⟨left, runs⟩ := Option.isSome_iff_exists.mp runs
  rw [vswGapExpiry, runs, gap]

theorem vswGapExpiry_stopped (stopped : s.vsw.gapTimer = none) : vswGapExpiry s = s := by
  rw [vswGapExpiry, stopped]

theorem gapTimerExpiry_links (quiet : s.inbox = []) (gap : s.vsw.conn = .gap p) (runs : s.vsw.gapTimer.isSome = true) :
    exec .gapTimerExpiry s = .next (s.withVsw { s.vsw with conn := .linked p, gapTimer := none }) := by
  change settled (vswGapExpiry s) = _
  rw [vswGapExpiry_gap gap runs, settled_of_inbox (by exact quiet)]

theorem gapTimerExpiry_stopped (quiet : s.inbox = []) (stopped : s.vsw.gapTimer = none) :
    exec .gapTimerExpiry s = .next s := by
  change settled (vswGapExpiry s) = _
  rw [vswGapExpiry_stopped stopped, settled_of_inbox quiet]

theorem moduleInput_linked {v : Vsw} (linked : v.conn = .linked p) :
    moduleInput v p = if v.uplinkMute then .silence else .microphone := by
  rw [moduleInput, linked]
  cases v.uplinkMute <;> simp

theorem moduleInput_other {v : Vsw} {q : Pos} (linked : v.conn = .linked p) (other : q ≠ p) :
    moduleInput v q = .silence := by
  simp [moduleInput, linked, other.symm]

/-- With the gate closed the handset hears what the connection gives it. -/
theorem handsetDownlink_linked {v : Vsw} (linked : v.conn = .linked p) (closed : v.phaseOn = false) :
    handsetDownlink v = if v.downlinkMute then .silence else .modulePort p := by
  simp [handsetDownlink, linked, closed]

/-- With the gate open the handset hears the tone, whatever the connection and the mutes (R116). -/
theorem handsetDownlink_burst {v : Vsw} (active : v.active = some tone) (opened : v.phaseOn = true) :
    handsetDownlink v = .tone tone := by
  simp [handsetDownlink, active, opened]

/-! ### The phase timer (R113, R115) -/

/-- A phase timer that runs under an active tone: in ON a burst ends, in OFF the next cadence starts. -/
theorem vswPhaseExpiry_runs (active : s.vsw.active = some tone) (runs : s.vsw.phaseTimer.isSome = true) :
    vswPhaseExpiry s =
      if s.vsw.phaseOn then
        if tone = .chime then vswTone .chime false s
        else s.withVsw { s.vsw with phaseOn := false, phaseTimer := some s.vsw.cadenceOff }
      else cadenceStart tone s := by
  obtain ⟨left, runs⟩ := Option.isSome_iff_exists.mp runs
  rw [vswPhaseExpiry, runs, active]

theorem cadenceStart_sound (t : Tone) (sound : s.pln.damaged = []) :
    cadenceStart t s = s.withVsw { s.vsw with
      active := some t, phaseOn := true, phaseTimer := some (cadenceOf s.pln.plan t).1
      cadenceOn := (cadenceOf s.pln.plan t).1, cadenceOff := (cadenceOf s.pln.plan t).2 } := by
  rw [cadenceStart, touchAll_sound sound]

/-- After every request and withdrawal the active tone is the highest-priority one requested (R112). -/
theorem vswTone_active (t : Tone) (present : Bool) (s : State) :
    (vswTone t present s).vsw.active = topTone (s.vsw.requested.put t present) := by
  unfold vswTone retune
  dsimp only
  split
  next same => exact same.symm
  next =>
    split
    next silent => exact silent.symm
    next top => exact top.symm

theorem phaseTimerExpiry_burst_ends (quiet : s.inbox = []) (active : s.vsw.active = some tone)
    (runs : s.vsw.phaseTimer.isSome = true) (opened : s.vsw.phaseOn = true) (repeats : tone ≠ .chime) :
    exec .phaseTimerExpiry s =
      .next (s.withVsw { s.vsw with phaseOn := false, phaseTimer := some s.vsw.cadenceOff }) := by
  change settled (vswPhaseExpiry s) = _
  rw [vswPhaseExpiry_runs active runs, if_pos opened, if_neg repeats, settled_of_inbox (by exact quiet)]

/-- The end of CHIME's burst is its withdrawal (R115). -/
theorem phaseTimerExpiry_chime_ends (quiet : s.inbox = []) (sound : s.pln.damaged = [])
    (active : s.vsw.active = some .chime) (runs : s.vsw.phaseTimer.isSome = true) (opened : s.vsw.phaseOn = true) :
    ∃ v, exec .phaseTimerExpiry s = .next (s.withVsw v) ∧ v.requested = { s.vsw.requested with chime := false } ∧
      v.active = topTone { s.vsw.requested with chime := false } ∧ v.conn = s.vsw.conn := by
  obtain ⟨v, withdrawn, requested, path⟩ := vswTone_eq .chime false sound
  have top : (s.withVsw v).vsw.active = topTone (s.vsw.requested.put .chime false) := by
    rw [← withdrawn]
    exact vswTone_active .chime false s
  refine ⟨v, ?_, requested, top, path.conn⟩
  change settled (vswPhaseExpiry s) = _
  rw [vswPhaseExpiry_runs active runs, if_pos opened, if_pos rfl, withdrawn, settled_of_inbox (by exact quiet)]

theorem phaseTimerExpiry_cadence_starts (quiet : s.inbox = []) (sound : s.pln.damaged = [])
    (active : s.vsw.active = some tone) (runs : s.vsw.phaseTimer.isSome = true) (closed : s.vsw.phaseOn = false) :
    exec .phaseTimerExpiry s = .next (cadenceStart tone s) := by
  have after : (cadenceStart tone s).inbox = [] := by
    rw [cadenceStart_sound tone sound]
    exact quiet
  change settled (vswPhaseExpiry s) = _
  rw [vswPhaseExpiry_runs active runs, if_neg (by simp [closed]), settled_of_inbox after]

/-! ### The statement -/

/-- Settles O37: one lemma for each expiry, and what the ports carry after the gap's end (`moduleInput_linked`,
`handsetDownlink_linked`) and at a cadence start (`handsetDownlink_burst`). -/
theorem lampGapAndToneTimers : Obligations.LampGapAndToneTimers := by
  intro s calm
  obtain ⟨quiet, sound⟩ := (calmPart_iff s).mp calm
  refine ⟨fun o a b runs blinks => ?_, fun o => patternTimerExpiry_stopped quiet, fun p gap runs => ?_,
    gapTimerExpiry_stopped quiet, fun tone => phaseTimerExpiry_burst_ends quiet, fun active runs opened => ?_,
    fun tone active runs closed => ?_⟩
  · rw [patternTimerExpiry_runs quiet runs, patternEdge_blink blinks]
  · exact ⟨_, gapTimerExpiry_links quiet gap runs, rfl, moduleInput_linked rfl, fun q => moduleInput_other rfl,
      handsetDownlink_linked rfl⟩
  · obtain ⟨v, run, requested, top, conn⟩ := phaseTimerExpiry_chime_ends quiet sound active runs opened
    exact ⟨_, run, requested, top, conn, rfl⟩
  · refine ⟨_, phaseTimerExpiry_cadence_starts quiet sound active runs closed, ?_⟩
    rw [cadenceStart_sound tone sound]
    exact ⟨rfl, rfl, rfl, handsetDownlink_burst rfl rfl, rfl⟩

end Sys2Proof.Machine
end

section
/-! PROOFS. What a command leaves of the box's inputs and outputs, but for what its own work on BSU's record changes: the
relation `BoxStep`, and one lemma for each operation that goes beyond `Evolves` (R118 to R125; O9, O15). -/

namespace Sys2Proof.Machine

variable {s t u : State} {p : Pos}

/-! ### The relation -/

/-- What the blocks' own doing leaves of the box: the straps and the filtered inputs stand, and every output makes an
`OutStep`. `Evolves` says as much; beyond it, these operations may move the clock, the link and the host's side. -/
structure BoxStep (s t : State) : Prop where
  straps : t.straps = s.straps
  call : t.bsu.call = s.bsu.call
  hook : t.bsu.hook = s.bsu.hook
  door : t.bsu.door = s.bsu.door
  quiet : t.bsu.quiet = s.bsu.quiet
  outs : ∀ o, OutStep (s.bsu.outs.get o) (t.bsu.outs.get o)

theorem Evolves.box (h : Evolves s t) : BoxStep s t := { h with }

theorem BoxStep.of_same (straps : t.straps = s.straps) (bsu : t.bsu = s.bsu) : BoxStep s t where
  straps := straps
  call := by rw [bsu]
  hook := by rw [bsu]
  door := by rw [bsu]
  quiet := by rw [bsu]
  outs _ := by rw [bsu]; exact OutStep.refl _

theorem BoxStep.refl (s : State) : BoxStep s s := .of_same rfl rfl

theorem BoxStep.trans (h : BoxStep s t) (g : BoxStep t u) : BoxStep s u where
  straps := g.straps.trans h.straps
  call := g.call.trans h.call
  hook := g.hook.trans h.hook
  door := g.door.trans h.door
  quiet := g.quiet.trans h.quiet
  outs o := (h.outs o).trans (g.outs o)

theorem BoxStep.evolves (h : BoxStep s t) (g : Evolves t u) : BoxStep s u := h.trans g.box

theorem BoxStep.ite {c : Prop} [Decidable c] (h : BoxStep s t) (g : BoxStep s u) : BoxStep s (if c then t else u) := by
  split
  · exact h
  · exact g

/-- A command's cascade evolves the state. -/
theorem BoxStep.settled (h : BoxStep s u) (e : settled u = .next t) : BoxStep s t := by
  rw [settled_eq e]
  exact h.evolves (drain_evolves (Evolves.refl u))

/-- MLC's record alone is written. -/
theorem BoxStep.mlc (s : State) (x : Mlc) : BoxStep s (s.withMlc x) := .of_same rfl rfl

/-! ### The link's transaction (R132 to R135, R141) -/

theorem takeHeads_box (n : Nat) (s : State) : BoxStep s (takeHeads n s) := by
  induction n generalizing s with
  | zero => exact BoxStep.refl s
  | succ n ih =>
    unfold takeHeads
    split
    · exact BoxStep.refl s
    · dsimp only
      split
      · exact .of_same rfl rfl
      · exact ((BoxStep.mlc s _).evolves (deliver_evolves (Evolves.refl _))).trans (ih _)

theorem endSuccess_box (x : Transaction) (s : State) : BoxStep s (endSuccess x s) := .of_same rfl rfl

theorem linkFailed_box (x : Transaction) (error : Nat) (s : State) : BoxStep s (linkFailed x error s) := by
  refine (BoxStep.mlc s { s.mlc with tx := none }).evolves ?_
  unfold linkFailed
  dsimp only
  generalize s.withMlc { s.mlc with tx := none } = freed
  have told (m : Module) : Evolves freed (deliver x.req .linkFailed
      (reportFault .linkError (some x.req.pos) error none (freed.withModule x.req.pos m))) :=
    deliver_evolves (reportFault_evolves (Evolves.refl freed).withModule)
  split
  · split
    · exact enterFailed_evolves (told _)
    · exact told _
  · split
    · exact thirdFailure_evolves (told _)
    · exact told _

theorem failTry_box (x : Transaction) (error : Nat) (s : State) : BoxStep s (failTry x error s) :=
  (linkFailed_box x error s).ite (.mlc s _)

theorem failAwaited_box (s : State) (error : Nat) :
    BoxStep s (match awaited s with | some x => failTry x error s | none => s) := by
  split
  · exact failTry_box ..
  · exact BoxStep.refl s

theorem onReply_box {f : Transaction → State → State} (taken : ∀ x s, BoxStep s (f x s)) (kind : Nat) (s : State) :
    BoxStep s (onReply kind f s) := by
  unfold onReply
  split
  · exact BoxStep.refl s
  · exact (taken _ s).ite (failTry_box ..)

theorem cutTransaction_box (p : Pos) (s : State) : BoxStep s (cutTransaction p s) := by
  unfold cutTransaction
  split
  · exact ((BoxStep.mlc s _).evolves (deliver_evolves (Evolves.refl _))).ite (BoxStep.refl s)
  · exact BoxStep.refl s

theorem takeStatus_box (r : CellReport) (x : Transaction) (s : State) : BoxStep s (takeStatus r x s) := by
  refine (endSuccess_box x s).evolves ?_
  unfold takeStatus
  dsimp only
  generalize endSuccess x s = freed
  have taken : Evolves freed (ctuIntake x.req.pos [r] freed) := ctuIntake_evolves (Evolves.refl freed)
  split
  · exact enterService_evolves taken
  · exact taken

theorem takeBatch_box (batch : Byte) (records : List EventRecord) (x : Transaction) (s : State) :
    BoxStep s (takeBatch batch records x s) := by
  refine (endSuccess_box x s).evolves ?_
  unfold takeBatch
  dsimp only
  generalize endSuccess x s = freed
  have polled {v : State} (g : Evolves freed v) : Evolves freed (if (v.module x.req.pos).atn ∧
      (v.module x.req.pos).state = .inService then queuePoll x.req.pos v else v) := by
    split
    · exact queuePoll_evolves g
    · exact g
  split
  · exact dispatchRecords_evolves (polled (Evolves.refl freed).withModule)
  · exact polled (Evolves.refl freed)

/-! ### Module timers and ATN (R143, R144, R149) -/

theorem execPollTimerExpiry_box (h : execPollTimerExpiry p s = .next t) : BoxStep s t := by
  have polled (x : Option LongTimer) :
      Evolves s ((queuePoll p s).withModule p { (queuePoll p s).module p with poll := x }) :=
    (queuePoll_evolves (Evolves.refl s)).withModule
  exact (((queueSpareSleep_evolves (polled _)).box.ite (polled _).box).ite (BoxStep.refl s)).settled h

theorem execPulseTimerExpiry_box (h : execPulseTimerExpiry p s = .next t) : BoxStep s t := by
  refine BoxStep.settled (BoxStep.ite ?_ (BoxStep.refl s)) h
  split
  · exact (enterBoot_evolves (Evolves.refl s)).box
  · exact .mlc s _
  · exact BoxStep.refl s

theorem execAtnAsserted_box (h : execAtnAsserted p s = .next t) : BoxStep s t := by
  have active : Evolves s (s.withModule p { s.module p with atn := true }) := (Evolves.refl s).withModule
  exact ((BoxStep.refl s).ite ((queuePoll_evolves active).withModule.box.ite active.box)).settled h

/-! ### The copy of a plan image (R173 to R175) -/

theorem plnCopyCompletion_box (s : State) : BoxStep s (plnCopyCompletion s) := by
  unfold plnCopyCompletion
  split
  next c raw _ _ =>
    have ended : BoxStep s ((s.withSmp { s.smp with planProtected := false }).withPln { s.pln with copy := none }) :=
      .of_same rfl rfl
    dsimp only
    split
    · exact ended.evolves (discardStaged_evolves (completeLoad_evolves (Evolves.refl _)))
    · split
      · exact ended.evolves (discardStaged_evolves (completeLoad_evolves (Evolves.refl _)))
      · exact ended.evolves (loadImage_evolves (Evolves.refl _))
  · exact BoxStep.refl s

theorem damagePlan_box (index : Nat) (s : State) : BoxStep s (damagePlan index s) := by
  have damaged (x : List Nat) : Evolves s (s.withPln { s.pln with damaged := x }) := (Evolves.refl s).withPln id
  exact (touch_evolves (damaged _)).box.ite (damaged _).box

/-! ### Orders (R158, R169, R173, R189) -/

theorem takeLoadPlan_box (held : Held) (persist : Bool) (s : State) : BoxStep s (takeLoadPlan held persist s) :=
  BoxStep.ite (.of_same rfl rfl) (complete_evolves (Evolves.refl s)).box

theorem takeOut_box (held : Held) (p : Pos) (s : State) : BoxStep s (takeOut held p s) := by
  refine (completeModule_evolves (Evolves.refl s)).box.ite ((cutTransaction_box p s).evolves ?_)
  have out := changeState_evolves (p := p) (new := .outOfService) (Evolves.refl (cutTransaction p s))
  refine completeModule_evolves ?_
  split
  · exact substitute_evolves out
  · exact out

theorem restartModule_box (held : Held) (p : Pos) (s : State) : BoxStep s (restartModule held p s) :=
  (completeModule_evolves (Evolves.refl s)).box.ite ((cutTransaction_box p s).evolves
    (waitForBoot_evolves (enterReset_evolves (returning_evolves (Evolves.refl _)).withModule)))

theorem takeModuleOrder_box (held : Held) (p : Pos) (action : ModuleAction) (s : State) :
    BoxStep s (takeModuleOrder held p action s) := by
  have answered (o : OrderOutcome) (d : Word) : BoxStep s (complete held o d s) :=
    (complete_evolves (Evolves.refl s)).box
  refine (answered _ _).ite ((answered _ _).ite ?_)
  cases action with
  | outOfService => exact takeOut_box held p s
  | inService => exact (bringBack_evolves (Evolves.refl s)).box
  | restart => exact restartModule_box held p s

theorem takeSlot_box (k : Fin 8) (s : State) : BoxStep s (takeSlot k s).2 := .of_same rfl rfl

theorem takeOrder_box {owner : Held → Fin 8 → State → State} (own : ∀ held k s, BoxStep s (owner held k s)) (kind : Nat)
    (s : State) : BoxStep s (takeOrder kind owner s) := by
  have checked (held : Held) (u : State) : BoxStep u (checkOrder kind owner held u) := by
    unfold checkOrder
    split
    · exact (complete_evolves (Evolves.refl u)).box
    · split
      · exact (complete_evolves (Evolves.refl u)).box
      · exact own held _ u
  unfold takeOrder
  split
  · exact BoxStep.refl s
  next k _ => exact BoxStep.ite ((takeSlot_box k s).trans (checked _ _)) (BoxStep.refl s)

theorem takeUnknown_box (s : State) : BoxStep s (takeUnknown s) := by
  unfold takeUnknown
  split
  · exact BoxStep.refl s
  next k _ => exact (BoxStep.refl s).ite ((takeSlot_box k s).evolves (complete_evolves (Evolves.refl _)))

/-! ### The clock and the host's writes (R183, R186, R188) -/

theorem secondPasses_box (s : State) : BoxStep s (secondPasses s) := by
  have advanced : BoxStep s (advanceClock s) := .of_same rfl rfl
  exact advanced.evolves (upkeep_evolves (calEvent_evolves (fun _ _ g => takeCallbackSecond_evolves g)
    (hntSecond_evolves (ctuAgeTick_evolves (Evolves.refl _)))))

theorem foldl_box {f : State → Fin 8 → State} (one : ∀ s k, BoxStep s (f s k)) (ks : List (Fin 8)) (s : State) :
    BoxStep s (ks.foldl f s) := by
  induction ks generalizing s with
  | nil => exact BoxStep.refl s
  | cons k ks ih => exact (one s k).trans (ih _)

theorem offerSlot_box (s : State) (k : Fin 8) : BoxStep s (offerSlot s k) := by
  unfold offerSlot
  split
  · exact .of_same rfl rfl
  · exact (reportFault_evolves (Evolves.refl s)).box

theorem giveBackSlot_box (s : State) (k : Fin 8) : BoxStep s (giveBackSlot s k) := by
  unfold giveBackSlot
  split
  · exact .of_same rfl rfl
  · exact BoxStep.refl s

theorem execHostWrite_box {a : BitVec 12} {v : Word} (h : execHostWrite a v s = .next t) : BoxStep s t := by
  have stored (n : Nat) : BoxStep s (storeWord n v s) := .of_same rfl rfl
  have dropped (region : Nat) : BoxStep s (trespass region a s) :=
    (noteTrespass_evolves (raise_evolves (reportFault_evolves (Evolves.refl s)))).box.ite
      (raise_evolves (reportFault_evolves (Evolves.refl s))).box
  unfold execHostWrite at h
  dsimp only at h
  split at h
  · cases h
  · refine BoxStep.settled ?_ h
    split
    · exact stored _
    · exact (dropped 6).ite (stored _)
    · exact BoxStep.ite (BoxStep.ite (.of_same rfl rfl) (stored _)) (dropped 4)
    · exact dropped _

end Sys2Proof.Machine
end

section
/-! PROOFS. BSU's own work in each command, and every command but a reset as that work with a `BoxStep` after it (R118 to
R128; O9, O15, O34). -/

namespace Sys2Proof.Machine

variable {s t u : State} {c : Instr}

/-! ### One value per output -/

/-- The family that gives each output its value. -/
def perOut {α : Type} (f : Output → α) : PerOut α := ⟨f .lampCall, f .lampLink, f .lampFault, f .beacon⟩

@[simp] theorem perOut_get {α : Type} (f : Output → α) (o : Output) : (perOut f).get o = f o := by
  cases o <;> rfl

theorem eq_perOut {α : Type} {v : PerOut α} {f : Output → α} (h : ∀ o, v.get o = f o) : v = perOut f := by
  have eta : v = perOut v.get := rfl
  rw [eta, funext h]

/-! ### LAMPS and a soft reset at each output (R125, R128) -/

/-- An output after a LAMPS write, with the pattern that is selected for it. -/
def outputWritten (v : Word) (o : Output) (p : Pattern) (x : OutputState) : OutputState :=
  if v.getLsbD (outputBit o) then lampWrite p (v.getLsbD (4 + outputBit o)) (v.getLsbD (8 + outputBit o)) x else x

theorem set_get_out {α : Type} (v : PerOut α) (o : Output) : v.set o (v.get o) = v := by
  cases o <;> rfl

theorem writeLamp_eq (v : Word) (o : Output) (s : State) : writeLamp v o s = s.withBsu { s.bsu with
    outs := s.bsu.outs.set o (outputWritten v o (selectedPattern s o) (s.bsu.outs.get o)) } := by
  unfold writeLamp outputWritten
  split
  · rfl
  · rw [set_get_out]
    rfl

theorem selectedPattern_withBsu (s : State) (x : Bsu) (o : Output) :
    selectedPattern (s.withBsu x) o = selectedPattern s o := rfl

theorem withBsu_withBsu (s : State) (x y : Bsu) : (s.withBsu x).withBsu y = s.withBsu y := rfl

/-- The outputs after a LAMPS write. -/
def outsWritten (v : Word) (s : State) : PerOut OutputState :=
  perOut fun o => outputWritten v o (selectedPattern s o) (s.bsu.outs.get o)

theorem writeLamps_eq (v : Word) (s : State) : writeLamps v s = s.withBsu { s.bsu with outs := outsWritten v s } := by
  simp only [writeLamps, writeLamp_eq, State.withBsu_bsu, selectedPattern_withBsu, withBsu_withBsu, PerOut.set, PerOut.get,
    outsWritten, perOut]

/-- The outputs after a soft reset. -/
def outsFreed (s : State) : PerOut OutputState := perOut fun o => outputFreed (selectedPattern s o) (s.bsu.outs.get o)

theorem softReset_outs (s : State) : softReset s = (freedPart s).withBsu { s.bsu with outs := outsFreed s } := by
  obtain ⟨outs, left, freed⟩ := softReset_eq s
  rw [left, eq_perOut freed, outsFreed]

/-! ### BSU's own work (R118 to R128) -/

/-- BSU's record after BSU's own work in a command; the other blocks act after it. -/
def ownBox (c : Instr) (s : State) : Bsu :=
  let b := s.bsu
  match c with
  | .callPress => { b with call := if b.call.level then b.call else acceptLevel true }
  | .callRest => { b with call := if b.call.level then acceptLevel false else b.call }
  | .hookOn => { b with hook := if s.straps.hook ∧ b.hook.level = false then acceptLevel true else b.hook }
  | .hookOff => { b with hook := if s.straps.hook ∧ b.hook.level = true then acceptLevel false else b.hook }
  | .doorOpen => { b with door := if b.door.level then b.door else acceptLevel true }
  | .doorClosed => { b with door := if b.door.level then acceptLevel false else b.door }
  | .quietOn => { b with quiet := if b.quiet.level then b.quiet else acceptLevel true }
  | .quietOff => { b with quiet := if b.quiet.level then acceptLevel false else b.quiet }
  | .inputSample x =>
    { b with
      call := (filterSample Config.filterCall x.call b.call).2
      hook := if s.straps.hook then (filterSample Config.filterHook x.hook b.hook).2 else b.hook
      door := (filterSample Config.filterDoor x.door b.door).2
      quiet := (filterSample Config.filterQuiet x.quiet b.quiet).2 }
  | .patternTimerExpiry o =>
    { b with outs := if (b.outs.get o).timer.isSome then b.outs.set o (patternEdge (b.outs.get o)) else b.outs }
  | .lampsWrite v => { b with outs := outsWritten v s }
  | .softReset => { b with outs := outsFreed s }
  | _ => b

theorem ownBox_inputSample (x : Pins) (s : State) : ownBox (.inputSample x) s =
    { s.bsu with
      call := (filterSample Config.filterCall x.call s.bsu.call).2
      hook := if s.straps.hook then (filterSample Config.filterHook x.hook s.bsu.hook).2 else s.bsu.hook
      door := (filterSample Config.filterDoor x.door s.bsu.door).2
      quiet := (filterSample Config.filterQuiet x.quiet s.bsu.quiet).2 } := rfl

/-- BSU does its own work in a command, and a `BoxStep` follows. -/
def OwnWork (c : Instr) (s t : State) : Prop := BoxStep (s.withBsu (ownBox c s)) t

theorem OwnWork.of_eq (straps : t.straps = s.straps) (bsu : t.bsu = ownBox c s) : OwnWork c s t := .of_same straps bsu

/-- A command in which BSU has no work of its own. -/
theorem OwnWork.of_step (idle : ownBox c s = s.bsu) (h : BoxStep s t) : OwnWork c s t := by
  have same : BoxStep (s.withBsu (ownBox c s)) s := .of_same rfl idle.symm
  exact same.trans h

theorem OwnWork.step (h : OwnWork c s t) (g : BoxStep t u) : OwnWork c s u := BoxStep.trans h g

theorem OwnWork.settled (h : OwnWork c s u) (e : settled u = .next t) : OwnWork c s t := BoxStep.settled h e

/-! ### Samples and accepted changes (R118, R119, R127) -/

theorem filterSample_accepted {n : Nat} {x : Bool} {i : Input} (accepted : (filterSample n x i).1 = true) :
    (filterSample n x i).2 = acceptLevel x := by
  unfold filterSample at accepted ⊢
  split at accepted
  · cases accepted
  next differs =>
    split at accepted
    next reached =>
      rw [if_neg differs, if_pos reached]
      rfl
    · cases accepted

/-- The level of QUIET is taken, and the read of the safe levels evolves the state. -/
theorem acceptQuiet_evolves (active : Bool) (s : State) :
    Evolves (s.withBsu { s.bsu with quiet := acceptLevel active }) (acceptQuiet active s) := by
  unfold acceptQuiet
  dsimp only
  split
  · exact touch_evolves (Evolves.refl _)
  · exact Evolves.refl _

theorem sampleCall_bsu (x : Bool) (s : State) :
    (sampleCall x s).bsu = { s.bsu with call := (filterSample Config.filterCall x s.bsu.call).2 } ∧
      (sampleCall x s).straps = s.straps := by
  unfold sampleCall
  dsimp only
  split
  next accepted => exact ⟨by rw [filterSample_accepted accepted]; rfl, rfl⟩
  · exact ⟨rfl, rfl⟩

theorem sampleHook_bsu (x : Bool) (s : State) :
    (sampleHook x s).bsu = { s.bsu with
      hook := if s.straps.hook then (filterSample Config.filterHook x s.bsu.hook).2 else s.bsu.hook } ∧
      (sampleHook x s).straps = s.straps := by
  unfold sampleHook
  dsimp only
  split
  · split
    next accepted => exact ⟨by rw [filterSample_accepted accepted]; rfl, rfl⟩
    · exact ⟨rfl, rfl⟩
  · exact ⟨rfl, rfl⟩

theorem sampleDoor_bsu (x : Bool) (s : State) :
    (sampleDoor x s).bsu = { s.bsu with door := (filterSample Config.filterDoor x s.bsu.door).2 } ∧
      (sampleDoor x s).straps = s.straps := by
  unfold sampleDoor
  dsimp only
  split
  next accepted => exact ⟨by rw [filterSample_accepted accepted]; rfl, rfl⟩
  · exact ⟨rfl, rfl⟩

theorem sampleQuiet_evolves (x : Bool) (s : State) : Evolves
    (s.withBsu { s.bsu with quiet := (filterSample Config.filterQuiet x s.bsu.quiet).2 }) (sampleQuiet x s) := by
  unfold sampleQuiet
  dsimp only
  split
  next accepted =>
    rw [filterSample_accepted accepted]
    exact acceptQuiet_evolves x s
  · exact Evolves.refl _

theorem sampled_ownWork (x : Pins) (s : State) : OwnWork (.inputSample x) s
    (sampleQuiet x.quiet (sampleDoor x.door (sampleHook x.hook (sampleCall x.call s)))) := by
  obtain ⟨call, straps⟩ := sampleCall_bsu x.call s
  generalize sampleCall x.call s = s1 at call straps ⊢
  obtain ⟨hook, straps'⟩ := sampleHook_bsu x.hook s1
  generalize sampleHook x.hook s1 = s2 at hook straps' ⊢
  obtain ⟨door, straps''⟩ := sampleDoor_bsu x.door s2
  generalize sampleDoor x.door s2 = s3 at door straps'' ⊢
  have taken : OwnWork (.inputSample x) s
      (s3.withBsu { s3.bsu with quiet := (filterSample Config.filterQuiet x.quiet s3.bsu.quiet).2 }) := by
    refine OwnWork.of_eq (straps''.trans (straps'.trans straps)) ?_
    simp only [State.withBsu_bsu, ownBox_inputSample, door, hook, call, straps]
  exact taken.step (sampleQuiet_evolves x.quiet s3).box

/-- Where a command goes one of two ways, BSU does its own work on each. -/
theorem OwnWork.ite {q : Prop} [Decidable q] (yes : q → OwnWork c s t) (no : ¬ q → OwnWork c s u) :
    OwnWork c s (if q then t else u) := by
  split
  next holds => exact yes holds
  next fails => exact no fails

theorem callPress_ownWork (s : State) : OwnWork .callPress s (if s.bsu.call.level then s else acceptCall true s) := by
  have work : ownBox .callPress s =
      { s.bsu with call := if s.bsu.call.level then s.bsu.call else acceptLevel true } := rfl
  exact OwnWork.ite (fun on => .of_eq rfl (by rw [work, if_pos on])) fun off => .of_eq rfl (by rw [work, if_neg off]; rfl)

theorem callRest_ownWork (s : State) : OwnWork .callRest s (if s.bsu.call.level then acceptCall false s else s) := by
  have work : ownBox .callRest s =
      { s.bsu with call := if s.bsu.call.level then acceptLevel false else s.bsu.call } := rfl
  exact OwnWork.ite (fun on => .of_eq rfl (by rw [work, if_pos on]; rfl)) fun off => .of_eq rfl (by rw [work, if_neg off])

theorem hookOn_ownWork (s : State) :
    OwnWork .hookOn s (if s.straps.hook ∧ s.bsu.hook.level = false then acceptHook true s else s) := by
  have work : ownBox .hookOn s = { s.bsu with
      hook := if s.straps.hook ∧ s.bsu.hook.level = false then acceptLevel true else s.bsu.hook } := rfl
  exact OwnWork.ite (fun on => .of_eq rfl (by rw [work, if_pos on]; rfl)) fun off => .of_eq rfl (by rw [work, if_neg off])

theorem hookOff_ownWork (s : State) :
    OwnWork .hookOff s (if s.straps.hook ∧ s.bsu.hook.level = true then acceptHook false s else s) := by
  have work : ownBox .hookOff s = { s.bsu with
      hook := if s.straps.hook ∧ s.bsu.hook.level = true then acceptLevel false else s.bsu.hook } := rfl
  exact OwnWork.ite (fun on => .of_eq rfl (by rw [work, if_pos on]; rfl)) fun off => .of_eq rfl (by rw [work, if_neg off])

theorem doorOpen_ownWork (s : State) : OwnWork .doorOpen s (if s.bsu.door.level then s else acceptDoor true s) := by
  have work : ownBox .doorOpen s =
      { s.bsu with door := if s.bsu.door.level then s.bsu.door else acceptLevel true } := rfl
  exact OwnWork.ite (fun on => .of_eq rfl (by rw [work, if_pos on])) fun off => .of_eq rfl (by rw [work, if_neg off]; rfl)

theorem doorClosed_ownWork (s : State) : OwnWork .doorClosed s (if s.bsu.door.level then acceptDoor false s else s) := by
  have work : ownBox .doorClosed s =
      { s.bsu with door := if s.bsu.door.level then acceptLevel false else s.bsu.door } := rfl
  exact OwnWork.ite (fun on => .of_eq rfl (by rw [work, if_pos on]; rfl)) fun off => .of_eq rfl (by rw [work, if_neg off])

theorem quietOn_ownWork (s : State) : OwnWork .quietOn s (if s.bsu.quiet.level then s else acceptQuiet true s) := by
  have work : ownBox .quietOn s =
      { s.bsu with quiet := if s.bsu.quiet.level then s.bsu.quiet else acceptLevel true } := rfl
  refine OwnWork.ite (fun on => .of_eq rfl (by rw [work, if_pos on])) fun off => ?_
  rw [OwnWork, work, if_neg off]
  exact (acceptQuiet_evolves true s).box

theorem quietOff_ownWork (s : State) : OwnWork .quietOff s (if s.bsu.quiet.level then acceptQuiet false s else s) := by
  have work : ownBox .quietOff s =
      { s.bsu with quiet := if s.bsu.quiet.level then acceptLevel false else s.bsu.quiet } := rfl
  refine OwnWork.ite (fun on => ?_) fun off => .of_eq rfl (by rw [work, if_neg off])
  rw [OwnWork, work, if_pos on]
  exact (acceptQuiet_evolves false s).box

theorem patternTimer_ownWork (o : Output) (s : State) : OwnWork (.patternTimerExpiry o) s
    (if (s.bsu.outs.get o).timer.isSome then
      s.withBsu { s.bsu with outs := s.bsu.outs.set o (patternEdge (s.bsu.outs.get o)) } else s) := by
  have work : ownBox (.patternTimerExpiry o) s = { s.bsu with
      outs := if (s.bsu.outs.get o).timer.isSome then s.bsu.outs.set o (patternEdge (s.bsu.outs.get o))
        else s.bsu.outs } := rfl
  exact OwnWork.ite (fun on => .of_eq rfl (by rw [work, if_pos on]; rfl)) fun off => .of_eq rfl (by rw [work, if_neg off])

theorem writeLamps_ownWork (v : Word) (s : State) : OwnWork (.lampsWrite v) s (writeLamps v s) := by
  have work : ownBox (.lampsWrite v) s = { s.bsu with outs := outsWritten v s } := rfl
  rw [writeLamps_eq]
  exact .of_eq (State.withBsu_straps ..) work.symm

theorem softReset_ownWork (s : State) : OwnWork .softReset s (softReset s) := by
  have work : ownBox .softReset s = { s.bsu with outs := outsFreed s } := rfl
  rw [softReset_outs]
  refine .of_eq ?_ work.symm
  simp [freedPart]

/-! ### The commands -/

/-- Every command but a reset is BSU's own work in it, with a `BoxStep` after it. -/
theorem exec_ownWork (hr : isReset c = false) (h : exec c s = .next t) : OwnWork c s t := by
  have idle {d : Instr} {v : State} (e : settled v = .next t) (none : ownBox d s = s.bsu) (g : BoxStep s v) :
      OwnWork d s t := .of_step none (g.settled e)
  have here : Evolves s s := Evolves.refl s
  have same : BoxStep s s := BoxStep.refl s
  cases c with
  | powerOnReset | pinReset => exact absurd hr (by simp [isReset])
  | softReset => exact (softReset_ownWork s).settled h
  | lampsWrite v => exact (writeLamps_ownWork v s).settled h
  | callPress => exact (callPress_ownWork s).settled h
  | callRest => exact (callRest_ownWork s).settled h
  | hookOn => exact (hookOn_ownWork s).settled h
  | hookOff => exact (hookOff_ownWork s).settled h
  | doorOpen => exact (doorOpen_ownWork s).settled h
  | doorClosed => exact (doorClosed_ownWork s).settled h
  | quietOn => exact (quietOn_ownWork s).settled h
  | quietOff => exact (quietOff_ownWork s).settled h
  | inputSample x => exact (sampled_ownWork x s).settled h
  | patternTimerExpiry o => exact (patternTimer_ownWork o s).settled h
  | doze => exact idle h rfl (wchDoze_evolves here).box
  | wake => exact idle h rfl (wchWake_evolves here).box
  | releaseFault | clearTally | causeWrite | causeenWrite => exact idle h rfl (.of_same rfl rfl)
  | offerWrite v => exact idle h rfl (foldl_box offerSlot_box _ s)
  | doneWrite v => exact idle h rfl (foldl_box giveBackSlot_box _ s)
  | unusedRegisterWrite addr v =>
    change (if addr.toNat < 6 then Host.Outcome.fault Fault.registerInUse else settled s) = .next t at h
    split at h
    · cases h
    · exact idle h rfl same
  | hostWrite a v => exact .of_step rfl (execHostWrite_box h)
  | placeOrder =>
    exact idle h rfl (takeOrder_box (owner := ownerPlace)
      (fun _ _ u => (calEvent_evolves (fun _ _ g => takePlace_evolves g) (Evolves.refl u)).box) _ s)
  | clearOrder =>
    exact idle h rfl (takeOrder_box (owner := ownerClear)
      (fun _ _ u => (calEvent_evolves (fun _ _ g => takeClear_evolves g) (Evolves.refl u)).box) _ s)
  | scanOrder =>
    exact idle h rfl (takeOrder_box (owner := ownerScan) (fun _ _ u => (wchScanOrder_evolves (Evolves.refl u)).box) _ s)
  | loadPlan => exact idle h rfl (takeOrder_box (owner := ownerLoadPlan) (fun _ _ u => takeLoadPlan_box _ _ u) _ s)
  | moduleOrder =>
    exact idle h rfl (takeOrder_box (owner := ownerModule) (fun _ _ u => takeModuleOrder_box _ _ _ u) _ s)
  | unknownKind => exact idle h rfl (takeUnknown_box s)
  | secondsClockAdvance => exact idle h rfl (secondPasses_box s)
  | benchExpiry => exact idle h rfl ((secondPasses_box s).ite same)
  | wakeWaitExpiry => exact idle h rfl (endWakeWait_evolves here).box
  | gatherTimerExpiry => exact idle h rfl (hntGatherExpiry_evolves here).box
  | backoffTimerExpiry => exact idle h rfl (hntBackoffExpiry_evolves here).box
  | launchStaggerExpiry => exact idle h rfl (hntStaggerExpiry_evolves here).box
  | attemptTimerExpiry p => exact idle h rfl (hntAttemptExpiry_evolves here).box
  | hookMaskExpiry => exact idle h rfl (calEvent_evolves (fun _ _ g => takeMaskExpiry_evolves g) here).box
  | callbackTimerExpiry => exact idle h rfl (calEvent_evolves (fun _ _ g => takeCallbackExpiry_evolves g) here).box
  | acknowledgementTimerExpiry => exact idle h rfl (lmuAckExpiry_evolves here).box
  | gapTimerExpiry => exact idle h rfl (vswGapExpiry_evolves here).box
  | phaseTimerExpiry => exact idle h rfl (vswPhaseExpiry_evolves here).box
  | pollTimerExpiry p => exact .of_step rfl (execPollTimerExpiry_box h)
  | pulseTimerExpiry p => exact .of_step rfl (execPulseTimerExpiry_box h)
  | bootTimerExpiry | probeRetryExpiry => exact idle h rfl ((queueProbe_evolves here.withModule).box.ite same)
  | takeQueueHead => exact idle h rfl ((takeHeads_box _ s).ite same)
  | requestFrameSent | idleWaitEnd =>
    refine idle h rfl ?_
    split
    · split
      · exact .mlc s _
      · exact same
    · exact same
  | replyDeadlineExpiry | replyError => exact idle h rfl (failAwaited_box s _)
  | idleWaitTimeout =>
    refine idle h rfl ?_
    split
    · split
      · exact failTry_box ..
      · exact same
    · exact same
  | strayCharacter c => exact idle h rfl same
  | replyOk =>
    exact idle h rfl (onReply_box (fun x u => (endSuccess_box x u).evolves
      (deliver_evolves (replyOkModule_evolves (Evolves.refl _)))) _ s)
  | replyNak reason =>
    exact idle h rfl ((failAwaited_box s _).ite (onReply_box (fun x u => (endSuccess_box x u).evolves
      (deliver_evolves (Evolves.refl _))) _ s))
  | status payload =>
    refine idle h rfl (onReply_box (fun x u => ?_) _ s)
    split
    · exact takeStatus_box _ x u
    · exact failTry_box ..
  | scanList payload =>
    refine idle h rfl (onReply_box (fun x u => ?_) _ s)
    split
    · exact (endSuccess_box x u).evolves (post_evolves (ctuIntake_evolves (Evolves.refl _)))
    · exact failTry_box ..
  | events payload =>
    refine idle h rfl (onReply_box (fun x u => ?_) _ s)
    split
    · exact takeBatch_box _ _ x u
    · exact failTry_box ..
  | atnAsserted p => exact .of_step rfl (execAtnAsserted_box h)
  | atnInactive p => exact idle h rfl (.mlc s _)
  | callProceeding | callAlerting | callAnswered | callEnded | serviceLost | incoming | scanReady | dataResult
  | levelReport => exact idle h rfl (dispatchEvent_evolves here).box
  | scanStaggerExpiry => exact idle h rfl (wchStaggerExpiry_evolves here).box
  | scanIntervalExpiry p => exact idle h rfl (wchIntervalExpiry_evolves here).box
  | scanLimitExpiry p => exact idle h rfl (wchLimitExpiry_evolves here).box
  | graceTimerExpiry => exact idle h rfl (plnGraceExpiry_evolves here).box
  | copyCompletion => exact idle h rfl (plnCopyCompletion_box s)
  | storeMarkerDone => exact idle h rfl (plnMarkerDone_evolves here).box
  | erasePassDone blank => exact idle h rfl (plnEraseDone_evolves here).box
  | programPassDone matched => exact idle h rfl (plnProgramDone_evolves here).box
  | storeCompleteDone => exact idle h rfl (plnCompleteDone_evolves here).box
  | planWordDamaged index =>
    change (if 1 ≤ index ∧ index ≤ 44 then settled (damagePlan index s) else .fault .noSuchPlanField) = .next t at h
    split at h
    · exact idle h rfl (damagePlan_box index s)
    · cases h
  | callStateFlagsDamaged flags =>
    change (if flagsSet flags = 1 then .fault .flagsNotDamaged else settled (s.withCal { s.cal with held7 := flags }))
      = .next t at h
    split at h
    · cases h
    · exact idle (v := s.withCal { s.cal with held7 := flags }) h rfl (.of_same rfl rfl)

end Sys2Proof.Machine
end

section
/-! PROOFS. The filter counts, HOOK without its strap, and the pattern timers stay sound (R118, R120, R124, R125; O9). -/

namespace Sys2Proof.Machine

variable {s t : State} {c : Instr}

/-! ### What the invariants say -/

/-- The box inputs, for given straps: every filter count below its filter's, HOOK at rest on a box without its strap. -/
structure InputsSound (straps : Straps) (b : Bsu) : Prop where
  call : b.call.count < Config.filterCall
  hook : b.hook.count < Config.filterHook
  door : b.door.count < Config.filterDoor
  quiet : b.quiet.count < Config.filterQuiet
  strap : straps.hook = false → b.hook = ⟨false, 0⟩

theorem inputsOk_iff (s : State) : inputsOk s = true ↔ InputsSound s.straps s.bsu := by
  have strap : (s.straps.hook || s.bsu.hook == ⟨false, 0⟩) = true ↔
      (s.straps.hook = false → s.bsu.hook = ⟨false, 0⟩) := by
    cases s.straps.hook <;> simp
  simp only [inputsOk, Bool.and_eq_true, decide_eq_true_eq, strap]
  exact ⟨fun ⟨⟨⟨⟨call, hook⟩, door⟩, quiet⟩, strap⟩ => ⟨call, hook, door, quiet, strap⟩,
    fun ⟨call, hook, door, quiet, strap⟩ => ⟨⟨⟨⟨call, hook⟩, door⟩, quiet⟩, strap⟩⟩

theorem outputsOk_iff (b : Bsu) : outputsOk b = true ↔ ∀ o, outputOk (b.outs.get o) = true := by
  simp only [outputsOk, List.all_eq_true]
  refine ⟨fun all o => all o ?_, fun all o _ => all o⟩
  cases o <;> simp [outputs]

/-! ### The inputs (R118, R120) -/

theorem filterSample_count {n : Nat} (x : Bool) {i : Input} (below : i.count < n) :
    (filterSample n x i).2.count < n := by
  unfold filterSample
  split
  · exact Nat.zero_lt_of_lt below
  · split
    · exact Nat.zero_lt_of_lt below
    next short => exact Nat.lt_of_not_le short

/-- An input that keeps its level or takes one keeps its count below the filter's. -/
theorem count_ite {q : Prop} [Decidable q] {i j : Input} {n : Nat} (hi : i.count < n) (hj : j.count < n) :
    (if q then i else j).count < n := by
  split
  · exact hi
  · exact hj

/-- BSU's own work keeps the inputs sound: a sample by `filterSample_count`, an accepted level has count 0, and HOOK is
neither sampled nor taken without its strap. -/
theorem ownBox_inputsSound (c : Instr) (sound : InputsSound s.straps s.bsu) : InputsSound s.straps (ownBox c s) := by
  have accepted (level : Bool) {n : Nat} (pos : 0 < n) : (acceptLevel level).count < n := pos
  cases c with
  | callPress => exact { sound with call := count_ite sound.call (accepted true (by decide)) }
  | callRest => exact { sound with call := count_ite (accepted false (by decide)) sound.call }
  | doorOpen => exact { sound with door := count_ite sound.door (accepted true (by decide)) }
  | doorClosed => exact { sound with door := count_ite (accepted false (by decide)) sound.door }
  | quietOn => exact { sound with quiet := count_ite sound.quiet (accepted true (by decide)) }
  | quietOff => exact { sound with quiet := count_ite (accepted false (by decide)) sound.quiet }
  | hookOn =>
    refine { sound with hook := count_ite (accepted true (by decide)) sound.hook, strap := fun absent => ?_ }
    have unfitted : ¬ (s.straps.hook = true ∧ s.bsu.hook.level = false) := by simp [absent]
    exact (if_neg unfitted).trans (sound.strap absent)
  | hookOff =>
    refine { sound with hook := count_ite (accepted false (by decide)) sound.hook, strap := fun absent => ?_ }
    have unfitted : ¬ (s.straps.hook = true ∧ s.bsu.hook.level = true) := by simp [absent]
    exact (if_neg unfitted).trans (sound.strap absent)
  | inputSample x =>
    refine ⟨filterSample_count _ sound.call, count_ite (filterSample_count _ sound.hook) sound.hook,
      filterSample_count _ sound.door, filterSample_count _ sound.quiet, fun absent => ?_⟩
    have unfitted : ¬ s.straps.hook = true := by simp [absent]
    exact (if_neg unfitted).trans (sound.strap absent)
  | _ => exact { sound with }

theorem BoxStep.inputsSound (h : BoxStep s t) (sound : InputsSound s.straps s.bsu) : InputsSound t.straps t.bsu where
  call := h.call ▸ sound.call
  hook := h.hook ▸ sound.hook
  door := h.door ▸ sound.door
  quiet := h.quiet ▸ sound.quiet
  strap := by
    rw [h.straps, h.hook]
    exact sound.strap

/-! ### The outputs (R124, R125) -/

theorem startPattern_ok (p : Pattern) {x : OutputState} (auto : x.host = false) : outputOk (startPattern p x) = true := by
  cases p <;> simp [startPattern, outputOk, blinks, auto]

theorem outputFreed_ok (p : Pattern) {x : OutputState} (ok : outputOk x = true) : outputOk (outputFreed p x) = true := by
  unfold outputFreed
  split
  · exact startPattern_ok p rfl
  · exact ok

/-- In HOST the timer is stopped; an output given back starts its pattern; a latch alone leaves the timer. -/
theorem outputWritten_ok (v : Word) (o : Output) (p : Pattern) {x : OutputState} (ok : outputOk x = true) :
    outputOk (outputWritten v o p x) = true := by
  unfold outputWritten lampWrite
  split
  · split
    · rfl
    · split
      · exact startPattern_ok p rfl
      · exact ok
  · exact ok

/-- A timer that runs as it should runs in AUTO; an edge sets it again under a blink. -/
theorem patternEdge_ok {x : OutputState} (runs : x.timer.isSome = true) (ok : outputOk x = true) :
    outputOk (patternEdge x) = true := by
  have auto : x.host = false := by
    simp only [outputOk, runs, beq_iff_eq] at ok
    simpa using (Bool.and_eq_true_iff.mp ok.symm).1
  unfold patternEdge
  split
  next a b blink => simp [outputOk, auto, blink, blinks]
  · exact ok
  · exact ok

/-- BSU's own work keeps the pattern timers as their modes and patterns have them. -/
theorem ownBox_outputOk (c : Instr) (o : Output) (ok : outputOk (s.bsu.outs.get o) = true) :
    outputOk ((ownBox c s).outs.get o) = true := by
  cases c with
  | patternTimerExpiry o' =>
    change outputOk ((if (s.bsu.outs.get o').timer.isSome then s.bsu.outs.set o' (patternEdge (s.bsu.outs.get o'))
      else s.bsu.outs).get o) = true
    split
    next runs =>
      rw [get_set_out]
      split
      next here => exact patternEdge_ok runs (here ▸ ok)
      · exact ok
    · exact ok
  | lampsWrite v =>
    change outputOk ((outsWritten v s).get o) = true
    rw [outsWritten, perOut_get]
    exact outputWritten_ok v o _ ok
  | softReset =>
    change outputOk ((outsFreed s).get o) = true
    rw [outsFreed, perOut_get]
    exact outputFreed_ok _ ok
  | _ => exact ok

/-! ### Every step (O9) -/

theorem resetPart_box (straps : Straps) (pins : Pins) (mem : List Host.Cell) (s : State) :
    BoxStep (blocksAtReset straps pins mem s) (resetPart straps pins mem s) := by
  have release := (startUp_evolves (blocksAtReset straps pins mem s)).box
  exact release.trans (.of_same rfl rfl)

/-- A reset leaves BSU's record as after a reset, and a `BoxStep` follows. -/
theorem exec_reset_box (hr : isReset c = true) (h : exec c s = .next t) :
    ∃ straps pins u, u.straps = straps ∧ u.bsu = resetBsu straps pins ∧ BoxStep u t := by
  cases c with
  | powerOnReset straps pins => exact ⟨straps, pins, _, rfl, rfl, (resetPart_box straps pins [] s).settled h⟩
  | pinReset straps pins =>
    exact ⟨straps, pins, _, rfl, rfl, (resetPart_box straps pins (keptMemory s.smp.mem) s).settled h⟩
  | _ => exact absurd hr Bool.false_ne_true

theorem resetBsu_inputsSound (straps : Straps) (pins : Pins) : InputsSound straps (resetBsu straps pins) where
  call := (by decide : 0 < Config.filterCall)
  hook := (by decide : 0 < Config.filterHook)
  door := (by decide : 0 < Config.filterDoor)
  quiet := (by decide : 0 < Config.filterQuiet)
  strap absent := by simp [resetBsu, absent]

theorem resetBsu_outputOk (straps : Straps) (pins : Pins) (o : Output) :
    outputOk ((resetBsu straps pins).outs.get o) = true := by
  cases o <;> rfl

/-- A property of the straps and of BSU's record that holds of what a reset leaves, and that BSU's own work and a `BoxStep`
keep, is kept by every step. -/
theorem step_preserves_box {P : Straps → Bsu → Prop} (reset : ∀ straps pins, P straps (resetBsu straps pins))
    (own : ∀ {s} c, P s.straps s.bsu → P s.straps (ownBox c s))
    (kept : ∀ {s t}, BoxStep s t → P s.straps s.bsu → P t.straps t.bsu) (h : step s = .next t) (holds : P s.straps s.bsu) :
    P t.straps t.bsu := by
  rcases step_cases h with rfl | ⟨c, rest, _, run⟩
  · exact holds
  · cases hr : isReset c with
    | false =>
      have worked : BoxStep ((s.withPending rest).withBsu (ownBox c (s.withPending rest))) t := exec_ownWork hr run
      exact kept worked (own (s := s.withPending rest) c holds)
    | true =>
      obtain ⟨straps, pins, u, rfl, bsu, started⟩ := exec_reset_box hr run
      exact kept started (bsu ▸ reset u.straps pins)

/-- Settles O9: the inputs by `ownBox_inputsSound`, the outputs by `ownBox_outputOk`; what the other blocks do keeps both
(`BoxStep`), and so does a reset. -/
theorem inputsAndOutputsStaySound : Obligations.InputsAndOutputsStaySound := by
  refine ⟨fun s t sound h => ?_, fun s t sound h => ?_⟩
  · rw [inputsOk_iff] at sound ⊢
    exact step_preserves_box resetBsu_inputsSound ownBox_inputsSound BoxStep.inputsSound h sound
  · rw [outputsOk_iff] at sound ⊢
    exact step_preserves_box (P := fun _ b => ∀ o, outputOk (b.outs.get o) = true) resetBsu_outputOk
      (fun c ok o => ownBox_outputOk c o (ok o)) (fun g ok o => (g.outs o).2.2 (ok o)) h sound

end Sys2Proof.Machine
end

section
/-! PROOFS. Which commands change an input, or an output in HOST (R118, R119, R121, R122, R125, R128; O15). -/

namespace Sys2Proof.Machine

variable {s t : State} {c : Instr}

theorem ownBox_call (c : Instr) (s : State) :
    (ownBox c s).call = s.bsu.call ∨ c = .callPress ∨ c = .callRest ∨ ∃ x, c = .inputSample x := by
  cases c with
  | callPress => exact .inr (.inl rfl)
  | callRest => exact .inr (.inr (.inl rfl))
  | inputSample x => exact .inr (.inr (.inr ⟨x, rfl⟩))
  | _ => exact .inl rfl

theorem ownBox_hook (c : Instr) (s : State) :
    (ownBox c s).hook = s.bsu.hook ∨ c = .hookOn ∨ c = .hookOff ∨ ∃ x, c = .inputSample x := by
  cases c with
  | hookOn => exact .inr (.inl rfl)
  | hookOff => exact .inr (.inr (.inl rfl))
  | inputSample x => exact .inr (.inr (.inr ⟨x, rfl⟩))
  | _ => exact .inl rfl

theorem ownBox_door (c : Instr) (s : State) :
    (ownBox c s).door = s.bsu.door ∨ c = .doorOpen ∨ c = .doorClosed ∨ ∃ x, c = .inputSample x := by
  cases c with
  | doorOpen => exact .inr (.inl rfl)
  | doorClosed => exact .inr (.inr (.inl rfl))
  | inputSample x => exact .inr (.inr (.inr ⟨x, rfl⟩))
  | _ => exact .inl rfl

theorem ownBox_quiet (c : Instr) (s : State) :
    (ownBox c s).quiet = s.bsu.quiet ∨ c = .quietOn ∨ c = .quietOff ∨ ∃ x, c = .inputSample x := by
  cases c with
  | quietOn => exact .inr (.inl rfl)
  | quietOff => exact .inr (.inr (.inl rfl))
  | inputSample x => exact .inr (.inr (.inr ⟨x, rfl⟩))
  | _ => exact .inl rfl

/-- An output whose pattern timer is stopped has no edge: BSU's own work at it is a LAMPS write's or a soft reset's. -/
theorem ownBox_out {o : Output} (c : Instr) (stopped : (s.bsu.outs.get o).timer = none) :
    (ownBox c s).outs.get o = s.bsu.outs.get o ∨ c = .softReset ∨ ∃ v, c = .lampsWrite v := by
  cases c with
  | softReset => exact .inr (.inl rfl)
  | lampsWrite v => exact .inr (.inr ⟨v, rfl⟩)
  | patternTimerExpiry o' =>
    left
    change (if (s.bsu.outs.get o').timer.isSome then s.bsu.outs.set o' (patternEdge (s.bsu.outs.get o'))
      else s.bsu.outs).get o = _
    split
    next runs =>
      have other : o ≠ o' := by
        rintro rfl
        simp [stopped] at runs
      rw [get_set_out, if_neg other]
    · rfl
  | _ => exact .inl rfl

/-- Settles O15: a command changes an input or an output in HOST by BSU's own work alone (`exec_ownWork`), since a `BoxStep`
leaves both; and that work is the named commands' (`ownBox_call` and its neighbours, `ownBox_out`). -/
theorem boxSignalsChangeAtTheirCommands : Obligations.BoxSignalsChangeAtTheirCommands := by
  intro c s t run hr
  have after : BoxStep (s.withBsu (ownBox c s)) t := exec_ownWork hr run
  refine ⟨(ownBox_call c s).imp_left after.call.trans, (ownBox_hook c s).imp_left after.hook.trans,
    (ownBox_door c s).imp_left after.door.trans, (ownBox_quiet c s).imp_left after.quiet.trans, fun o host stopped => ?_⟩
  refine (ownBox_out c stopped).imp_left fun same => ?_
  obtain ⟨_, left, _⟩ := after.outs o
  exact (left ((congrArg OutputState.host same).trans host)).trans same

end Sys2Proof.Machine
end

section
/-! PROOFS. One sample of the pins, and the accepted changes of DOOR, QUIET and CALL (R118 to R120, R127; O34). -/

namespace Sys2Proof.Machine

variable {s t : State}

/-! ### One sample (R118, R119) -/

theorem filterSample_eq (n : Nat) (pin : Bool) (i : Input) : (filterSample n pin i).2 =
    if pin = i.level then { i with count := 0 } else if n ≤ i.count + 1 then ⟨pin, 0⟩ else { i with count := i.count + 1 } := by
  unfold filterSample
  split
  · rfl
  · split <;> rfl

/-- A filtered level changes only where the sampled level is accepted. -/
theorem filterSample_changed {n : Nat} {pin : Bool} {i : Input} (changed : (filterSample n pin i).2.level ≠ i.level) :
    (filterSample n pin i).1 = true := by
  unfold filterSample at changed ⊢
  split
  next same => simp [same] at changed
  · split
    · rfl
    next differs short => simp [differs, short] at changed

theorem sampleDoor_raises {x : Bool} (changed : (filterSample Config.filterDoor x s.bsu.door).2.level ≠ s.bsu.door.level) :
    (sampleDoor x s).smp.causes.getLsbD 11 = true := by
  unfold sampleDoor
  dsimp only
  rw [if_pos (filterSample_changed changed)]
  exact causeSet_own s.smp.causes .door

/-- A sample that changes the filtered level of DOOR leaves its cause pending. -/
theorem inputSample_raises {x : Pins} (run : exec (.inputSample x) s = .next t)
    (changed : t.bsu.door.level ≠ s.bsu.door.level) : t.smp.causes.getLsbD 11 = true := by
  have after : BoxStep (s.withBsu (ownBox (.inputSample x) s)) t := exec_ownWork rfl run
  have door : (sampleHook x.hook (sampleCall x.call s)).bsu.door = s.bsu.door := by
    rw [(sampleHook_bsu ..).1, (sampleCall_bsu ..).1]
  have level : t.bsu.door = (filterSample Config.filterDoor x.door s.bsu.door).2 := after.door
  have raised := sampleDoor_raises (s := sampleHook x.hook (sampleCall x.call s)) (x := x.door) (by
    rwa [door, ← level])
  have kept := (sampleQuiet_evolves x.quiet (sampleDoor x.door (sampleHook x.hook (sampleCall x.call s)))).causes 11 raised
  rw [settled_eq (show settled _ = _ from run)]
  exact drain_causes _ _ kept

/-! ### The accepted changes, in a calm part (R119, R127) -/

theorem settled_ite_of_inbox {q : Prop} [Decidable q] {u v : State} (yes : u.inbox = []) (no : v.inbox = []) :
    settled (if q then u else v) = .next (if q then u else v) := by
  split
  · exact settled_of_inbox yes
  · exact settled_of_inbox no

theorem acceptQuiet_sound (sound : s.pln.damaged = []) (active : Bool) :
    acceptQuiet active s = s.withBsu { s.bsu with quiet := ⟨active, 0⟩ } := by
  unfold acceptQuiet
  dsimp only
  split
  · rw [touch_sound (by exact sound)]
    rfl
  · rfl

/-- CALL at rest gives no event. -/
theorem acceptCall_rest (s : State) : acceptCall false s = s.withBsu { s.bsu with call := ⟨false, 0⟩ } := by
  simp [acceptCall, callEvents, postAll, acceptLevel, State.withInbox, State.withBsu]

theorem callRest_calm (quiet : s.inbox = []) : exec .callRest s =
    .next (if s.bsu.call.level then s.withBsu { s.bsu with call := ⟨false, 0⟩ } else s) := by
  change settled (if s.bsu.call.level then acceptCall false s else s) = _
  rw [acceptCall_rest]
  exact settled_ite_of_inbox quiet quiet

theorem quietOn_calm (quiet : s.inbox = []) (sound : s.pln.damaged = []) : exec .quietOn s =
    .next (if s.bsu.quiet.level then s else s.withBsu { s.bsu with quiet := ⟨true, 0⟩ }) := by
  change settled (if s.bsu.quiet.level then s else acceptQuiet true s) = _
  rw [acceptQuiet_sound sound]
  exact settled_ite_of_inbox quiet quiet

theorem quietOff_calm (quiet : s.inbox = []) (sound : s.pln.damaged = []) : exec .quietOff s =
    .next (if s.bsu.quiet.level then s.withBsu { s.bsu with quiet := ⟨false, 0⟩ } else s) := by
  change settled (if s.bsu.quiet.level then acceptQuiet false s else s) = _
  rw [acceptQuiet_sound sound]
  exact settled_ite_of_inbox quiet quiet

theorem pinLevel_quiet (on : s.bsu.quiet.level = true) (o : Output) : pinLevel s o = s.pln.plan.safeLevels.get o :=
  if_pos on

theorem pinLevel_latch (off : s.bsu.quiet.level = false) (o : Output) : pinLevel s o = (s.bsu.outs.get o).latch :=
  if_neg (by simp [off])

/-- Settles O34: one sample is BSU's own work (`sampled_ownWork`), and in a calm part an accepted change is all that its
command does. -/
theorem inputsAreFilteredAndTaken : Obligations.InputsAreFilteredAndTaken := by
  refine ⟨fun s x => ?_, fun s calm => ?_⟩
  · have run : exec (.inputSample x) s = .next _ := rfl
    have after : BoxStep (s.withBsu (ownBox (.inputSample x) s)) _ := exec_ownWork rfl run
    refine ⟨_, run, after.call.trans (filterSample_eq ..), after.hook.trans ?_, after.door.trans (filterSample_eq ..),
      after.quiet.trans (filterSample_eq ..), inputSample_raises run⟩
    exact congrArg (fun i => if s.straps.hook then i else s.bsu.hook) (filterSample_eq ..)
  · obtain ⟨quiet, sound⟩ := (calmPart_iff s).mp calm
    have on := quietOn_calm quiet sound
    have off := quietOff_calm quiet sound
    refine ⟨settled_ite_of_inbox quiet quiet, settled_ite_of_inbox quiet quiet, callRest_calm quiet, on, off,
      fun t o run => ?_, fun t o run => ?_⟩
    · refine pinLevel_quiet ?_ o
      obtain rfl : _ = t := Host.Outcome.next.inj (on.symm.trans run)
      split
      next already => exact already
      · rfl
    · refine pinLevel_latch ?_ o
      obtain rfl : _ = t := Host.Outcome.next.inj (off.symm.trans run)
      split
      · rfl
      next already => simpa using already

end Sys2Proof.Machine
end

section
/-! PROOFS. A LAMPS write, a pattern's selection and start, and the LAMPS read (R122 to R126; O26, O22). -/

namespace Sys2Proof.Machine

variable {s : State}

/-- What a LAMPS write does at each output, in the words of R125. -/
theorem outputWritten_eq (v : Word) (o : Output) (p : Pattern) (x : OutputState) : outputWritten v o p x =
    if v.getLsbD (outputBit o) = false then x
    else if v.getLsbD (4 + outputBit o) then { x with host := true, latch := v.getLsbD (8 + outputBit o), timer := none }
    else if x.host then startPattern p { x with host := false }
    else { x with latch := v.getLsbD (8 + outputBit o) } := by
  unfold outputWritten
  split
  next selected =>
    rw [if_neg (by simp [selected])]
    rfl
  next left => rw [if_pos (by simpa using left)]

theorem lampsWrite_run (v : Word) (quiet : s.inbox = []) :
    exec (.lampsWrite v) s = .next (s.withBsu { s.bsu with outs := outsWritten v s }) := by
  change settled (writeLamps v s) = _
  rw [writeLamps_eq]
  exact settled_of_inbox quiet

/-- R123's table, for the three lamps that follow the call. -/
theorem selectPattern_lamps (call : CallState) (usableModule : Bool) (source : PlanSource) :
    selectPattern call usableModule source .lampCall =
        (if call = .hunting ∨ call = .reestablishing then .blink 500 500
          else if call = .locating ∨ call = .talk then .steadyOn else .steadyOff) ∧
      selectPattern call usableModule source .lampLink =
        (if call = .talk then .steadyOn else if call = .locating then .blink 125 125 else .steadyOff) ∧
      selectPattern call usableModule source .beacon = (if call = .idle then .steadyOff else .blink 100 900) := by
  cases call <;> exact ⟨rfl, rfl, rfl⟩

theorem selectPattern_fault (call : CallState) (usableModule : Bool) (source : PlanSource) :
    selectPattern call usableModule source .lampFault =
      if usableModule = false then .steadyOn else if source = .default then .blink 1000 1000 else .steadyOff := by
  cases usableModule <;> rfl

theorem startPattern_eq (p : Pattern) (x : OutputState) : startPattern p x =
    { x with
      latch := decide (p ≠ .steadyOff), pattern := p, firstHalf := true
      timer := match p with
        | .blink a _ => some a
        | _ => none } := by
  cases p <;> rfl

/-- Settles O26: the write by `lampsWrite_run` and `outputWritten_eq`, the selection and the start by their tables. -/
theorem lampsWriteTakesOutputs : Obligations.LampsWriteTakesOutputs := by
  refine ⟨fun s v quiet => ⟨_, lampsWrite_run v quiet, rfl, rfl, fun o => ?_⟩, fun call usableModule source => ?_,
    startPattern_eq⟩
  · exact (perOut_get _ o).trans (outputWritten_eq ..)
  · obtain ⟨lampCall, lampLink, beacon⟩ := selectPattern_lamps call usableModule source
    exact ⟨lampCall, lampLink, selectPattern_fault .., beacon⟩

/-! ### The LAMPS read (R126) -/

theorem readLamps_getLsbD (s : State) {i : Nat} (h : i < 16) : (readLamps s).getLsbD i =
    (outputs.map (pinLevel s) ++ outputs.map (fun o => (s.bsu.outs.get o).host)
      ++ outputs.map (fun o => (s.bsu.outs.get o).latch)
      ++ [s.bsu.call.level, s.bsu.hook.level, s.bsu.door.level, s.bsu.quiet.level]).getD i false :=
  wordOfBits_getLsbD _ h

/-- Settles O22: each bit of the word by `readLamps_getLsbD`, HOOK without its strap by the invariant of O9. -/
theorem lampsReadShowsPins : Obligations.LampsReadShowsPins := by
  intro s sound
  have read (i : Nat) (h : i < 16) : (readRegister s 5).getLsbD i = _ := readLamps_getLsbD s h
  refine ⟨fun o => ?_, read 12 (by decide), read 13 (by decide), read 14 (by decide), read 15 (by decide), fun absent => ?_⟩
  · rw [read _ (by cases o <;> decide), read _ (by cases o <;> decide), read _ (by cases o <;> decide)]
    cases o <;> exact ⟨rfl, rfl, rfl⟩
  · have rest : s.bsu.hook = ⟨false, 0⟩ := ((inputsOk_iff s).mp sound).strap absent
    exact (read 13 (by decide)).trans (congrArg Input.level rest)

end Sys2Proof.Machine
end

section
/-! PROOFS. What a reset and a soft reset leave of the inputs, and that start-up gives no event (R121, R179; O17). -/

namespace Sys2Proof.Machine

variable {s t u : State}

/-! ### Start-up (R176, R179) -/

/-- Without a carrier the table's unit has nothing to score, to publish or to report under a new plan (R18). -/
theorem ctuReplan_empty (old new : Plan) (empty : s.ctu.table = []) : ctuReplan old new s = s := by
  have table : replanTable new s.ctu.table = s.ctu.table := by rw [empty]; rfl
  have same : s.withCtu { s.ctu with table := s.ctu.table } = s := rfl
  unfold ctuReplan
  dsimp only
  rw [table, same, publishTable, if_pos rfl, reportNewKeys, if_pos (by rw [empty]; rfl)]

/-- An installation without carriers: PLN's record is written, and MLC moves. -/
theorem install_moves (plan : Plan) (source : PlanSource) (empty : s.ctu.table = []) (wait : s.mlc.wait = none) :
    LinkMoves false (s.withPln { s.pln with plan := plan, damaged := [], source := source }) (install plan source s) := by
  unfold install
  dsimp only
  rw [ctuReplan_empty _ _ (by exact empty)]
  have lamp := (takeRoles_moves plan
    (s := s.withPln { s.pln with plan := plan, damaged := [], source := source }) (by exact wait)).lamp
  exact LinkMoves.postAll (ms := [.hntPlan]) (lamp.ite lamp.published) (by simp [restful])

/-- What start-up leaves of a part at rest: the call and the causes as they stood, the part at rest, and reports that give
neither CAL nor HNT anything to act on. -/
structure StartsUp (s t : State) : Prop where
  cal : t.cal = s.cal
  causes : t.smp.causes = s.smp.causes
  resting : Resting t
  posts : ∀ m ∈ t.inbox, restful m = true

theorem LinkMoves.startsUp (h : LinkMoves false s t) (rest : Resting s) (quiet : ∀ m ∈ s.inbox, restful m = true) :
    StartsUp s t where
  cal := h.cal
  causes := (h.carriers rfl).2
  resting := h.resting rest
  posts m hm := by
    obtain ⟨ms, posted, calm⟩ := h.posts
    rw [posted, List.mem_append] at hm
    exact hm.elim (quiet m) (calm m)

theorem StartsUp.trans (h : StartsUp s t) (g : StartsUp t u) : StartsUp s u :=
  ⟨g.cal.trans h.cal, g.causes.trans h.causes, g.resting, g.posts⟩

/-- PLN's record alone is written, and its plan stays sound. -/
theorem StartsUp.withPln (h : StartsUp s t) {x : Pln} (sound : x.damaged = []) : StartsUp s (t.withPln x) :=
  { h with resting := { h.resting with sound := sound } }

theorem startUp_startsUp (rest : Resting s) (quiet : s.inbox = []) (empty : s.ctu.table = []) (wait : s.mlc.wait = none) :
    StartsUp s (startUp s) := by
  have here : StartsUp s s := ⟨rfl, rfl, rest, by simp [quiet]⟩
  unfold startUp
  split
  next plan _ _ _ =>
    split
    · have planned := here.withPln (x := { s.pln with plan := plan, damaged := [], source := .store }) rfl
      have moved := install_moves plan .store empty wait
      have installed := planned.trans (moved.startsUp planned.resting planned.posts)
      have ended := installed.withPln (x := { (install plan .store s).pln with phase := .released, grace := none })
        installed.resting.sound
      have released := releaseModules_moves (s := (install plan .store s).withPln
        { (install plan .store s).pln with phase := .released, grace := none }) (moved.wait.trans wait)
      exact ended.trans (released.startsUp ended.resting ended.posts)
    · exact here
  · exact here

theorem blocksAtReset_resting (straps : Straps) (pins : Pins) (mem : List Host.Cell) (s : State) :
    Resting (blocksAtReset straps pins mem s) where
  sound := rfl
  order := rfl
  gather := rfl
  hunt := rfl
  call := rfl

theorem WatchStep.cal (h : WatchStep s t) : t.cal = s.cal := by
  obtain ⟨⟨w, q, n, rfl⟩, _, _⟩ := h
  rfl

/-- What a reset answers: the inputs from the pins, the call as after a reset, no cause, and nothing waiting. -/
theorem reset_settles (straps : Straps) (pins : Pins) (mem : List Host.Cell) (s : State) :
    ∃ t, settled (resetPart straps pins mem s) = .next t ∧ BoxStep (blocksAtReset straps pins mem s) t ∧
      t.cal = resetCal ∧ t.smp.causes = 0 ∧ t.inbox = [] := by
  obtain ⟨cal, causes, rest, posts⟩ := startUp_startsUp (blocksAtReset_resting straps pins mem s) rfl rfl rfl
  have headed : Resting (resetPart straps pins mem s) := ⟨⟨rest.sound, rest.order, rest.gather⟩, rest.hunt, rest.call⟩
  have step := drain_restful Config.cascadeFuel (s := resetPart straps pins mem s) posts headed
  exact ⟨_, rfl, (resetPart_box straps pins mem s).settled rfl, step.cal.trans cal,
    (congrArg Smp.causes step.smp).trans causes, drain_inbox ..⟩

/-! ### The statement -/

theorem callPress_held (on : s.bsu.call.level = true) (quiet : s.inbox = []) : exec .callPress s = .next s := by
  change settled (if s.bsu.call.level then s else acceptCall true s) = _
  rw [if_pos on, settled_of_inbox quiet]

/-- Settles O17: a reset answers what `reset_settles` says, and of a soft reset BSU's own work is at the outputs alone. -/
theorem resetTakesFirstSamples : Obligations.ResetTakesFirstSamples := by
  refine ⟨fun c straps pins s command => ?_, fun s => ?_⟩
  · obtain ⟨mem, run⟩ : ∃ mem, exec c s = settled (resetPart straps pins mem s) := by
      rcases command with rfl | rfl
      · exact ⟨[], rfl⟩
      · exact ⟨keptMemory s.smp.mem, rfl⟩
    obtain ⟨t, settles, box, cal, causes, quiet⟩ := reset_settles straps pins mem s
    refine ⟨t, run.trans settles, box.call, box.hook, box.door, box.quiet, congrArg Cal.ctx cal, causes, fun held => ?_,
      fun on o => ?_⟩
    · exact callPress_held ((congrArg Input.level box.call).trans held) quiet
    · exact pinLevel_quiet ((congrArg Input.level box.quiet).trans on) o
  · have after := exec_ownWork (c := .softReset) (s := s) rfl rfl
    exact ⟨_, rfl, after.call, after.hook, after.door, after.quiet, congrArg Straps.hook after.straps⟩

end Sys2Proof.Machine
end
